-- ==== Sys2Proof/Word.lean ====
section
/-! DEFINITION. Word types of the N16 and nothing else: bytes, 32-bit words, 64-bit pairs (00 R2, R3). -/

namespace Sys2Proof

/-- One byte. -/
abbrev Byte := BitVec 8

/-- A 32-bit register value or instruction word (00 R3). -/
abbrev Word := BitVec 32

/-- The 64-bit value of a register pair, a code position or a tick (00 R3). -/
abbrev DWord := BitVec 64

/-- One bit for each of the 32 threads of a strand, thread `t` in bit `t` (02 R22). -/
abbrev Mask := BitVec 32

end Sys2Proof
end

