-- ==== Sys2Proof/Syntax.lean ====
section
/-! DEFINITION. The abstract syntax: every row of spec/opcode_table.json is one constructor of `Instr`. The first part
are the 208 instruction words of the Jeler set (06 R158); the second part are the 137 steps of the engines, homes,
services, links and of the world outside, which have no encoding and reach the machine through `State.agenda`. -/

namespace Sys2Proof

/-- A vector register number, `v0`–`v63`; for a pair the even register, for a quad the first one (06 R151, R154). -/
abbrev Reg := BitVec 6

/-- A predicate number: 0–6 name `p0`–`p6`, 7 is the constant true (07 R181). -/
abbrev PredNo := BitVec 3

/-- A queue register `q0`–`q15` (02 R37). -/
abbrev QNo := BitVec 4

/-- A tile register `m0`–`m31` (09 R254). -/
abbrev TileNo := BitVec 5

/-- A c-tile `c0`–`c15` (02 R27). -/
abbrev CTileNo := BitVec 4

/-- A histogram `h0`–`h7` (05 R140). -/
abbrev HistNo := BitVec 3

/-- The source named by a 7-bit operand selector (06 R153); in a V4 c field only `reg` 0–27 and `latch` occur (06 R151). -/
inductive Sel where
  | reg (r : Reg)
  | latch (n : BitVec 2)
  | queue (q : QNo)
  | tid | sid | blkX | blkY | blkZ | lane | core | quad | die | pkg | tick | tickh | xm
  | int (n : BitVec 4)
  | neg (n : BitVec 3)
  | flt (n : BitVec 3)
  deriving DecidableEq, Repr

/-- The scopes of 01 R13, by code 0–6. -/
inductive Scope where
  | lane | core | quad | die | pkg | pod | sys
  deriving DecidableEq, Repr

/-- Conditions of `icmp` and `ncmp` (06 R159). -/
inductive Cond where
  | eq | ne | lt | le | gt | ge
  deriving DecidableEq, Repr

/-- Conditions of `fcmp` (06 R159). -/
inductive FCond where
  | eq | ne | lt | le | gt | ge | ord | uno
  deriving DecidableEq, Repr

/-- The combine of a compare with the predicate it writes (06 R159). -/
inductive Combine where
  | set | and | or
  deriving DecidableEq, Repr

/-- The element type of major 0x10 (07 R183). -/
inductive FType where
  | f32 | f16x2 | bf16x2
  deriving DecidableEq, Repr

/-- The operand formats by code 0x0–0xE (05 R110); the names are those of `jas` (07 R189). -/
inductive Fmt where
  | dm8 | dm6 | dm4 | e5m2 | e4m3 | e3m2 | e2m3 | e2m1 | f16 | bf16 | f32 | i8 | n8 | i4 | acc
  deriving DecidableEq, Repr

/-- Rounding modes by code (05 R124). -/
inductive RMode where
  | ne | z | dn | up
  deriving DecidableEq, Repr

/-- Transfer widths of the M format (06 R151). -/
inductive Width where
  | b | bs | h | hs | w | d | q
  deriving DecidableEq, Repr

/-- The address operand of the M format: the space (04 R86) and the pair or selector that holds the address. -/
inductive MemAddr where
  | glob (a : Reg)
  | lane (a : Sel)
  | core (a : Sel)
  | quad (a : Sel)
  | die (a : Reg)
  deriving DecidableEq, Repr

/-- Compares of `wwait` (08 R237). -/
inductive WCmp where
  | eq | ne | geu | ltu
  deriving DecidableEq, Repr

/-- The special registers of 06 R162 and 09 R292. -/
inductive SReg where
  | fcr | fflags | ftrapen | xm | lr | role | prio | allot | qstatus | wdl | wdlh | psf | tick | tickh
  | tvec | tvech | tcause | taddr | taddrh | tepc | tepch
  | emword | emop | emfn | emd | ema | emb | emc | emimm | emclause
  | hoff (n : BitVec 3) | mcnan | mcovf | mcsat
  | pkgno | dieno | quadno | coreno | laneno | strandno | blkx | blky | blkz | gridx | gridy | gridz
  | nstrands | blkidx | lhandle | params | paramsh
  | pksel | rootl | rooth | asn | aplace | bindl | bindh | bindn
  | winA (n : BitVec 3) | winB (n : BitVec 3) | kctx | crdl | crdh
  | qctx (q : BitVec 4) | fqbl | fqbh | fqsize | fqprod | fqcons
  deriving DecidableEq, Repr

/-- The operand fields that the three matrix instructions share (06 R161). -/
structure MmaArgs where
  ct : CTileNo
  ta : TileNo
  tb : TileNo
  fa : Fmt
  fb : Fmt
  acc : Bool
  areg : Reg
  asel : BitVec 2
  breg : Reg
  bsel : BitVec 2
  noscale : Bool
  deriving DecidableEq, Repr

/-- The cause codes of 14 R350. -/
inductive Cause where
  | illegalEncoding | privilege | alignment | arith | brk | promiseMissed | queueMisuse | tileOwner | docMisuse
  | operandMisuse | engineMisuse | translation | protection | leaseExpired | leaseRecalled | lenderLost
  | remoteFault | poison | tornLaunch | signatureMismatch | syscall
  deriving DecidableEq, Repr

/-- Read-modify-writes of 08 R223, by the row of the table. -/
inductive AtomFn where
  | add | and | or | xor | xchg | imin | imax | nmin | nmax | cas | inc | badd | fadd | fmax | faddBf16x2
  deriving DecidableEq, Repr

/-- A lane: a temporal lane of a core, or the control lane of a context (02 R22, R27). -/
inductive LaneId where
  | vec (core lane : Nat)
  | ctl (quad context : Nat)
  deriving DecidableEq, Repr

/-- A strand or control program by launch handle and index in its launch (02 R23). -/
structure StrandId where
  handle : Nat
  index : Nat
  deriving DecidableEq, Repr

/-- The place of a register error (16 R404). -/
inductive RegSite where
  | reg (r : Reg)
  | pred (p : Fin 7)
  | latch (n : BitVec 2)
  deriving DecidableEq, Repr

/-- A reply from another package to one access of an outstanding operation: its data, or a fault reply (14 R348). -/
structure RemoteReply where
  acc : Nat
  value : BitVec 128
  fault : Option Cause
  supplied : DWord
  deriving DecidableEq, Repr

/-- A request tag (15 R394). -/
structure ReqTag where
  pkg : Nat
  die : Nat
  seq : Nat
  deriving DecidableEq, Repr

/-- What an agent outside the compute dies asks of a home: a hub core, an endpoint's DMA, a peer package. -/
inductive OuterKind where
  | load | store
  /-- a hub core's load-reserved and store-conditional (10 R311) -/
  | lr | sc
  | atomic (fn : AtomFn)
  | deposit
  | watch (cmp : WCmp) (wide : Bool) (deadline : Option DWord)
  | docProp | docRead | docReset | docStat
  /-- the holder of an armed watch entry here gives it up, or has moved to another lane (02 R50; 08 R239–R241) -/
  | watchFree (entry : Nat)
  | watchMove (entry : Nat)
  /-- the answer to a request of another package that this package's switch has forwarded, with its value in `data` (10 R298; 11 R331) -/
  | reply (fault : Option Cause)
  deriving DecidableEq, Repr

/-- One access of an agent outside the compute dies: `addr` is a local address of the package that serves it (04 R91); `data` is
the stored value or operand b, `din` the input d or the expected generation, and bit 0 HUB of a watch; `leaseId` is carried by
requests to a granted extent (11 R316); `who` is the identity a winning proposal writes (08 R232), or OWNER of a watch (08 R241).
`dest` is the package that serves it when that is not this one (11 R331), and `fence` the TAG of the FENCE that it follows, for a
release at `pod` (11 R332); `whole` says of a store that with it one store instruction has written the whole 32-byte word (15 R378). -/
structure OuterReq where
  kind : OuterKind
  addr : Nat
  size : Nat
  data : BitVec 128
  din : DWord
  leaseId : Nat
  who : Word
  dest : Option Nat
  fence : Option Nat
  whole : Bool
  deriving DecidableEq, Repr

/-- A hart of the hub cores at an access, with the mode that it is in: user, or machine or supervisor (11 R329). -/
structure HubHart where
  hart : Nat
  user : Bool
  deriving DecidableEq, Repr

/-- A port's retraining, with the link rate that the package kernel has fixed for it; none for automatic (01 R16, R17). -/
structure Retrain where
  port : Nat
  asked : Option Nat
  deriving DecidableEq, Repr

/-- The lender's answer to the fetch of a staged unit: its 256 bytes and the tick at which it supplied them, or a fault reply
(10 R310; 11 R322; 15 R379). -/
structure FetchReply where
  data : List Byte
  fault : Option Cause
  supplied : DWord
  deriving DecidableEq, Repr

/-- The payload of a fence-count message (11 R332): 1 FENCE, 2 PROBE, 3 PROBE-ACK; `dest` is the package that a FENCE is routed to, with
the release behind it (11 R331). -/
structure FenceMsg where
  tag : Nat
  hops : Nat
  src : Nat
  code : Nat
  dest : Nat
  deriving DecidableEq, Repr

/-- What reaches the cobbler of an entry: that it is offered or requested, or that this has ended by a withdrawal or cancellation (11
R316, R318, R328). -/
structure Trade where
  entry : Nat
  ended : Bool
  deriving DecidableEq, Repr

/-- A dynamic-capacity extent tag (11 R314) with the extent and duration the add event names (11 R318). -/
structure ExtentTag where
  lender : Nat
  extent : Nat
  leaseId : Nat
  expiry : DWord
  durMs : Nat
  deriving DecidableEq, Repr

/-- What a check of a memory array finds (15 R374). -/
inductive ArrayCheck where
  | good | correctable | uncorrectable
  deriving DecidableEq, Repr

/-- What a port trains to: a package, an external switch, an endpoint of a flex port, or a peer or switch that requires a part of
CXL that 11 R313 marks "no" (01 R9, R20). -/
inductive Partner where
  | package (n : Nat)
  | switch
  | endpoint
  | unfit (n : Option Nat)
  deriving DecidableEq, Repr

/-- The boot configuration read at stage 1 (01 R16, 11 R326, 13 R339). -/
structure BootConfig where
  slot : Nat
  plain : Bool
  anchors : List Nat
  electCell : Nat
  deriving DecidableEq, Repr

/-- What a boot stage finds: the digest of the image it checks and whether its signature verifies, the dies that fail
the self-test of stage 2, the ports that train in stage 3, and the areas the hub firmware reserves (13 R339, 15 R372,
16 R417). -/
structure StageResult where
  digest : BitVec 512
  verified : Bool
  badDies : List Nat
  ports : List (Nat × Partner)
  logBase : Nat
  logSize : Nat
  imageBase : Nat
  imageSize : Nat
  deriving DecidableEq, Repr

/-- One constructor per row of spec/opcode_table.json. -/
inductive Instr where
  -- major 0x01 (07 R172-R174)
  | iadd (d : Reg) (nw : Bool) (a b : Sel)
  | isub (d : Reg) (nw : Bool) (a b : Sel)
  | imul (d : Reg) (nw : Bool) (a b : Sel)
  | imulh (d : Reg) (nw : Bool) (a b : Sel)
  | nmulh (d : Reg) (nw : Bool) (a b : Sel)
  | iaddc (d : Reg) (nw : Bool) (a b : Sel)
  | isubb (d : Reg) (nw : Bool) (a b : Sel)
  | imin (d : Reg) (nw : Bool) (a b : Sel)
  | imax (d : Reg) (nw : Bool) (a b : Sel)
  | nmin (d : Reg) (nw : Bool) (a b : Sel)
  | nmax (d : Reg) (nw : Bool) (a b : Sel)
  | and (d : Reg) (nw : Bool) (a b : Sel)
  | or (d : Reg) (nw : Bool) (a b : Sel)
  | xor (d : Reg) (nw : Bool) (a b : Sel)
  | andn (d : Reg) (nw : Bool) (a b : Sel)
  | shl (d : Reg) (nw : Bool) (a b : Sel)
  | shr (d : Reg) (nw : Bool) (a b : Sel)
  | sar (d : Reg) (nw : Bool) (a b : Sel)
  | rotl (d : Reg) (nw : Bool) (a b : Sel)
  | bfx (d : Reg) (nw : Bool) (a b : Sel)
  | bfxs (d : Reg) (nw : Bool) (a b : Sel)
  | perm (d : Reg) (nw : Bool) (a b : Sel)
  | iabsd (d : Reg) (nw : Bool) (a b : Sel)
  -- major 0x02 (07 R175)
  | ineg (d : Reg) (nw : Bool) (a : Sel)
  | iabs (d : Reg) (nw : Bool) (a : Sel)
  | not (d : Reg) (nw : Bool) (a : Sel)
  | popc (d : Reg) (nw : Bool) (a : Sel)
  | clz (d : Reg) (nw : Bool) (a : Sel)
  | ctz (d : Reg) (nw : Bool) (a : Sel)
  | brev (d : Reg) (nw : Bool) (a : Sel)
  | sext8 (d : Reg) (nw : Bool) (a : Sel)
  | sext16 (d : Reg) (nw : Bool) (a : Sel)
  | zext8 (d : Reg) (nw : Bool) (a : Sel)
  | zext16 (d : Reg) (nw : Bool) (a : Sel)
  | bswap (d : Reg) (nw : Bool) (a : Sel)
  -- majors 0x03-0x05 (07 R173, R176)
  | imad (d : Reg) (nw : Bool) (a b c : Sel)
  | bfi (d : Reg) (nw : Bool) (a b c : Sel)
  | sel (d : Reg) (nw : Bool) (a b : Sel) (p : PredNo)
  -- majors 0x06-0x0B (07 R177)
  | iaddi (d : Reg) (nw : Bool) (a : Sel) (imm : BitVec 12)
  | andi (d : Reg) (nw : Bool) (a : Sel) (imm : BitVec 12)
  | ori (d : Reg) (nw : Bool) (a : Sel) (imm : BitVec 12)
  | xori (d : Reg) (nw : Bool) (a : Sel) (imm : BitVec 12)
  | movi (d : Reg) (nw : Bool) (imm : BitVec 12)
  | lit (d : Reg) (nw : Bool) (value : Word)
  -- major 0x0C (07 R178)
  | lea (d : Reg) (nw : Bool) (a b : Sel) (sh : BitVec 3)
  | lea64 (d : Reg) (nw : Bool) (a : Reg) (b : Sel) (sh : BitVec 3)
  -- major 0x0D (07 R179)
  | icmp (pd : PredNo) (cmb : Combine) (a b : Sel) (cond : Cond)
  | ncmp (pd : PredNo) (cmb : Combine) (a b : Sel) (cond : Cond)
  -- major 0x0E (07 R180)
  | iadd64 (d : Reg) (nw : Bool) (a b : Reg)
  | isub64 (d : Reg) (nw : Bool) (a b : Reg)
  | shl64 (d : Reg) (nw : Bool) (a b : Reg)
  | shr64 (d : Reg) (nw : Bool) (a b : Reg)
  | sar64 (d : Reg) (nw : Bool) (a b : Reg)
  | imul64 (d : Reg) (nw : Bool) (a b : Reg)
  | mulw (d : Reg) (nw : Bool) (a b : Reg)
  | nmulw (d : Reg) (nw : Bool) (a b : Reg)
  -- major 0x0F (07 R182)
  | pand (pd pa pb : PredNo)
  | por (pd pa pb : PredNo)
  | pxor (pd pa pb : PredNo)
  | pandn (pd pa pb : PredNo)
  | pnot (pd pa : PredNo)
  | ptest (pd : PredNo) (a : Sel)
  | pget (d : Reg) (nw : Bool) (pa : PredNo)
  -- major 0x10 (07 R183)
  | fadd (d : Reg) (nw : Bool) (a b : Sel) (ty : FType)
  | fsub (d : Reg) (nw : Bool) (a b : Sel) (ty : FType)
  | fmul (d : Reg) (nw : Bool) (a b : Sel) (ty : FType)
  | fmin (d : Reg) (nw : Bool) (a b : Sel) (ty : FType)
  | fmax (d : Reg) (nw : Bool) (a b : Sel) (ty : FType)
  | fscale (d : Reg) (nw : Bool) (a b : Sel) (ty : FType)
  | fcopysign (d : Reg) (nw : Bool) (a b : Sel) (ty : FType)
  | fabsd (d : Reg) (nw : Bool) (a b : Sel) (ty : FType)
  -- majors 0x11-0x13 (07 R184)
  | ffma (d : Reg) (nw : Bool) (a b c : Sel)
  | hfma (d : Reg) (nw : Bool) (a b c : Sel)
  | bfma (d : Reg) (nw : Bool) (a b c : Sel)
  -- major 0x14 (07 R185, R186)
  | fneg (d : Reg) (nw : Bool) (a : Sel)
  | fabs (d : Reg) (nw : Bool) (a : Sel)
  | frcp (d : Reg) (nw : Bool) (a : Sel)
  | frsq (d : Reg) (nw : Bool) (a : Sel)
  | fsqrt (d : Reg) (nw : Bool) (a : Sel)
  | fexp2 (d : Reg) (nw : Bool) (a : Sel)
  | flog2 (d : Reg) (nw : Bool) (a : Sel)
  | fsin (d : Reg) (nw : Bool) (a : Sel)
  | fcos (d : Reg) (nw : Bool) (a : Sel)
  | ftanh (d : Reg) (nw : Bool) (a : Sel)
  | fsigm (d : Reg) (nw : Bool) (a : Sel)
  | frndNe (d : Reg) (nw : Bool) (a : Sel)
  | frndZ (d : Reg) (nw : Bool) (a : Sel)
  | frndDn (d : Reg) (nw : Bool) (a : Sel)
  | frndUp (d : Reg) (nw : Bool) (a : Sel)
  | fclass (d : Reg) (nw : Bool) (a : Sel)
  | ffract (d : Reg) (nw : Bool) (a : Sel)
  -- major 0x15 (07 R187)
  | fcmp (pd : PredNo) (cmb : Combine) (a b : Sel) (cond : FCond)
  | fcmpF64 (pd : PredNo) (cmb : Combine) (a b : Reg) (cond : FCond)
  -- majors 0x16-0x18 (07 R189-R192)
  | fcvt (d : Reg) (nw : Bool) (a : Sel) (src dst : Fmt) (rm : RMode) (pos : BitVec 2)
  | fpack (d : Reg) (nw : Bool) (a b : Sel) (dst : Fmt) (high : Bool)
  | funpk (d : Reg) (nw : Bool) (a : Sel) (src : Fmt) (pos : BitVec 2)
  -- majors 0x19, 0x1A (07 R188)
  | dadd (d : Reg) (nw : Bool) (a b : Reg)
  | dsub (d : Reg) (nw : Bool) (a b : Reg)
  | dmul (d : Reg) (nw : Bool) (a b : Reg)
  | dmin (d : Reg) (nw : Bool) (a b : Reg)
  | dmax (d : Reg) (nw : Bool) (a b : Reg)
  | dfma (d : Reg) (nw : Bool) (a b c : Reg)
  -- major 0x1B (07 R193-R195)
  | sbcast (d : Reg) (nw : Bool) (a b : Sel)
  | saff (d : Reg) (nw : Bool) (a b : Sel)
  | sgen (d : Reg) (nw : Bool) (a : Sel)
  | stag (d : Reg) (nw : Bool) (a : Sel)
  | mov (d : Reg) (nw : Bool) (a : Sel)
  | xmrd (d : Reg) (nw : Bool)
  | xmwr (a : Sel)
  | ballot (d : Reg) (nw : Bool) (a : Sel)
  -- major 0x1C (07 R196-R199)
  | xchGet (d : Reg) (nw : Bool) (a b : Sel)
  | xchFlip (d : Reg) (nw : Bool) (a b : Sel)
  | xchRot (d : Reg) (nw : Bool) (a b : Sel)
  | xchLag (d : Reg) (nw : Bool) (a b : Sel)
  | redAdd (d : Reg) (nw : Bool) (a : Sel)
  | redFadd (d : Reg) (nw : Bool) (a : Sel)
  | redMin (d : Reg) (nw : Bool) (a : Sel)
  | redMax (d : Reg) (nw : Bool) (a : Sel)
  | scanAdd (d : Reg) (nw : Bool) (a : Sel)
  | scanFadd (d : Reg) (nw : Bool) (a : Sel)
  | allnz (d : Reg) (nw : Bool) (a : Sel)
  | anynz (d : Reg) (nw : Bool) (a : Sel)
  -- majors 0x20-0x23 (07 R200-R204)
  | br (p : PredNo) (ng : Bool) (tgt : BitVec 14)
  | brAll (p : PredNo) (ng : Bool) (tgt : BitVec 14)
  | brd (p : PredNo) (ng : Bool) (tgt : BitVec 14) (aux : BitVec 8)
  | call (tgt : BitVec 14)
  | jr (a : Reg)
  | jrd (a b : Reg)
  | ret
  -- major 0x24 (07 R206-R208, 09 R284-R289)
  | nop
  | exit
  | yield
  | tfence
  | trap (a : Sel)
  | brkpt
  | eret
  | nap (a : Sel)
  | role (a : Sel)
  | sysc (d : Reg) (nw : Bool) (a : Sel) (b : Reg)
  -- majors 0x25, 0x26 (09 R291)
  | rdsr (d : Reg) (nw : Bool) (sr : SReg)
  | wrsr (a : Sel) (sr : SReg)
  -- majors 0x28-0x2B (08 R210)
  | ld (r : Reg) (addr : MemAddr) (width : Width) (off : BitVec 6)
  | st (r : Reg) (addr : MemAddr) (width : Width) (off : BitVec 6)
  | ldv (r : Reg) (addr : MemAddr) (width : Width) (off : BitVec 6)
  | pf (addr : MemAddr) (width : Width) (off : BitVec 6)
  -- major 0x2D (08 R218)
  | acq (d a : Reg) (scope : Scope)
  | rel (a : Reg) (b : Sel) (scope : Scope)
  | acqrel (d a : Reg) (b : Sel) (scope : Scope)
  | fence (scope : Scope)
  -- majors 0x2E, 0x2F (08 R223)
  | aadd (d a : Reg) (b : Sel) (scope : Scope)
  | aand (d a : Reg) (b : Sel) (scope : Scope)
  | aor (d a : Reg) (b : Sel) (scope : Scope)
  | axor (d a : Reg) (b : Sel) (scope : Scope)
  | axchg (d a : Reg) (b : Sel) (scope : Scope)
  | amin (d a : Reg) (b : Sel) (scope : Scope)
  | amax (d a : Reg) (b : Sel) (scope : Scope)
  | anmin (d a : Reg) (b : Sel) (scope : Scope)
  | anmax (d a : Reg) (b : Sel) (scope : Scope)
  | acas (d a : Reg) (b : Sel) (scope : Scope)
  | ainc (d a : Reg) (b : Sel) (scope : Scope)
  | abadd (d a : Reg) (b : Sel) (scope : Scope)
  | afadd (d a : Reg) (b : Sel) (scope : Scope)
  | afmax (d a : Reg) (b : Sel) (scope : Scope)
  | afaddBf16x2 (d a : Reg) (b : Sel) (scope : Scope)
  -- major 0x30 (08 R223)
  | aadd64 (d a b : Reg) (scope : Scope)
  | axchg64 (d a b : Reg) (scope : Scope)
  | acas64 (d a b : Reg) (scope : Scope)
  | amin64 (d a b : Reg) (scope : Scope)
  | amax64 (d a b : Reg) (scope : Scope)
  -- major 0x31 (08 R229)
  | caddF32 (a : Reg) (b : Sel) (scope : Scope)
  | caddBf16 (a : Reg) (b : Sel) (scope : Scope)
  | caddF16 (a : Reg) (b : Sel) (scope : Scope)
  | caddI32 (a : Reg) (b : Sel) (scope : Scope)
  | cmaxF32 (a : Reg) (b : Sel) (scope : Scope)
  -- major 0x32 (08 R233)
  | dprop (d a b : Reg) (scope : Scope)
  | dread (d a : Reg) (b : Sel) (scope : Scope)
  | dreset (d a : Reg) (b : Sel) (scope : Scope)
  | dstat (d a : Reg) (scope : Scope)
  -- major 0x33 (08 R237)
  | wwait (d a : Reg) (b : Sel) (cmp : WCmp) (w64 dl : Bool)
  -- major 0x34 (08 R242)
  | barPost (d : Reg) (nw : Bool) (a b : Sel)
  | barMeet (d : Reg) (nw : Bool) (a b : Sel)
  | barHold (d : Reg) (nw : Bool) (a : Sel)
  | barQuad (d : Reg) (nw : Bool)
  | barDie (d : Reg) (nw : Bool)
  | barPkg (d : Reg) (nw : Bool)
  | barPod (d : Reg) (nw : Bool)
  | join
  -- major 0x35 (08 R248)
  | qput (q : QNo) (a : Sel)
  | qtry (d : Reg) (nw : Bool) (q : QNo)
  | qbind (q : QNo) (a : Sel) (consumer quadSpace : Bool)
  | qallow (q : QNo) (a : Sel)
  | qcount (d : Reg) (nw : Bool) (q : QNo)
  | qunbind (q : QNo)
  -- major 0x36 (09 R260)
  | tgive (t : TileNo)
  | ttake (t : TileNo)
  | towner (d : Reg) (nw : Bool) (t : TileNo)
  | mvtd (t : TileNo) (a : Reg)
  | rdtd (d : Reg) (nw : Bool) (t : TileNo)
  -- majors 0x37, 0x38 (06 R161, 09 R264-R268, R272)
  | mma (m : MmaArgs)
  | mmab (m : MmaArgs)
  | mmat (m : MmaArgs) (diag : BitVec 7) (upper : Bool) (mconst : BitVec 2)
  | cdrain (c : CTileNo) (t : TileNo) (fmt : Fmt) (hist : Option HistNo) (give relu : Bool) (rm : RMode) (sreg : Reg) (ssel : BitVec 2) (rowScale : Bool)
  -- major 0x39 (09 R270)
  | czero (c : CTileNo)
  | cload (c : CTileNo) (t : TileNo) (fmt : Fmt)
  | hclr (k : HistNo)
  | hrd (d : Reg) (nw : Bool) (a : Sel) (k : HistNo)
  | hset (a : Sel) (k : HistNo)
  | cwait (t : TileNo) (v : Bool)
  -- steps of the engines and agents: no encoding
  -- clauses, strands, fragments (02, 03 R82)
  | clauseIssue (lane : LaneId)
  | clauseBegin
  | strandReady (st : StrandId) (frag : Nat)
  | timeSliceExpiry (st : StrandId)
  | evictionComplete (handle block : Nat)
  | bankDrowsy (lane : LaneId) (bank : Nat)
  | registerError (st : StrandId) (frag : Nat) (what : RegSite) (threads : Mask)
  | releasePerform (op : Nat)
  | tgiveFlip (tc : Nat) (t : TileNo)
  -- launches, graphs, ranges, placement (03)
  | launchDoorbell (q : QNo) (value : Word)
  | qerrClear (q : QNo)
  | launchRecordAccept
  | tornReread (q : QNo)
  | deviceLaunch (st : StrandId)
  | graphRegister
  | graphUnregister
  | graphReplay
  | graphReplayStart
  | graphNodeAccept (replay node : Nat)
  | launchComplete (handle : Nat)
  | rangeRequest (die handle : Nat)
  | rangeSteal (die handle : Nat)
  | blockPlace (die : Nat)
  -- engines (03 R83, R84, 09)
  | matrixOpTake (quad : Nat)
  | matrixOpComplete (quad engine : Nat)
  | get (cmd row : Nat)
  | put (cmd row : Nat)
  | fill (cmd row : Nat)
  | copyCommandTake (die : Nat)
  | copyComplete (cmd : Nat)
  | promiseDecision (cmd : Nat)
  | copyFailed (cmd : Nat) (cause : Cause)
  | scale (cmd unit : Nat)
  | axpy (cmd unit : Nat)
  | fade (cmd unit : Nat)
  | zero (cmd unit : Nat)
  | nearUnitApply (cmd unit : Nat)
  | nearCommandComplete (cmd : Nat)
  -- homes, points, replies (04, 08, 10)
  | homeAccess (op acc : Nat)
  | parityDeltaApply (op acc : Nat)
  | atomicAtPoint (op acc : Nat)
  | caddDeposit (op acc : Nat)
  | docCellRequest (op acc : Nat)
  | watchArmRequest (op : Nat)
  | watchDeadline (entry : Nat)
  | replyArrive (op : Nat) (replies : List RemoteReply)
  | cxlMemRequest (tag : ReqTag) (req : OuterReq)
  | nearCopyAgeOut (die line : Nat)
  | predictorSwitchNear (line : Nat)
  | stagedUnitFetched (borrow unit : Nat) (reply : FetchReply)
  | stagedUnitAgeOut (borrow unit : Nat)
  | stagedWritebackBegin (borrow unit : Nat)
  | stagedWritebackAck (borrow unit : Nat) (refused : Bool)
  | backInvalidate (borrow unit : Nat)
  | fenceCountMessage (msg : FenceMsg)
  | switchReleaseForward (op : Nat)
  | probeTimeout (switch : Nat)
  | hubWatchArm (die hart : Nat) (addr : DWord)
  | hubReplyClear (die hart : Nat)
  | hubCoreAccess (hart : HubHart) (req : OuterReq)
  | endpointDma (port : Nat) (req : OuterReq)
  -- services of the package kernel (09 R290, 16)
  | inval (svc : Nat)
  | invalComplete (svc : Nat)
  | bindload (svc : Nat)
  | evict (svc : Nat)
  | checkpoint (svc : Nat)
  | checkpointComplete (svc : Nat)
  | restore (svc : Nat)
  | kill (svc : Nat)
  | killAct (st : StrandId)
  | faultQueueDrain
  | dispResume
  | dispReflect
  | dispKill
  | signatureCompare (handle block strand : Nat)
  | signatureTimeout (handle block strand : Nat)
  -- lending (11)
  | leaseOffer (entry extent : Nat)
  | leaseWithdraw (entry : Nat)
  | leaseRecall (entry : Nat)
  | extentAdd (entry borrower durMs term : Nat)
  | leaseRenewal (borrower leaseId : Nat)
  | leaseRelease (borrower leaseId : Nat)
  | leaseExpiry (entry : Nat)
  | recallDeadline (entry : Nat)
  | extentScrubDone (entry : Nat)
  | extentRequest (entry : Nat)
  | requestCancel (entry : Nat)
  | borrowRelease (entry : Nat)
  | borrowReactivate (entry : Nat)
  | borrowFree (entry : Nat)
  | addEvent (entry : Nat) (tag : ExtentTag)
  | renewalDue (entry : Nat)
  | renewalReply (entry leaseId : Nat) (expiry : DWord)
  | renewalRetry (entry : Nat)
  | guardReached (entry : Nat)
  | recall (lender leaseId : Nat)
  | releaseAck (entry : Nat)
  | cobblerOffer (pkg : Nat) (trade : Trade)
  | cobblerRequest (pkg : Nat) (trade : Trade)
  | heartbeatSend
  | heartbeat (sender term : Nat) (time : DWord)
  | heartbeatTimeout
  -- failure and links (15)
  | hbmPatrolRead (unit : Nat) (found : ArrayCheck)
  | unitRebuildComplete (unit : Nat)
  | errorLogFlush
  | stackBaseDieSilent (stack : Nat)
  | settlePoint
  | dieFence (die reason : Nat)
  | fencedNotice (pkg : Nat)
  | noRouteTimeout (pkg : Nat)
  | requestRetry (op acc : Nat)
  | linkReplay (port : Nat) (sameFlit : Bool)
  | retrainComplete (train : Retrain)
  | routeRecompute (port : Nat)
  -- start-up, identity, power (13)
  | reset (cfg : BootConfig)
  | bootStage (res : StageResult)
  | attestationRequest (nonce : DWord)
  | grantInterval (demand : List Nat)
  | overCurrentAlarm (die : Nat)
  | coolantOutOfLimits (inletHigh flowLow : Bool)
  | coolantBudgetStep
  | burstExhausted
  | profile (value : Word)
  | thermClear (value : Word)
  -- debugger (14 R370)
  | arm (lane : LaneId)
  | disarm (lane : LaneId)
  | halt (st : StrandId)
  | debugResume (st : StrandId)
  | step (st : StrandId) (frag : Nat)
  | debugRead (st : StrandId)
  | debugWrite (st : StrandId) (image : List Byte)
  -- further steps
  | registerWrite (addr : Nat) (size : Nat) (value : DWord)
  | attestationReport (pkg : Nat) (verified : Bool)
  | linkTraining (port : Nat) (partner : Partner)
  | hubFirmwareFailure
  | coolantWithinLimits
  | lineEviction (die line : Nat)
  deriving DecidableEq, Repr

end Sys2Proof
end

