-- ==== Sys2Proof/WellFormed.lean ====
section
/-! DEFINITION. The static checks on an instruction: what its encoding admits (06 R111, R151-R154, R158-R161, R182, 08
R248, 09 R270) and, for a step without an encoding, that its arguments name units that exist (01 R14). -/

namespace Sys2Proof

/-- A pair is named by its even register (06 R154). -/
def Reg.isPair (r : Reg) : Bool := r.getLsbD 0 == false

/-- A q transfer names a multiple of 4 (06 R154); every multiple of 4 is at most 60. -/
def Reg.isQuad (r : Reg) : Bool := r.getLsbD 0 == false && r.getLsbD 1 == false

/-- A selector field has values for `q4`–`q15` only (06 R153). -/
def Sel.wf : Sel → Bool
  | .queue q => decide (4 ≤ q.toNat)
  | _ => true

/-- A V4 c field names `v0`–`v27` or a latch (06 R151). -/
def Sel.isThird : Sel → Bool
  | .reg r => decide (r.toNat ≤ 27)
  | .latch _ => true
  | _ => false

/-- How many elements of the format lie in a 32-bit word (06 R160). -/
def Fmt.positions : Fmt → Nat
  | .f16 | .bf16 => 2
  | .f32 | .acc => 1
  | _ => 4

/-- The format codes that `mma` and `fcvt` accept, 0x0–0xD (05 R111). -/
def Fmt.isOperand (f : Fmt) : Bool := f != .acc

/-- The integer formats (05 R111). -/
def Fmt.isInt : Fmt → Bool
  | .i8 | .n8 | .i4 => true
  | _ => false

/-- The narrow formats of `fpack` and `funpk`: 0x0–0x9 and 0xB–0xD (06 R160). -/
def Fmt.isNarrow (f : Fmt) : Bool := f != .f32 && f != .acc

/-- The format and position rule of `fcvt` (06 R160, 07 R190). -/
def fcvtWf (src dst : Fmt) (pos : BitVec 2) : Bool :=
  src.isOperand && dst.isOperand &&
    if src = dst then (src == .f32 || src.isInt) && pos == 0
    else
      (!src.isNarrow || decide (pos.toNat < src.positions)) &&
        (!dst.isNarrow || decide (pos.toNat < dst.positions))

/-- The rule of a matrix word's formats (05 R111, R136). -/
def MmaArgs.wf (m : MmaArgs) : Bool :=
  m.fa.isOperand && m.fb.isOperand && (m.fa.isInt == m.fb.isInt) && (!m.fa.isInt || m.noscale)

/-- The transfer register of an M word (06 R151, R154). -/
def Width.regWf (wd : Width) (r : Reg) : Bool :=
  match wd with
  | .d => r.isPair
  | .q => r.isQuad
  | _ => true

/-- The address operand of an M word (06 R154). -/
def MemAddr.wf : MemAddr → Bool
  | .glob a | .die a => a.isPair
  | .lane a | .core a | .quad a => a.wf

/-- Special registers that `wrsr` may write (06 R162, 09 R292). -/
def SReg.writable : SReg → Bool
  | .fcr | .fflags | .ftrapen | .lr | .wdl | .wdlh | .tvec | .tvech | .tepc | .tepch => true
  | .hoff _ | .mcnan | .mcovf | .mcsat => true
  | .pksel | .rootl | .rooth | .asn | .aplace | .bindl | .bindh | .bindn | .winA _ | .winB _ | .kctx => true
  | .crdl | .crdh | .qctx _ | .fqbl | .fqbh | .fqsize | .fqcons => true
  | _ => false

def LaneId.wf : LaneId → Bool
  | .vec c l => decide (c < 256) && decide (l < 128)
  | .ctl q x => decide (q < 64) && decide (x < 4)

def StrandId.wf (s : StrandId) : Bool := decide (s.handle < 2 ^ 30) && decide (s.index < 2 ^ 32)

/-- Whether an instruction is one that the encoding, or the module's numbering, admits. -/
def wellFormed : Instr → Bool
  | .iadd _ _ a b | .isub _ _ a b | .imul _ _ a b | .imulh _ _ a b | .nmulh _ _ a b | .iaddc _ _ a b
  | .isubb _ _ a b | .imin _ _ a b | .imax _ _ a b | .nmin _ _ a b | .nmax _ _ a b | .and _ _ a b
  | .or _ _ a b | .xor _ _ a b | .andn _ _ a b | .shl _ _ a b | .shr _ _ a b | .sar _ _ a b
  | .rotl _ _ a b | .bfx _ _ a b | .bfxs _ _ a b | .perm _ _ a b | .iabsd _ _ a b => a.wf && b.wf
  | .ineg _ _ a | .iabs _ _ a | .not _ _ a | .popc _ _ a | .clz _ _ a | .ctz _ _ a | .brev _ _ a
  | .sext8 _ _ a | .sext16 _ _ a | .zext8 _ _ a | .zext16 _ _ a | .bswap _ _ a => a.wf
  | .imad _ _ a b c | .bfi _ _ a b c | .ffma _ _ a b c | .hfma _ _ a b c | .bfma _ _ a b c =>
    a.wf && b.wf && c.isThird
  | .sel _ _ a b _ => a.wf && b.wf
  | .iaddi _ _ a _ | .andi _ _ a _ | .ori _ _ a _ | .xori _ _ a _ => a.wf
  | .movi _ _ _ | .lit _ _ _ => true
  | .lea _ _ a b sh => a.wf && b.wf && decide (sh.toNat ≤ 4)
  | .lea64 d _ a b sh => d.isPair && a.isPair && b.wf && decide (sh.toNat ≤ 4)
  | .icmp pd _ a b _ | .ncmp pd _ a b _ | .fcmp pd _ a b _ => pd != 7 && a.wf && b.wf
  | .fcmpF64 pd _ a b _ => pd != 7 && a.isPair && b.isPair
  | .iadd64 d _ a b | .isub64 d _ a b | .shl64 d _ a b | .shr64 d _ a b | .sar64 d _ a b | .imul64 d _ a b
  | .mulw d _ a b | .nmulw d _ a b | .dadd d _ a b | .dsub d _ a b | .dmul d _ a b | .dmin d _ a b
  | .dmax d _ a b => d.isPair && a.isPair && b.isPair
  | .pand pd _ _ | .por pd _ _ | .pxor pd _ _ | .pandn pd _ _ => pd != 7
  | .pnot pd _ => pd != 7
  | .ptest pd a => pd != 7 && a.wf
  | .pget _ _ _ => true
  | .fadd _ _ a b _ | .fsub _ _ a b _ | .fmul _ _ a b _ | .fmin _ _ a b _ | .fmax _ _ a b _
  | .fscale _ _ a b _ | .fcopysign _ _ a b _ | .fabsd _ _ a b _ => a.wf && b.wf
  | .fneg _ _ a | .fabs _ _ a | .frcp _ _ a | .frsq _ _ a | .fsqrt _ _ a | .fexp2 _ _ a | .flog2 _ _ a
  | .fsin _ _ a | .fcos _ _ a | .ftanh _ _ a | .fsigm _ _ a | .frndNe _ _ a | .frndZ _ _ a | .frndDn _ _ a
  | .frndUp _ _ a | .fclass _ _ a | .ffract _ _ a => a.wf
  | .fcvt _ _ a src dst _ pos => a.wf && fcvtWf src dst pos
  | .fpack _ _ a b dst high => a.wf && b.wf && dst.isNarrow && (!high || dst.positions == 4)
  | .funpk _ _ a src pos => a.wf && src.isNarrow && decide (pos.toNat < src.positions)
  | .dfma d _ a b c => d.isPair && a.isPair && b.isPair && c.isPair && decide (c.toNat ≤ 26)
  | .sbcast _ _ a b | .saff _ _ a b => a.wf && b.wf
  | .sgen _ _ a | .stag _ _ a | .mov _ _ a | .ballot _ _ a => a.wf
  | .xmrd _ _ => true
  | .xmwr a => a.wf
  | .xchGet _ _ a b | .xchFlip _ _ a b | .xchRot _ _ a b | .xchLag _ _ a b => a.wf && b.wf
  | .redAdd _ _ a | .redFadd _ _ a | .redMin _ _ a | .redMax _ _ a | .scanAdd _ _ a | .scanFadd _ _ a
  | .allnz _ _ a | .anynz _ _ a => a.wf
  | .br _ _ _ | .brAll _ _ _ => true
  | .brd _ _ _ aux => aux != 0
  | .call _ => true
  | .jr a => a.isPair
  | .jrd a b => a.isPair && b.isPair
  | .ret | .nop | .exit | .yield | .tfence | .brkpt | .eret | .join => true
  | .trap a | .nap a | .role a => a.wf
  | .sysc _ _ a b => a.wf && b.isPair
  | .rdsr _ _ _ => true
  | .wrsr a sr => a.wf && sr.writable
  | .ld r m wd _ | .st r m wd _ | .ldv r m wd _ => m.wf && wd.regWf r
  | .pf m _ _ => m.wf
  | .acq _ a _ => a.isPair
  | .rel a b _ => a.isPair && b.wf
  | .acqrel _ a b _ => a.isPair && b.wf
  | .fence _ => true
  | .aadd _ a b _ | .aand _ a b _ | .aor _ a b _ | .axor _ a b _ | .axchg _ a b _ | .amin _ a b _
  | .amax _ a b _ | .anmin _ a b _ | .anmax _ a b _ | .acas _ a b _ | .ainc _ a b _ | .abadd _ a b _
  | .afadd _ a b _ | .afmax _ a b _ | .afaddBf16x2 _ a b _ => a.isPair && b.wf
  | .aadd64 d a b _ | .axchg64 d a b _ | .acas64 d a b _ | .amin64 d a b _ | .amax64 d a b _ =>
    d.isPair && a.isPair && b.isPair
  | .caddF32 a b _ | .caddBf16 a b _ | .caddF16 a b _ | .caddI32 a b _ | .cmaxF32 a b _ => a.isPair && b.wf
  | .dprop _ a b _ => a.isPair && b.isPair
  | .dread _ a b _ | .dreset _ a b _ => a.isPair && b.wf
  | .dstat _ a _ => a.isPair
  | .wwait _ a b _ w64 _ =>
    a.isPair && (if w64 then (match b with | .reg r => r.isPair | _ => false) else b.wf)
  | .barPost _ _ a b | .barMeet _ _ a b => a.wf && b.wf
  | .barHold _ _ a => a.wf
  | .barQuad _ _ | .barDie _ _ | .barPkg _ _ | .barPod _ _ => true
  | .qput _ a | .qallow _ a => a.wf
  | .qtry _ _ _ | .qcount _ _ _ | .qunbind _ => true
  | .qbind _ a _ _ => a.wf
  | .tgive _ | .ttake _ | .towner _ _ _ => true
  | .mvtd _ a => a.isPair
  | .rdtd d _ _ => d.isPair
  | .mma m | .mmab m => m.wf
  | .mmat m _ _ _ => m.wf
  | .cdrain _ _ _ _ _ _ _ _ _ _ => true
  | .czero _ | .cload _ _ _ | .hclr _ | .cwait _ _ => true
  | .hrd _ _ a _ => a.wf
  | .hset a _ => a.wf
  -- steps of the engines and agents
  | .clauseIssue l | .bankDrowsy l _ | .arm l | .disarm l => l.wf
  | .clauseBegin => true
  | .strandReady st _ | .timeSliceExpiry st | .registerError st _ _ _ | .deviceLaunch st | .killAct st
  | .halt st | .debugResume st | .step st _ | .debugRead st | .debugWrite st _ => st.wf
  | .evictionComplete h _ | .launchComplete h | .signatureCompare h _ _ | .signatureTimeout h _ _ =>
    decide (h < 2 ^ 30)
  | .releasePerform _ | .tgiveFlip _ _ | .launchDoorbell _ _ | .qerrClear _ | .launchRecordAccept
  | .tornReread _ | .graphRegister | .graphUnregister | .graphReplay | .graphReplayStart
  | .graphNodeAccept _ _ => true
  | .rangeRequest d _ | .rangeSteal d _ | .blockPlace d | .copyCommandTake d | .nearCopyAgeOut d _
  | .overCurrentAlarm d | .dieFence d _ | .lineEviction d _ => decide (d < 16)
  | .matrixOpTake q => decide (q < 64)
  | .matrixOpComplete q e => decide (q < 64) && decide (e < 64)
  | .get _ _ | .put _ _ | .fill _ _ | .copyComplete _ | .promiseDecision _ | .copyFailed _ _
  | .scale _ _ | .axpy _ _ | .fade _ _ | .zero _ _ | .nearUnitApply _ _ | .nearCommandComplete _ => true
  | .homeAccess _ _ | .parityDeltaApply _ _ | .atomicAtPoint _ _ | .caddDeposit _ _ | .docCellRequest _ _
  | .watchArmRequest _ | .watchDeadline _ | .replyArrive _ _ | .predictorSwitchNear _ => true
  | .cxlMemRequest t r => decide (t.pkg < 512) && decide (r.addr < 2 ^ 43)
  | .stagedUnitFetched b u _ | .stagedUnitAgeOut b u | .stagedWritebackBegin b u | .stagedWritebackAck b u _
  | .backInvalidate b u => decide (b < 4096) && decide (u < 2 ^ 23)
  | .fenceCountMessage m => decide (m.src < 512) && decide (m.dest < 512)
  | .switchReleaseForward _ | .probeTimeout _ => true
  | .hubWatchArm d h _ | .hubReplyClear d h => decide (d < 16) && decide (h < 64)
  | .hubCoreAccess h r => decide (h.hart < 64) && decide (r.addr < 2 ^ 43)
  | .endpointDma p r => decide (14 ≤ p) && decide (p < 18) && decide (r.addr < 2 ^ 43)
  | .inval _ | .invalComplete _ | .bindload _ | .evict _ | .checkpoint _ | .checkpointComplete _ | .restore _
  | .kill _ | .faultQueueDrain | .dispResume | .dispReflect | .dispKill => true
  | .leaseOffer e x => decide (e < 2048) && decide (x < 1536)
  | .leaseWithdraw e | .leaseRecall e | .leaseExpiry e | .recallDeadline e | .extentScrubDone e =>
    decide (e < 2048)
  | .extentAdd e b d _ => decide (e < 2048) && decide (b < 512) && decide (100 ≤ d) && decide (d ≤ 60000)
  | .leaseRenewal b _ | .leaseRelease b _ => decide (b < 512)
  | .extentRequest e | .requestCancel e | .borrowRelease e | .borrowReactivate e | .borrowFree e
  | .renewalDue e | .renewalReply e _ _ | .renewalRetry e | .guardReached e | .releaseAck e =>
    decide (e < 4096)
  | .addEvent e t => decide (e < 4096) && decide (t.lender < 512) && decide (t.extent < 1536)
  | .recall l _ => decide (l < 512)
  | .cobblerOffer p e => decide (p < 512) && decide (e.entry < 2048)
  | .cobblerRequest p e => decide (p < 512) && decide (e.entry < 4096)
  | .heartbeatSend | .heartbeatTimeout | .errorLogFlush | .settlePoint => true
  | .heartbeat s _ _ => decide (s < 512)
  | .hbmPatrolRead _ _ | .unitRebuildComplete _ => true
  | .stackBaseDieSilent s => decide (s < 16)
  | .fencedNotice p | .noRouteTimeout p | .attestationReport p _ => decide (p < 512)
  | .requestRetry _ _ => true
  | .retrainComplete t =>
    decide (t.port < 18) && (t.asked == none || t.asked == some 128 || t.asked == some 64 || t.asked == some 32)
  | .linkReplay p _ | .routeRecompute p | .linkTraining p _ => decide (p < 18)
  | .reset c => decide (c.slot < 512) && decide (1 ≤ c.anchors.length) && decide (c.anchors.length ≤ 7)
  | .bootStage _ | .attestationRequest _ | .grantInterval _ | .coolantOutOfLimits _ _ | .coolantBudgetStep
  | .burstExhausted | .profile _ | .thermClear _ | .registerWrite _ _ _ | .hubFirmwareFailure
  | .coolantWithinLimits => true

end Sys2Proof
end

