-- ==== Sys2Proof/Decode.lean ====
section
/-! DEFINITION. From bytes to instructions and back (06 R142, R151-R161). `decode` is total: it answers the instruction
and the bytes after it, or a named reason to reject. The encoder after it is written from the same tables of the spec. -/

namespace Sys2Proof

/-- Why a word is no instruction (06 R157): the rule broken. -/
inductive Reject where
  /-- The second word or the literal would lie beyond the bytes given (06 R143). -/
  | truncated
  /-- A reserved major (06 R158). -/
  | reservedMajor
  /-- A reserved fn value (06 R158). -/
  | reservedFn
  /-- A field that the instruction does not use is not zero (06 R152). -/
  | unusedField
  /-- A reserved operand selector (06 R153). -/
  | reservedSelector
  /-- A pair or quad operand that names no pair or quad (06 R154). -/
  | badPair
  /-- A reserved or barred format code (05 R111, 06 R160, R161). -/
  | badFormat
  /-- A position beyond the word (06 R160). -/
  | badPosition
  /-- Scope 7 (01 R13). -/
  | badScope
  /-- Width 7 or space 5-7 (06 R151). -/
  | badSpace
  /-- A special register that does not exist, or is not written by `wrsr` (06 R163). -/
  | badSpecialRegister
  /-- A reserved value of another field (06 R158, R159, R161, 09 R260, R270). -/
  | reservedValue
  deriving DecidableEq, Repr

/-! ## Fields (06 R151) -/

def fMajor (w : Word) : BitVec 6 := w.extractLsb' 26 6
def fD (w : Word) : Reg := w.extractLsb' 20 6
def fNw (w : Word) : Bool := w.getLsbD 19
def fA (w : Word) : BitVec 7 := w.extractLsb' 12 7
def fB (w : Word) : BitVec 7 := w.extractLsb' 5 7
def fFn (w : Word) : BitVec 5 := w.extractLsb' 0 5
def fImm (w : Word) : BitVec 12 := w.extractLsb' 0 12
/-- The A format's address and operand selectors, scope and function. -/
def fAa (w : Word) : BitVec 7 := w.extractLsb' 13 7
def fAb (w : Word) : BitVec 7 := w.extractLsb' 6 7
def fScope (w : Word) : BitVec 3 := w.extractLsb' 3 3
def fFn3 (w : Word) : BitVec 3 := w.extractLsb' 0 3

/-- An instruction word is two words long when its major is `lit`, `mma` or `cdrain` (06 R151, R152, R161). -/
def isTwoWord (w : Word) : Bool := fMajor w == 0x0B || fMajor w == 0x37 || fMajor w == 0x38

/-- Refuse unless the condition holds. -/
def need (c : Bool) (r : Reject) : Except Reject Unit := if c then .ok () else .error r

/-- The instruction at a place of a list of functions, or a reserved fn (06 R158). -/
def pick {α : Type} (l : List α) (n : Nat) (r : Reject := .reservedFn) : Except Reject α :=
  match l[n]? with
  | some x => .ok x
  | none => .error r

/-! ## Operands -/

/-- A 7-bit selector (06 R153). -/
def decodeSel (x : BitVec 7) : Except Reject Sel :=
  if x.toNat < 0x40 then .ok (.reg (x.setWidth 6))
  else if x.toNat < 0x44 then .ok (.latch (x.setWidth 2))
  else if x.toNat < 0x50 then .ok (.queue (x.setWidth 4))
  else if x.toNat < 0x60 then
    pick [.tid, .sid, .blkX, .blkY, .blkZ, .lane, .core, .quad, .die, .pkg, .tick, .tickh, .xm] (x.toNat - 0x50)
      .reservedSelector
  else if x.toNat < 0x70 then .ok (.int (x.setWidth 4))
  else if x.toNat < 0x78 then .ok (.neg (x.setWidth 3))
  else .ok (.flt (x.setWidth 3))

/-- A selector field that names a pair (06 R154). -/
def decodePair (x : BitVec 7) : Except Reject Reg :=
  if x.toNat < 0x40 && Reg.isPair (x.setWidth 6) then .ok (x.setWidth 6) else .error .badPair

/-- A d, r or c field that names a pair (06 R154). -/
def decodeDPair (r : Reg) : Except Reject Reg := if r.isPair then .ok r else .error .badPair

/-- A V4 c field (06 R151). -/
def decodeThird (x : BitVec 5) : Sel :=
  if x.toNat ≤ 27 then .reg (x.setWidth 6) else .latch (x.setWidth 2)

def allScopes : List Scope := [.lane, .core, .quad, .die, .pkg, .pod, .sys]
def allFmts : List Fmt :=
  [.dm8, .dm6, .dm4, .e5m2, .e4m3, .e3m2, .e2m3, .e2m1, .f16, .bf16, .f32, .i8, .n8, .i4, .acc]
def allConds : List Cond := [.eq, .ne, .lt, .le, .gt, .ge]
def allFConds : List FCond := [.eq, .ne, .lt, .le, .gt, .ge, .ord, .uno]
def allCombines : List Combine := [.set, .and, .or]
def allFTypes : List FType := [.f32, .f16x2, .bf16x2]
def allRModes : List RMode := [.ne, .z, .dn, .up]
def allWidths : List Width := [.b, .bs, .h, .hs, .w, .d, .q]
def allWCmps : List WCmp := [.eq, .ne, .geu, .ltu]

def decodeScope (x : BitVec 3) : Except Reject Scope := pick allScopes x.toNat .badScope
def decodeFmt (x : BitVec 4) : Except Reject Fmt := pick allFmts x.toNat .badFormat
def decodeRMode (x : BitVec 2) : Except Reject RMode := pick allRModes x.toNat .reservedValue
/-- A predicate number in a 7-bit field (07 R182). -/
def decodePredField (x : BitVec 7) : Except Reject PredNo :=
  if x.toNat < 8 then .ok (x.setWidth 3) else .error .reservedValue
/-- The predicate a compare or predicate instruction writes; 7 is reserved (06 R159, 07 R182). -/
def decodePd (w : Word) : Except Reject PredNo :=
  if w.extractLsb' 23 3 = 7 then .error .reservedValue else .ok (w.extractLsb' 23 3)

/-- The memory operand of an M word (06 R151, R154). -/
def decodeMemAddr (w : Word) : Except Reject MemAddr :=
  match (w.extractLsb' 6 3).toNat with
  | 0 => MemAddr.glob <$> decodePair (fA w)
  | 1 => MemAddr.lane <$> decodeSel (fA w)
  | 2 => MemAddr.core <$> decodeSel (fA w)
  | 3 => MemAddr.quad <$> decodeSel (fA w)
  | 4 => MemAddr.die <$> decodePair (fA w)
  | _ => .error .badSpace

/-- Special registers by number, 06 R162 and 09 R292: runs of consecutive numbers. -/
def sregRuns : List (Nat × List SReg) :=
  [(0x000, [.fcr, .fflags, .ftrapen, .xm, .lr, .role, .prio, .allot, .qstatus, .wdl, .wdlh, .psf]),
   (0x010, [.tick, .tickh]),
   (0x020, [.tvec, .tvech, .tcause, .taddr, .taddrh, .tepc, .tepch]),
   (0x040, [.emword, .emop, .emfn, .emd, .ema, .emb, .emc, .emimm, .emclause]),
   (0x060, [.hoff 0, .hoff 1, .hoff 2, .hoff 3, .hoff 4, .hoff 5, .hoff 6, .hoff 7, .mcnan, .mcovf, .mcsat]),
   (0x080, [.pkgno, .dieno, .quadno, .coreno, .laneno, .strandno, .blkx, .blky, .blkz, .gridx, .gridy, .gridz,
            .nstrands, .blkidx, .lhandle]),
   (0x090, [.params, .paramsh]),
   (0x100, [.pksel, .rootl, .rooth, .asn, .aplace, .bindl, .bindh, .bindn,
            .winA 0, .winB 0, .winA 1, .winB 1, .winA 2, .winB 2, .winA 3, .winB 3,
            .winA 4, .winB 4, .winA 5, .winB 5, .winA 6, .winB 6, .winA 7, .winB 7, .kctx]),
   (0x120, [.crdl, .crdh]),
   (0x130, [.qctx 0, .qctx 1, .qctx 2, .qctx 3, .qctx 4, .qctx 5, .qctx 6, .qctx 7,
            .qctx 8, .qctx 9, .qctx 10, .qctx 11, .qctx 12, .qctx 13, .qctx 14, .qctx 15]),
   (0x140, [.fqbl, .fqbh, .fqsize, .fqprod, .fqcons])]

/-- The register of a number, in the runs from a given one on. -/
def sregIn : List (Nat × List SReg) → Nat → Option SReg
  | [], _ => none
  | (base, l) :: rest, n =>
    if base ≤ n then
      match l[n - base]? with
      | some r => some r
      | none => sregIn rest n
    else none

def decodeSReg (x : BitVec 12) : Except Reject SReg :=
  match sregIn sregRuns x.toNat with
  | some r => .ok r
  | none => .error .badSpecialRegister

/-! ## The majors (06 R158) -/

abbrev Mk3 := Reg → Bool → Sel → Sel → Instr
abbrev Mk2 := Reg → Bool → Sel → Instr
abbrev Mk4 := Reg → Bool → Sel → Sel → Sel → Instr
abbrev MkPair := Reg → Bool → Reg → Reg → Instr
abbrev MkFp := Reg → Bool → Sel → Sel → FType → Instr
abbrev MkAtom := Reg → Reg → Sel → Scope → Instr
abbrev MkAtom64 := Reg → Reg → Reg → Scope → Instr
abbrev MkCadd := Reg → Sel → Scope → Instr

def ops01 : List Mk3 :=
  [.iadd, .isub, .imul, .imulh, .nmulh, .iaddc, .isubb, .imin, .imax, .nmin, .nmax, .and, .or, .xor, .andn, .shl, .shr,
   .sar, .rotl, .bfx, .bfxs, .perm, .iabsd]
def ops02 : List Mk2 :=
  [.ineg, .iabs, .not, .popc, .clz, .ctz, .brev, .sext8, .sext16, .zext8, .zext16, .bswap]
def ops0E : List MkPair := [.iadd64, .isub64, .shl64, .shr64, .sar64, .imul64, .mulw, .nmulw]
def ops0F : List (PredNo → PredNo → PredNo → Instr) := [.pand, .por, .pxor, .pandn]
def ops10 : List MkFp := [.fadd, .fsub, .fmul, .fmin, .fmax, .fscale, .fcopysign, .fabsd]
def ops14 : List Mk2 :=
  [.fneg, .fabs, .frcp, .frsq, .fsqrt, .fexp2, .flog2, .fsin, .fcos, .ftanh, .fsigm, .frndNe, .frndZ, .frndDn, .frndUp,
   .fclass, .ffract]
def ops19 : List MkPair := [.dadd, .dsub, .dmul, .dmin, .dmax]
def ops1C2 : List Mk3 := [.xchGet, .xchFlip, .xchRot, .xchLag]
def ops1C1 : List Mk2 := [.redAdd, .redFadd, .redMin, .redMax, .scanAdd, .scanFadd, .allnz, .anynz]
def ops2E : List MkAtom := [.aadd, .aand, .aor, .axor, .axchg, .amin, .amax, .anmin]
def ops2F : List MkAtom := [.anmax, .acas, .ainc, .abadd, .afadd, .afmax, .afaddBf16x2]
def ops30 : List MkAtom64 := [.aadd64, .axchg64, .acas64, .amin64, .amax64]
def ops31 : List MkCadd := [.caddF32, .caddBf16, .caddF16, .caddI32, .cmaxF32]
def opsGang : List (Reg → Bool → Instr) := [.barQuad, .barDie, .barPkg, .barPod]

/-- The rule that d and NW are unused (06 R152). -/
def needNoD (w : Word) : Except Reject Unit := need (fD w == 0 && !fNw w) .unusedField

/-- An instruction of majors 0x23 and 0x24 with no operand. -/
def decodePlain (i : Instr) (w : Word) : Except Reject Instr := do
  needNoD w
  need (fA w == 0 && fB w == 0) .unusedField
  return i

/-- An instruction of major 0x24 with the one source a. -/
def decodeUnary (mk : Sel → Instr) (w : Word) : Except Reject Instr := do
  needNoD w
  need (fB w == 0) .unusedField
  return mk (← decodeSel (fA w))

/-- Major 0x23 (07 R171). -/
def decodeJump (w : Word) : Except Reject Instr :=
  match (fFn w).toNat with
  | 0 => do needNoD w; need (fB w == 0) .unusedField; return .jr (← decodePair (fA w))
  | 1 => do needNoD w; return .jrd (← decodePair (fA w)) (← decodePair (fB w))
  | 2 => decodePlain .ret w
  | _ => .error .reservedFn

/-- Major 0x24 (07 R171, 09 R284). -/
def decodeControl (w : Word) : Except Reject Instr :=
  match (fFn w).toNat with
  | 0 => decodePlain .nop w
  | 1 => decodePlain .exit w
  | 2 => decodePlain .yield w
  | 3 => decodePlain .tfence w
  | 4 => decodeUnary .trap w
  | 5 => decodePlain .brkpt w
  | 6 => decodePlain .eret w
  | 7 => decodeUnary .nap w
  | 8 => decodeUnary .role w
  | 9 => do return .sysc (fD w) (fNw w) (← decodeSel (fA w)) (← decodePair (fB w))
  | _ => .error .reservedFn

/-- Major 0x1B (07 R193-R195). -/
def decodeShape (w : Word) : Except Reject Instr :=
  match (fFn w).toNat with
  | 0 => do return .sbcast (fD w) (fNw w) (← decodeSel (fA w)) (← decodeSel (fB w))
  | 1 => do return .saff (fD w) (fNw w) (← decodeSel (fA w)) (← decodeSel (fB w))
  | 2 => do need (fB w == 0) .unusedField; return .sgen (fD w) (fNw w) (← decodeSel (fA w))
  | 3 => do need (fB w == 0) .unusedField; return .stag (fD w) (fNw w) (← decodeSel (fA w))
  | 4 => do need (fB w == 0) .unusedField; return .mov (fD w) (fNw w) (← decodeSel (fA w))
  | 5 => do need (fA w == 0 && fB w == 0) .unusedField; return .xmrd (fD w) (fNw w)
  | 6 => do needNoD w; need (fB w == 0) .unusedField; return .xmwr (← decodeSel (fA w))
  | 7 => do need (fB w == 0) .unusedField; return .ballot (fD w) (fNw w) (← decodeSel (fA w))
  | _ => .error .reservedFn

/-- Major 0x0F (07 R182). -/
def decodePredOp (w : Word) : Except Reject Instr :=
  if (fFn w).toNat < 4 then do
    let mk ← pick ops0F (fFn w).toNat
    need (w.extractLsb' 19 4 == 0) .unusedField
    return mk (← decodePd w) (← decodePredField (fA w)) (← decodePredField (fB w))
  else
    match (fFn w).toNat with
    | 4 => do
      need (w.extractLsb' 19 4 == 0 && fB w == 0) .unusedField
      return .pnot (← decodePd w) (← decodePredField (fA w))
    | 5 => do
      need (w.extractLsb' 19 4 == 0 && fB w == 0) .unusedField
      return .ptest (← decodePd w) (← decodeSel (fA w))
    | 6 => do need (fB w == 0) .unusedField; return .pget (fD w) (fNw w) (← decodePredField (fA w))
    | _ => .error .reservedFn

/-- Majors 0x0D and 0x15 (06 R159). -/
def decodeCompare (w : Word) : Except Reject Instr := do
  need (w.extractLsb' 19 2 == 0) .unusedField
  let pd ← decodePd w
  let cmb ← pick allCombines (w.extractLsb' 21 2).toNat .reservedValue
  if fMajor w = 0x0D then
    need (!w.getLsbD 3) .reservedFn
    let cond ← pick allConds (fFn3 w).toNat .reservedValue
    let mk : PredNo → Combine → Sel → Sel → Cond → Instr := if w.getLsbD 4 then .ncmp else .icmp
    return mk pd cmb (← decodeSel (fA w)) (← decodeSel (fB w)) cond
  else
    need (!w.getLsbD 4) .reservedFn
    let cond ← pick allFConds (fFn3 w).toNat .reservedValue
    if w.getLsbD 3 then return .fcmpF64 pd cmb (← decodePair (fA w)) (← decodePair (fB w)) cond
    else return .fcmp pd cmb (← decodeSel (fA w)) (← decodeSel (fB w)) cond

/-- Majors 0x16, 0x17 and 0x18 (06 R160, 07 R190). -/
def decodeConvert (w : Word) : Except Reject Instr :=
  match (fMajor w).toNat with
  | 0x16 => do
    let a ← decodeSel (fA w)
    let src ← decodeFmt (w.extractLsb' 8 4)
    let dst ← decodeFmt (w.extractLsb' 4 4)
    let rm ← decodeRMode (w.extractLsb' 2 2)
    need (src.isOperand && dst.isOperand) .badFormat
    need (fcvtWf src dst (w.extractLsb' 0 2)) .badPosition
    return .fcvt (fD w) (fNw w) a src dst rm (w.extractLsb' 0 2)
  | 0x17 => do
    let a ← decodeSel (fA w)
    let b ← decodeSel (fB w)
    let dst ← decodeFmt (w.extractLsb' 0 4)
    need dst.isNarrow .badFormat
    need (!w.getLsbD 4 || dst.positions == 4) .badPosition
    return .fpack (fD w) (fNw w) a b dst (w.getLsbD 4)
  | _ => do
    let a ← decodeSel (fA w)
    let src ← decodeFmt (w.extractLsb' 8 4)
    need src.isNarrow .badFormat
    need (w.extractLsb' 2 6 == 0) .unusedField
    need (decide ((w.extractLsb' 0 2).toNat < src.positions)) .badPosition
    return .funpk (fD w) (fNw w) a src (w.extractLsb' 0 2)

/-- Majors 0x20-0x22 (06 R151). -/
def decodeBranch (w : Word) : Except Reject Instr :=
  let p : PredNo := w.extractLsb' 23 3
  let ng := w.getLsbD 22
  let tgt : BitVec 14 := w.extractLsb' 8 14
  let aux : BitVec 8 := w.extractLsb' 0 8
  match (fMajor w).toNat with
  | 0x20 => do
    need (aux.extractLsb' 0 7 == 0) .unusedField
    if aux.getLsbD 7 then return .brAll p ng tgt else return .br p ng tgt
  | 0x21 => do need (aux != 0) .reservedValue; return .brd p ng tgt aux
  | _ => do need (p == 7 && !ng && aux == 0) .unusedField; return .call tgt

/-- Majors 0x28-0x2B (08 R210). -/
def decodeMem (w : Word) : Except Reject Instr := do
  need (!fNw w) .unusedField
  let m ← decodeMemAddr w
  let wd ← pick allWidths (w.extractLsb' 9 3).toNat .badSpace
  let off : BitVec 6 := w.extractLsb' 0 6
  if fMajor w = 0x2B then
    need (fD w == 0) .unusedField
    return .pf m wd off
  else
    need (wd.regWf (fD w)) .badPair
    match (fMajor w).toNat with
    | 0x28 => return .ld (fD w) m wd off
    | 0x29 => return .st (fD w) m wd off
    | _ => return .ldv (fD w) m wd off

/-- Major 0x2D (08 R218). -/
def decodeOrder (w : Word) : Except Reject Instr := do
  need (!fNw w) .unusedField
  let sc ← decodeScope (fFn3 w)
  match (w.extractLsb' 3 2).toNat with
  | 0 => need (fB w == 0) .unusedField; return .acq (fD w) (← decodePair (fA w)) sc
  | 1 => need (fD w == 0) .unusedField; return .rel (← decodePair (fA w)) (← decodeSel (fB w)) sc
  | 2 => return .acqrel (fD w) (← decodePair (fA w)) (← decodeSel (fB w)) sc
  | _ => need (fD w == 0 && fA w == 0 && fB w == 0) .unusedField; return .fence sc

/-- Majors 0x2E-0x32 (08 R223, R229, R233). -/
def decodeAtomic (w : Word) : Except Reject Instr := do
  let sc ← decodeScope (fScope w)
  let n := (fFn3 w).toNat
  match (fMajor w).toNat with
  | 0x2E => let mk ← pick ops2E n; return mk (fD w) (← decodePair (fAa w)) (← decodeSel (fAb w)) sc
  | 0x2F => let mk ← pick ops2F n; return mk (fD w) (← decodePair (fAa w)) (← decodeSel (fAb w)) sc
  | 0x30 =>
    let mk ← pick ops30 n
    return mk (← decodeDPair (fD w)) (← decodePair (fAa w)) (← decodePair (fAb w)) sc
  | 0x31 =>
    let mk ← pick ops31 n
    need (fD w == 0) .unusedField
    return mk (← decodePair (fAa w)) (← decodeSel (fAb w)) sc
  | _ =>
    match n with
    | 0 => return .dprop (fD w) (← decodePair (fAa w)) (← decodePair (fAb w)) sc
    | 1 => return .dread (fD w) (← decodePair (fAa w)) (← decodeSel (fAb w)) sc
    | 2 => return .dreset (fD w) (← decodePair (fAa w)) (← decodeSel (fAb w)) sc
    | 3 => need (fAb w == 0) .unusedField; return .dstat (fD w) (← decodePair (fAa w)) sc
    | _ => .error .reservedFn

/-- Major 0x33 (08 R237). -/
def decodeWwait (w : Word) : Except Reject Instr := do
  need (!fNw w) .unusedField
  need (!w.getLsbD 4) .reservedFn
  let cmp ← pick allWCmps (w.extractLsb' 0 2).toNat .reservedValue
  let a ← decodePair (fA w)
  if w.getLsbD 2 then return .wwait (fD w) a (.reg (← decodePair (fB w))) cmp true (w.getLsbD 3)
  else return .wwait (fD w) a (← decodeSel (fB w)) cmp false (w.getLsbD 3)

/-- Major 0x34 (08 R242). -/
def decodeBarrier (w : Word) : Except Reject Instr :=
  match (fFn w).toNat with
  | 0 => do return .barPost (fD w) (fNw w) (← decodeSel (fA w)) (← decodeSel (fB w))
  | 1 => do return .barMeet (fD w) (fNw w) (← decodeSel (fA w)) (← decodeSel (fB w))
  | 2 => do need (fB w == 0) .unusedField; return .barHold (fD w) (fNw w) (← decodeSel (fA w))
  | 7 => do needNoD w; need (fA w == 0 && fB w == 0) .unusedField; return .join
  | n => do
    let mk ← pick opsGang (n - 3)
    need (fA w == 0 && fB w == 0) .unusedField
    return mk (fD w) (fNw w)

/-- Major 0x35 (08 R248). -/
def decodeQueue (w : Word) : Except Reject Instr :=
  let q : QNo := w.extractLsb' 5 4
  let hi : BitVec 3 := w.extractLsb' 9 3
  match (fFn w).toNat with
  | 0 => do needNoD w; need (hi == 0) .unusedField; return .qput q (← decodeSel (fA w))
  | 1 => do need (fA w == 0 && hi == 0) .unusedField; return .qtry (fD w) (fNw w) q
  | 2 => do
    needNoD w
    need (!hi.getLsbD 2) .unusedField
    return .qbind q (← decodeSel (fA w)) (hi.getLsbD 0) (hi.getLsbD 1)
  | 3 => do needNoD w; need (hi == 0) .unusedField; return .qallow q (← decodeSel (fA w))
  | 4 => do need (fA w == 0 && hi == 0) .unusedField; return .qcount (fD w) (fNw w) q
  | 5 => do needNoD w; need (fA w == 0 && hi == 0) .unusedField; return .qunbind q
  | _ => .error .reservedFn

/-- Major 0x36 (09 R260). -/
def decodeTile (w : Word) : Except Reject Instr := do
  let t : TileNo := w.extractLsb' 5 5
  let mk : Except Reject Instr :=
    match (fFn w).toNat with
    | 0 => do needNoD w; need (fA w == 0) .unusedField; return .tgive t
    | 1 => do needNoD w; need (fA w == 0) .unusedField; return .ttake t
    | 2 => do need (fA w == 0) .unusedField; return .towner (fD w) (fNw w) t
    | 3 => do needNoD w; return .mvtd t (← decodePair (fA w))
    | 4 => do need (fA w == 0) .unusedField; return .rdtd (← decodeDPair (fD w)) (fNw w) t
    | _ => .error .reservedFn
  need (w.extractLsb' 10 2 == 0) .reservedValue
  mk

/-- Major 0x39 (09 R270). -/
def decodeAccum (w : Word) : Except Reject Instr :=
  let c : CTileNo := w.extractLsb' 20 4
  let t : TileNo := w.extractLsb' 12 5
  let k : HistNo := w.extractLsb' 5 3
  match (fFn w).toNat with
  | 0 => do
    need (w.extractLsb' 24 2 == 0) .reservedValue
    need (!fNw w && fA w == 0 && fB w == 0) .unusedField
    return .czero c
  | 1 => do
    need (w.extractLsb' 24 2 == 0 && w.extractLsb' 17 2 == 0) .reservedValue
    need (!fNw w && w.extractLsb' 9 3 == 0) .unusedField
    return .cload c t (← decodeFmt (w.extractLsb' 5 4))
  | 2 => do
    needNoD w
    need (fA w == 0) .unusedField
    need (w.extractLsb' 8 4 == 0) .reservedValue
    return .hclr k
  | 3 => do need (w.extractLsb' 8 4 == 0) .reservedValue; return .hrd (fD w) (fNw w) (← decodeSel (fA w)) k
  | 4 => do
    needNoD w
    need (w.extractLsb' 8 4 == 0) .reservedValue
    return .hset (← decodeSel (fA w)) k
  | 5 => do
    needNoD w
    need (w.extractLsb' 17 2 == 0 && w.extractLsb' 6 6 == 0) .reservedValue
    return .cwait t (w.getLsbD 5)
  | _ => .error .reservedFn

/-- The V4 majors 0x03, 0x04 and 0x11-0x13. -/
def decodeV4 (mk : Mk4) (w : Word) : Except Reject Instr := do
  return mk (fD w) (fNw w) (← decodeSel (fA w)) (← decodeSel (fB w)) (decodeThird (fFn w))

/-- The VI majors 0x06-0x09. -/
def decodeVI (mk : Reg → Bool → Sel → BitVec 12 → Instr) (w : Word) : Except Reject Instr := do
  return mk (fD w) (fNw w) (← decodeSel (fA w)) (fImm w)

/-- Major 0x0C (07 R178). -/
def decodeLea (w : Word) : Except Reject Instr := do
  need (!w.getLsbD 4) .reservedFn
  need (decide ((fFn3 w).toNat ≤ 4)) .reservedValue
  if w.getLsbD 3 then
    return .lea64 (← decodeDPair (fD w)) (fNw w) (← decodePair (fA w)) (← decodeSel (fB w)) (fFn3 w)
  else return .lea (fD w) (fNw w) (← decodeSel (fA w)) (← decodeSel (fB w)) (fFn3 w)

/-- Majors 0x0E and 0x19: three pairs. -/
def decodePairs (l : List MkPair) (w : Word) : Except Reject Instr := do
  let mk ← pick l (fFn w).toNat
  return mk (← decodeDPair (fD w)) (fNw w) (← decodePair (fA w)) (← decodePair (fB w))

/-- A one-word instruction (06 R158). -/
def decodeOne (w : Word) : Except Reject Instr :=
  match (fMajor w).toNat with
  | 0x01 => do
    let mk ← pick ops01 (fFn w).toNat
    return mk (fD w) (fNw w) (← decodeSel (fA w)) (← decodeSel (fB w))
  | 0x02 => do
    let mk ← pick ops02 (fFn w).toNat
    need (fB w == 0) .unusedField
    return mk (fD w) (fNw w) (← decodeSel (fA w))
  | 0x03 => decodeV4 .imad w
  | 0x04 => decodeV4 .bfi w
  | 0x05 => do
    need (w.extractLsb' 3 2 == 0) .reservedValue
    return .sel (fD w) (fNw w) (← decodeSel (fA w)) (← decodeSel (fB w)) (fFn3 w)
  | 0x06 => decodeVI .iaddi w
  | 0x07 => decodeVI .andi w
  | 0x08 => decodeVI .ori w
  | 0x09 => decodeVI .xori w
  | 0x0A => do need (fA w == 0) .unusedField; return .movi (fD w) (fNw w) (fImm w)
  | 0x0C => decodeLea w
  | 0x0D => decodeCompare w
  | 0x0E => decodePairs ops0E w
  | 0x0F => decodePredOp w
  | 0x10 => do
    let mk ← pick ops10 (fFn3 w).toNat
    let ty ← pick allFTypes (w.extractLsb' 3 2).toNat .reservedValue
    return mk (fD w) (fNw w) (← decodeSel (fA w)) (← decodeSel (fB w)) ty
  | 0x11 => decodeV4 .ffma w
  | 0x12 => decodeV4 .hfma w
  | 0x13 => decodeV4 .bfma w
  | 0x14 => do
    let mk ← pick ops14 (fFn w).toNat
    need (fB w == 0) .unusedField
    return mk (fD w) (fNw w) (← decodeSel (fA w))
  | 0x15 => decodeCompare w
  | 0x16 => decodeConvert w
  | 0x17 => decodeConvert w
  | 0x18 => decodeConvert w
  | 0x19 => decodePairs ops19 w
  | 0x1A => do
    need (decide ((fFn w).toNat ≤ 26)) .badPair
    return .dfma (← decodeDPair (fD w)) (fNw w) (← decodePair (fA w)) (← decodePair (fB w))
      (← decodeDPair ((fFn w).setWidth 6))
  | 0x1B => decodeShape w
  | 0x1C =>
    if (fFn w).toNat < 4 then do
      let mk ← pick ops1C2 (fFn w).toNat
      return mk (fD w) (fNw w) (← decodeSel (fA w)) (← decodeSel (fB w))
    else do
      let mk ← pick ops1C1 ((fFn w).toNat - 4)
      need (fB w == 0) .unusedField
      return mk (fD w) (fNw w) (← decodeSel (fA w))
  | 0x20 => decodeBranch w
  | 0x21 => decodeBranch w
  | 0x22 => decodeBranch w
  | 0x23 => decodeJump w
  | 0x24 => decodeControl w
  | 0x25 => do need (fA w == 0) .unusedField; return .rdsr (fD w) (fNw w) (← decodeSReg (fImm w))
  | 0x26 => do
    needNoD w
    let sr ← decodeSReg (fImm w)
    need sr.writable .badSpecialRegister
    return .wrsr (← decodeSel (fA w)) sr
  | 0x28 => decodeMem w
  | 0x29 => decodeMem w
  | 0x2A => decodeMem w
  | 0x2B => decodeMem w
  | 0x2D => decodeOrder w
  | 0x2E => decodeAtomic w
  | 0x2F => decodeAtomic w
  | 0x30 => decodeAtomic w
  | 0x31 => decodeAtomic w
  | 0x32 => decodeAtomic w
  | 0x33 => decodeWwait w
  | 0x34 => decodeBarrier w
  | 0x35 => decodeQueue w
  | 0x36 => decodeTile w
  | 0x39 => decodeAccum w
  | _ => .error .reservedMajor

/-- The fields that the matrix words share (06 R161). -/
def decodeMma (w l : Word) : Except Reject Instr := do
  need (!w.getLsbD 0 && l.extractLsb' 0 2 == 0) .unusedField
  let fa ← decodeFmt (w.extractLsb' 8 4)
  let fb ← decodeFmt (w.extractLsb' 4 4)
  let m : MmaArgs :=
    { ct := w.extractLsb' 22 4, ta := w.extractLsb' 17 5, tb := w.extractLsb' 12 5, fa := fa, fb := fb,
      acc := w.getLsbD 1, areg := l.extractLsb' 26 6, asel := l.extractLsb' 24 2, breg := l.extractLsb' 18 6,
      bsel := l.extractLsb' 16 2, noscale := l.getLsbD 15 }
  need m.wf .badFormat
  match (w.extractLsb' 2 2).toNat with
  | 0 => need (l.extractLsb' 2 13 == 0) .unusedField; return .mma m
  | 1 => need (l.extractLsb' 2 13 == 0) .unusedField; return .mmab m
  | 2 =>
    need (!l.getLsbD 7 && l.extractLsb' 4 2 == 0) .reservedValue
    return .mmat m (l.extractLsb' 8 7) (l.getLsbD 6) (l.extractLsb' 2 2)
  | _ => .error .reservedValue

/-- `cdrain` (06 R161). -/
def decodeCdrain (w l : Word) : Except Reject Instr := do
  need (w.extractLsb' 0 5 == 0 && l.extractLsb' 0 23 == 0) .unusedField
  need (w.getLsbD 9 || w.extractLsb' 10 3 == 0) .unusedField
  let fmt ← decodeFmt (w.extractLsb' 13 4)
  let rm ← decodeRMode (w.extractLsb' 6 2)
  return .cdrain (w.extractLsb' 22 4) (w.extractLsb' 17 5) fmt
    (if w.getLsbD 9 then some (w.extractLsb' 10 3) else none) (w.getLsbD 8) (w.getLsbD 5) rm
    (l.extractLsb' 26 6) (l.extractLsb' 24 2) (l.getLsbD 23)

/-- A two-word instruction (06 R151). -/
def decodeTwo (w l : Word) : Except Reject Instr :=
  match (fMajor w).toNat with
  | 0x0B => do need (w.extractLsb' 0 19 == 0) .unusedField; return .lit (fD w) (fNw w) l
  | 0x37 => decodeMma w l
  | _ => decodeCdrain w l

/-- The words of an instruction; the second is `none` where the clause or the bytes end (06 R143). -/
def decodeWords (w : Word) (l : Option Word) : Except Reject Instr :=
  if isTwoWord w then
    match l with
    | some l => decodeTwo w l
    | none => .error .truncated
  else decodeOne w

/-- A little-endian word at the front of a byte list (00 R3). -/
def takeWord : List Byte → Option (Word × List Byte)
  | b0 :: b1 :: b2 :: b3 :: rest => some (b3 ++ b2 ++ b1 ++ b0, rest)
  | _ => none

/-- The bytes of a word, lowest address first (00 R3). -/
def wordBytes (w : Word) : List Byte :=
  [w.extractLsb' 0 8, w.extractLsb' 8 8, w.extractLsb' 16 8, w.extractLsb' 24 8]

/-- The instruction at the front of a byte list, and the bytes after it. -/
def decode (bs : List Byte) : Except Reject (Instr × List Byte) :=
  match takeWord bs with
  | none => .error .truncated
  | some (w, rest) =>
    if isTwoWord w then
      match takeWord rest with
      | none => .error .truncated
      | some (l, rest2) => (decodeTwo w l).map (·, rest2)
    else (decodeOne w).map (·, rest)

/-- The bytes of the low `n` words of a number, word 0 first: bit 0 of the number is bit 0 of the first word. -/
def numberBytes : Nat → Nat → List Byte
  | 0, _ => []
  | n + 1, x => wordBytes (BitVec.ofNat 32 x) ++ numberBytes n (x / 2 ^ 32)

/-- The instruction that the decoder reads from bits numbered as the opcode table numbers them: two words are laid out,
the bits above `nbits` zero. -/
def decodeTableWord (nbits w : Nat) : Option Instr :=
  if nbits = 0 then none
  else
    match decode (numberBytes 2 (w % 2 ^ nbits)) with
    | .ok (i, _) => some i
    | .error _ => none

/-! ## The encoder -/

def encodeSel : Sel → BitVec 7
  | .reg r => (0 : BitVec 1) ++ r
  | .latch n => (0b10000 : BitVec 5) ++ n
  | .queue q => (0b100 : BitVec 3) ++ q
  | .tid => 0x50
  | .sid => 0x51
  | .blkX => 0x52
  | .blkY => 0x53
  | .blkZ => 0x54
  | .lane => 0x55
  | .core => 0x56
  | .quad => 0x57
  | .die => 0x58
  | .pkg => 0x59
  | .tick => 0x5A
  | .tickh => 0x5B
  | .xm => 0x5C
  | .int n => (0b110 : BitVec 3) ++ n
  | .neg n => (0b1110 : BitVec 4) ++ n
  | .flt n => (0b1111 : BitVec 4) ++ n

def encodeReg7 (r : Reg) : BitVec 7 := (0 : BitVec 1) ++ r
def encodePred7 (p : PredNo) : BitVec 7 := (0 : BitVec 4) ++ p
def encodeBool (b : Bool) : BitVec 1 := if b then 1 else 0

/-- A V4 c field (06 R151). -/
def encodeThird : Sel → BitVec 5
  | .reg r => r.setWidth 5
  | .latch n => (0b111 : BitVec 3) ++ n
  | _ => 0

def encodeScope : Scope → BitVec 3
  | .lane => 0 | .core => 1 | .quad => 2 | .die => 3 | .pkg => 4 | .pod => 5 | .sys => 6
def encodeFmt : Fmt → BitVec 4
  | .dm8 => 0 | .dm6 => 1 | .dm4 => 2 | .e5m2 => 3 | .e4m3 => 4 | .e3m2 => 5 | .e2m3 => 6 | .e2m1 => 7
  | .f16 => 8 | .bf16 => 9 | .f32 => 10 | .i8 => 11 | .n8 => 12 | .i4 => 13 | .acc => 14
def encodeCond : Cond → BitVec 3
  | .eq => 0 | .ne => 1 | .lt => 2 | .le => 3 | .gt => 4 | .ge => 5
def encodeFCond : FCond → BitVec 3
  | .eq => 0 | .ne => 1 | .lt => 2 | .le => 3 | .gt => 4 | .ge => 5 | .ord => 6 | .uno => 7
def encodeCombine : Combine → BitVec 2
  | .set => 0 | .and => 1 | .or => 2
def encodeFType : FType → BitVec 2
  | .f32 => 0 | .f16x2 => 1 | .bf16x2 => 2
def encodeRMode : RMode → BitVec 2
  | .ne => 0 | .z => 1 | .dn => 2 | .up => 3
def encodeWidth : Width → BitVec 3
  | .b => 0 | .bs => 1 | .h => 2 | .hs => 3 | .w => 4 | .d => 5 | .q => 6
def encodeWCmp : WCmp → BitVec 2
  | .eq => 0 | .ne => 1 | .geu => 2 | .ltu => 3

/-- The number of a special register (06 R162, 09 R292). -/
def encodeSReg : SReg → BitVec 12
  | .fcr => 0x000 | .fflags => 0x001 | .ftrapen => 0x002 | .xm => 0x003 | .lr => 0x004 | .role => 0x005
  | .prio => 0x006 | .allot => 0x007 | .qstatus => 0x008 | .wdl => 0x009 | .wdlh => 0x00A | .psf => 0x00B
  | .tick => 0x010 | .tickh => 0x011 | .tvec => 0x020 | .tvech => 0x021 | .tcause => 0x022 | .taddr => 0x023
  | .taddrh => 0x024 | .tepc => 0x025 | .tepch => 0x026 | .emword => 0x040 | .emop => 0x041 | .emfn => 0x042
  | .emd => 0x043 | .ema => 0x044 | .emb => 0x045 | .emc => 0x046 | .emimm => 0x047 | .emclause => 0x048
  | .hoff n => (0x00C : BitVec 9) ++ n | .mcnan => 0x068 | .mcovf => 0x069 | .mcsat => 0x06A
  | .pkgno => 0x080 | .dieno => 0x081 | .quadno => 0x082 | .coreno => 0x083 | .laneno => 0x084 | .strandno => 0x085
  | .blkx => 0x086 | .blky => 0x087 | .blkz => 0x088 | .gridx => 0x089 | .gridy => 0x08A | .gridz => 0x08B
  | .nstrands => 0x08C | .blkidx => 0x08D | .lhandle => 0x08E | .params => 0x090 | .paramsh => 0x091
  | .pksel => 0x100 | .rootl => 0x101 | .rooth => 0x102 | .asn => 0x103 | .aplace => 0x104 | .bindl => 0x105
  | .bindh => 0x106 | .bindn => 0x107
  | .winA n => 0x108 + ((0 : BitVec 8) ++ n ++ (0 : BitVec 1))
  | .winB n => 0x109 + ((0 : BitVec 8) ++ n ++ (0 : BitVec 1))
  | .kctx => 0x118 | .crdl => 0x120 | .crdh => 0x121 | .qctx q => (0x13 : BitVec 8) ++ q
  | .fqbl => 0x140 | .fqbh => 0x141 | .fqsize => 0x142 | .fqprod => 0x143 | .fqcons => 0x144

/-- V3: major, d, NW, a, b, fn. -/
def wordV3 (maj : BitVec 6) (d : Reg) (nw : Bool) (a b : BitVec 7) (fn : BitVec 5) : Word :=
  maj ++ d ++ encodeBool nw ++ a ++ b ++ fn

/-- VI: major, d, NW, a, imm12. -/
def wordVI (maj : BitVec 6) (d : Reg) (nw : Bool) (a : BitVec 7) (imm : BitVec 12) : Word :=
  maj ++ d ++ encodeBool nw ++ a ++ imm

/-- A: major, d, a, b, scope, fn. -/
def wordA (maj : BitVec 6) (d : Reg) (a b : BitVec 7) (sc : Scope) (fn : BitVec 3) : Word :=
  maj ++ d ++ a ++ b ++ encodeScope sc ++ fn

/-- B: major, p, NG, tgt, aux. -/
def wordB (maj : BitVec 6) (p : PredNo) (ng : Bool) (tgt : BitVec 14) (aux : BitVec 8) : Word :=
  maj ++ p ++ encodeBool ng ++ tgt ++ aux

/-- Compares: major, PD, CMB, zero, a, b, fn (06 R159). -/
def wordCmp (maj : BitVec 6) (pd : PredNo) (cmb : Combine) (a b : BitVec 7) (fn : BitVec 5) : Word :=
  maj ++ pd ++ encodeCombine cmb ++ (0 : BitVec 2) ++ a ++ b ++ fn

/-- Predicate writes: major, PD, zero, a, b, fn (07 R182). -/
def wordPred (pd : PredNo) (a b : BitVec 7) (fn : BitVec 5) : Word :=
  (0x0F : BitVec 6) ++ pd ++ (0 : BitVec 4) ++ a ++ b ++ fn

/-- The space code and address field of an M word. -/
def encodeMemAddr : MemAddr → BitVec 3 × BitVec 7
  | .glob a => (0, encodeReg7 a)
  | .lane a => (1, encodeSel a)
  | .core a => (2, encodeSel a)
  | .quad a => (3, encodeSel a)
  | .die a => (4, encodeReg7 a)

/-- M: major, r, NW zero, a, width, space, off6. -/
def wordM (maj : BitVec 6) (r : Reg) (m : MemAddr) (wd : Width) (off : BitVec 6) : Word :=
  maj ++ r ++ (0 : BitVec 1) ++ (encodeMemAddr m).2 ++ encodeWidth wd ++ (encodeMemAddr m).1 ++ off

/-- The first word of a matrix instruction (06 R161). -/
def wordMma (m : MmaArgs) (mode : BitVec 2) : Word :=
  (0x37 : BitVec 6) ++ m.ct ++ m.ta ++ m.tb ++ encodeFmt m.fa ++ encodeFmt m.fb ++ mode ++ encodeBool m.acc ++
    (0 : BitVec 1)

/-- The second word of a matrix instruction (06 R161). -/
def wordMma2 (m : MmaArgs) (diag : BitVec 7) (side : BitVec 2) (mconst : BitVec 4) : Word :=
  m.areg ++ m.asel ++ m.breg ++ m.bsel ++ encodeBool m.noscale ++ diag ++ side ++ mconst ++ (0 : BitVec 2)

/-- The queue field of major 0x35: zero, space, consumer, queue (08 R248). -/
def encodeQ (q : QNo) (consumer quadSpace : Bool) : BitVec 7 :=
  (0 : BitVec 1) ++ encodeBool quadSpace ++ encodeBool consumer ++ q

/-- The tile field of major 0x36 (09 R260). -/
def encodeT (t : TileNo) : BitVec 7 := (0 : BitVec 2) ++ t

/-- The words of an instruction; a step has none. -/
def encodeWords : Instr → List Word
  | .iadd d nw a b => [wordV3 0x01 d nw (encodeSel a) (encodeSel b) 0]
  | .isub d nw a b => [wordV3 0x01 d nw (encodeSel a) (encodeSel b) 1]
  | .imul d nw a b => [wordV3 0x01 d nw (encodeSel a) (encodeSel b) 2]
  | .imulh d nw a b => [wordV3 0x01 d nw (encodeSel a) (encodeSel b) 3]
  | .nmulh d nw a b => [wordV3 0x01 d nw (encodeSel a) (encodeSel b) 4]
  | .iaddc d nw a b => [wordV3 0x01 d nw (encodeSel a) (encodeSel b) 5]
  | .isubb d nw a b => [wordV3 0x01 d nw (encodeSel a) (encodeSel b) 6]
  | .imin d nw a b => [wordV3 0x01 d nw (encodeSel a) (encodeSel b) 7]
  | .imax d nw a b => [wordV3 0x01 d nw (encodeSel a) (encodeSel b) 8]
  | .nmin d nw a b => [wordV3 0x01 d nw (encodeSel a) (encodeSel b) 9]
  | .nmax d nw a b => [wordV3 0x01 d nw (encodeSel a) (encodeSel b) 10]
  | .and d nw a b => [wordV3 0x01 d nw (encodeSel a) (encodeSel b) 11]
  | .or d nw a b => [wordV3 0x01 d nw (encodeSel a) (encodeSel b) 12]
  | .xor d nw a b => [wordV3 0x01 d nw (encodeSel a) (encodeSel b) 13]
  | .andn d nw a b => [wordV3 0x01 d nw (encodeSel a) (encodeSel b) 14]
  | .shl d nw a b => [wordV3 0x01 d nw (encodeSel a) (encodeSel b) 15]
  | .shr d nw a b => [wordV3 0x01 d nw (encodeSel a) (encodeSel b) 16]
  | .sar d nw a b => [wordV3 0x01 d nw (encodeSel a) (encodeSel b) 17]
  | .rotl d nw a b => [wordV3 0x01 d nw (encodeSel a) (encodeSel b) 18]
  | .bfx d nw a b => [wordV3 0x01 d nw (encodeSel a) (encodeSel b) 19]
  | .bfxs d nw a b => [wordV3 0x01 d nw (encodeSel a) (encodeSel b) 20]
  | .perm d nw a b => [wordV3 0x01 d nw (encodeSel a) (encodeSel b) 21]
  | .iabsd d nw a b => [wordV3 0x01 d nw (encodeSel a) (encodeSel b) 22]
  | .ineg d nw a => [wordV3 0x02 d nw (encodeSel a) 0 0]
  | .iabs d nw a => [wordV3 0x02 d nw (encodeSel a) 0 1]
  | .not d nw a => [wordV3 0x02 d nw (encodeSel a) 0 2]
  | .popc d nw a => [wordV3 0x02 d nw (encodeSel a) 0 3]
  | .clz d nw a => [wordV3 0x02 d nw (encodeSel a) 0 4]
  | .ctz d nw a => [wordV3 0x02 d nw (encodeSel a) 0 5]
  | .brev d nw a => [wordV3 0x02 d nw (encodeSel a) 0 6]
  | .sext8 d nw a => [wordV3 0x02 d nw (encodeSel a) 0 7]
  | .sext16 d nw a => [wordV3 0x02 d nw (encodeSel a) 0 8]
  | .zext8 d nw a => [wordV3 0x02 d nw (encodeSel a) 0 9]
  | .zext16 d nw a => [wordV3 0x02 d nw (encodeSel a) 0 10]
  | .bswap d nw a => [wordV3 0x02 d nw (encodeSel a) 0 11]
  | .imad d nw a b c => [wordV3 0x03 d nw (encodeSel a) (encodeSel b) (encodeThird c)]
  | .bfi d nw a b c => [wordV3 0x04 d nw (encodeSel a) (encodeSel b) (encodeThird c)]
  | .sel d nw a b p => [wordV3 0x05 d nw (encodeSel a) (encodeSel b) ((0 : BitVec 2) ++ p)]
  | .iaddi d nw a imm => [wordVI 0x06 d nw (encodeSel a) imm]
  | .andi d nw a imm => [wordVI 0x07 d nw (encodeSel a) imm]
  | .ori d nw a imm => [wordVI 0x08 d nw (encodeSel a) imm]
  | .xori d nw a imm => [wordVI 0x09 d nw (encodeSel a) imm]
  | .movi d nw imm => [wordVI 0x0A d nw 0 imm]
  | .lit d nw value => [wordVI 0x0B d nw 0 0, value]
  | .lea d nw a b sh => [wordV3 0x0C d nw (encodeSel a) (encodeSel b) ((0 : BitVec 2) ++ sh)]
  | .lea64 d nw a b sh => [wordV3 0x0C d nw (encodeReg7 a) (encodeSel b) ((1 : BitVec 2) ++ sh)]
  | .icmp pd m a b c => [wordCmp 0x0D pd m (encodeSel a) (encodeSel b) ((0 : BitVec 2) ++ encodeCond c)]
  | .ncmp pd m a b c => [wordCmp 0x0D pd m (encodeSel a) (encodeSel b) ((2 : BitVec 2) ++ encodeCond c)]
  | .iadd64 d nw a b => [wordV3 0x0E d nw (encodeReg7 a) (encodeReg7 b) 0]
  | .isub64 d nw a b => [wordV3 0x0E d nw (encodeReg7 a) (encodeReg7 b) 1]
  | .shl64 d nw a b => [wordV3 0x0E d nw (encodeReg7 a) (encodeReg7 b) 2]
  | .shr64 d nw a b => [wordV3 0x0E d nw (encodeReg7 a) (encodeReg7 b) 3]
  | .sar64 d nw a b => [wordV3 0x0E d nw (encodeReg7 a) (encodeReg7 b) 4]
  | .imul64 d nw a b => [wordV3 0x0E d nw (encodeReg7 a) (encodeReg7 b) 5]
  | .mulw d nw a b => [wordV3 0x0E d nw (encodeReg7 a) (encodeReg7 b) 6]
  | .nmulw d nw a b => [wordV3 0x0E d nw (encodeReg7 a) (encodeReg7 b) 7]
  | .pand pd pa pb => [wordPred pd (encodePred7 pa) (encodePred7 pb) 0]
  | .por pd pa pb => [wordPred pd (encodePred7 pa) (encodePred7 pb) 1]
  | .pxor pd pa pb => [wordPred pd (encodePred7 pa) (encodePred7 pb) 2]
  | .pandn pd pa pb => [wordPred pd (encodePred7 pa) (encodePred7 pb) 3]
  | .pnot pd pa => [wordPred pd (encodePred7 pa) 0 4]
  | .ptest pd a => [wordPred pd (encodeSel a) 0 5]
  | .pget d nw pa => [wordV3 0x0F d nw (encodePred7 pa) 0 6]
  | .fadd d nw a b ty => [wordV3 0x10 d nw (encodeSel a) (encodeSel b) (encodeFType ty ++ (0 : BitVec 3))]
  | .fsub d nw a b ty => [wordV3 0x10 d nw (encodeSel a) (encodeSel b) (encodeFType ty ++ (1 : BitVec 3))]
  | .fmul d nw a b ty => [wordV3 0x10 d nw (encodeSel a) (encodeSel b) (encodeFType ty ++ (2 : BitVec 3))]
  | .fmin d nw a b ty => [wordV3 0x10 d nw (encodeSel a) (encodeSel b) (encodeFType ty ++ (3 : BitVec 3))]
  | .fmax d nw a b ty => [wordV3 0x10 d nw (encodeSel a) (encodeSel b) (encodeFType ty ++ (4 : BitVec 3))]
  | .fscale d nw a b ty => [wordV3 0x10 d nw (encodeSel a) (encodeSel b) (encodeFType ty ++ (5 : BitVec 3))]
  | .fcopysign d nw a b ty => [wordV3 0x10 d nw (encodeSel a) (encodeSel b) (encodeFType ty ++ (6 : BitVec 3))]
  | .fabsd d nw a b ty => [wordV3 0x10 d nw (encodeSel a) (encodeSel b) (encodeFType ty ++ (7 : BitVec 3))]
  | .ffma d nw a b c => [wordV3 0x11 d nw (encodeSel a) (encodeSel b) (encodeThird c)]
  | .hfma d nw a b c => [wordV3 0x12 d nw (encodeSel a) (encodeSel b) (encodeThird c)]
  | .bfma d nw a b c => [wordV3 0x13 d nw (encodeSel a) (encodeSel b) (encodeThird c)]
  | .fneg d nw a => [wordV3 0x14 d nw (encodeSel a) 0 0]
  | .fabs d nw a => [wordV3 0x14 d nw (encodeSel a) 0 1]
  | .frcp d nw a => [wordV3 0x14 d nw (encodeSel a) 0 2]
  | .frsq d nw a => [wordV3 0x14 d nw (encodeSel a) 0 3]
  | .fsqrt d nw a => [wordV3 0x14 d nw (encodeSel a) 0 4]
  | .fexp2 d nw a => [wordV3 0x14 d nw (encodeSel a) 0 5]
  | .flog2 d nw a => [wordV3 0x14 d nw (encodeSel a) 0 6]
  | .fsin d nw a => [wordV3 0x14 d nw (encodeSel a) 0 7]
  | .fcos d nw a => [wordV3 0x14 d nw (encodeSel a) 0 8]
  | .ftanh d nw a => [wordV3 0x14 d nw (encodeSel a) 0 9]
  | .fsigm d nw a => [wordV3 0x14 d nw (encodeSel a) 0 10]
  | .frndNe d nw a => [wordV3 0x14 d nw (encodeSel a) 0 11]
  | .frndZ d nw a => [wordV3 0x14 d nw (encodeSel a) 0 12]
  | .frndDn d nw a => [wordV3 0x14 d nw (encodeSel a) 0 13]
  | .frndUp d nw a => [wordV3 0x14 d nw (encodeSel a) 0 14]
  | .fclass d nw a => [wordV3 0x14 d nw (encodeSel a) 0 15]
  | .ffract d nw a => [wordV3 0x14 d nw (encodeSel a) 0 16]
  | .fcmp pd m a b c => [wordCmp 0x15 pd m (encodeSel a) (encodeSel b) ((0 : BitVec 2) ++ encodeFCond c)]
  | .fcmpF64 pd m a b c => [wordCmp 0x15 pd m (encodeReg7 a) (encodeReg7 b) ((1 : BitVec 2) ++ encodeFCond c)]
  | .fcvt d nw a src dst rm pos => [wordVI 0x16 d nw (encodeSel a) (encodeFmt src ++ encodeFmt dst ++ encodeRMode rm ++ pos)]
  | .fpack d nw a b dst high => [wordV3 0x17 d nw (encodeSel a) (encodeSel b) (encodeBool high ++ encodeFmt dst)]
  | .funpk d nw a src pos => [wordVI 0x18 d nw (encodeSel a) (encodeFmt src ++ (0 : BitVec 6) ++ pos)]
  | .dadd d nw a b => [wordV3 0x19 d nw (encodeReg7 a) (encodeReg7 b) 0]
  | .dsub d nw a b => [wordV3 0x19 d nw (encodeReg7 a) (encodeReg7 b) 1]
  | .dmul d nw a b => [wordV3 0x19 d nw (encodeReg7 a) (encodeReg7 b) 2]
  | .dmin d nw a b => [wordV3 0x19 d nw (encodeReg7 a) (encodeReg7 b) 3]
  | .dmax d nw a b => [wordV3 0x19 d nw (encodeReg7 a) (encodeReg7 b) 4]
  | .dfma d nw a b c => [wordV3 0x1A d nw (encodeReg7 a) (encodeReg7 b) (c.setWidth 5)]
  | .sbcast d nw a b => [wordV3 0x1B d nw (encodeSel a) (encodeSel b) 0]
  | .saff d nw a b => [wordV3 0x1B d nw (encodeSel a) (encodeSel b) 1]
  | .sgen d nw a => [wordV3 0x1B d nw (encodeSel a) 0 2]
  | .stag d nw a => [wordV3 0x1B d nw (encodeSel a) 0 3]
  | .mov d nw a => [wordV3 0x1B d nw (encodeSel a) 0 4]
  | .xmrd d nw => [wordV3 0x1B d nw 0 0 5]
  | .xmwr a => [wordV3 0x1B 0 false (encodeSel a) 0 6]
  | .ballot d nw a => [wordV3 0x1B d nw (encodeSel a) 0 7]
  | .xchGet d nw a b => [wordV3 0x1C d nw (encodeSel a) (encodeSel b) 0]
  | .xchFlip d nw a b => [wordV3 0x1C d nw (encodeSel a) (encodeSel b) 1]
  | .xchRot d nw a b => [wordV3 0x1C d nw (encodeSel a) (encodeSel b) 2]
  | .xchLag d nw a b => [wordV3 0x1C d nw (encodeSel a) (encodeSel b) 3]
  | .redAdd d nw a => [wordV3 0x1C d nw (encodeSel a) 0 4]
  | .redFadd d nw a => [wordV3 0x1C d nw (encodeSel a) 0 5]
  | .redMin d nw a => [wordV3 0x1C d nw (encodeSel a) 0 6]
  | .redMax d nw a => [wordV3 0x1C d nw (encodeSel a) 0 7]
  | .scanAdd d nw a => [wordV3 0x1C d nw (encodeSel a) 0 8]
  | .scanFadd d nw a => [wordV3 0x1C d nw (encodeSel a) 0 9]
  | .allnz d nw a => [wordV3 0x1C d nw (encodeSel a) 0 10]
  | .anynz d nw a => [wordV3 0x1C d nw (encodeSel a) 0 11]
  | .br p ng tgt => [wordB 0x20 p ng tgt 0]
  | .brAll p ng tgt => [wordB 0x20 p ng tgt 0x80]
  | .brd p ng tgt aux => [wordB 0x21 p ng tgt aux]
  | .call tgt => [wordB 0x22 7 false tgt 0]
  | .jr a => [wordV3 0x23 0 false (encodeReg7 a) 0 0]
  | .jrd a b => [wordV3 0x23 0 false (encodeReg7 a) (encodeReg7 b) 1]
  | .ret => [wordV3 0x23 0 false 0 0 2]
  | .nop => [wordV3 0x24 0 false 0 0 0]
  | .exit => [wordV3 0x24 0 false 0 0 1]
  | .yield => [wordV3 0x24 0 false 0 0 2]
  | .tfence => [wordV3 0x24 0 false 0 0 3]
  | .brkpt => [wordV3 0x24 0 false 0 0 5]
  | .eret => [wordV3 0x24 0 false 0 0 6]
  | .trap a => [wordV3 0x24 0 false (encodeSel a) 0 4]
  | .nap a => [wordV3 0x24 0 false (encodeSel a) 0 7]
  | .role a => [wordV3 0x24 0 false (encodeSel a) 0 8]
  | .sysc d nw a b => [wordV3 0x24 d nw (encodeSel a) (encodeReg7 b) 9]
  | .rdsr d nw sr => [wordVI 0x25 d nw 0 (encodeSReg sr)]
  | .wrsr a sr => [wordVI 0x26 0 false (encodeSel a) (encodeSReg sr)]
  | .ld r m wd off => [wordM 0x28 r m wd off]
  | .st r m wd off => [wordM 0x29 r m wd off]
  | .ldv r m wd off => [wordM 0x2A r m wd off]
  | .pf m wd off => [wordM 0x2B 0 m wd off]
  | .acq d a sc => [wordV3 0x2D d false (encodeReg7 a) 0 ((0 : BitVec 2) ++ encodeScope sc)]
  | .rel a b sc => [wordV3 0x2D 0 false (encodeReg7 a) (encodeSel b) ((1 : BitVec 2) ++ encodeScope sc)]
  | .acqrel d a b sc => [wordV3 0x2D d false (encodeReg7 a) (encodeSel b) ((2 : BitVec 2) ++ encodeScope sc)]
  | .fence sc => [wordV3 0x2D 0 false 0 0 ((3 : BitVec 2) ++ encodeScope sc)]
  | .aadd d a b sc => [wordA 0x2E d (encodeReg7 a) (encodeSel b) sc 0]
  | .aand d a b sc => [wordA 0x2E d (encodeReg7 a) (encodeSel b) sc 1]
  | .aor d a b sc => [wordA 0x2E d (encodeReg7 a) (encodeSel b) sc 2]
  | .axor d a b sc => [wordA 0x2E d (encodeReg7 a) (encodeSel b) sc 3]
  | .axchg d a b sc => [wordA 0x2E d (encodeReg7 a) (encodeSel b) sc 4]
  | .amin d a b sc => [wordA 0x2E d (encodeReg7 a) (encodeSel b) sc 5]
  | .amax d a b sc => [wordA 0x2E d (encodeReg7 a) (encodeSel b) sc 6]
  | .anmin d a b sc => [wordA 0x2E d (encodeReg7 a) (encodeSel b) sc 7]
  | .anmax d a b sc => [wordA 0x2F d (encodeReg7 a) (encodeSel b) sc 0]
  | .acas d a b sc => [wordA 0x2F d (encodeReg7 a) (encodeSel b) sc 1]
  | .ainc d a b sc => [wordA 0x2F d (encodeReg7 a) (encodeSel b) sc 2]
  | .abadd d a b sc => [wordA 0x2F d (encodeReg7 a) (encodeSel b) sc 3]
  | .afadd d a b sc => [wordA 0x2F d (encodeReg7 a) (encodeSel b) sc 4]
  | .afmax d a b sc => [wordA 0x2F d (encodeReg7 a) (encodeSel b) sc 5]
  | .afaddBf16x2 d a b sc => [wordA 0x2F d (encodeReg7 a) (encodeSel b) sc 6]
  | .aadd64 d a b sc => [wordA 0x30 d (encodeReg7 a) (encodeReg7 b) sc 0]
  | .axchg64 d a b sc => [wordA 0x30 d (encodeReg7 a) (encodeReg7 b) sc 1]
  | .acas64 d a b sc => [wordA 0x30 d (encodeReg7 a) (encodeReg7 b) sc 2]
  | .amin64 d a b sc => [wordA 0x30 d (encodeReg7 a) (encodeReg7 b) sc 3]
  | .amax64 d a b sc => [wordA 0x30 d (encodeReg7 a) (encodeReg7 b) sc 4]
  | .caddF32 a b sc => [wordA 0x31 0 (encodeReg7 a) (encodeSel b) sc 0]
  | .caddBf16 a b sc => [wordA 0x31 0 (encodeReg7 a) (encodeSel b) sc 1]
  | .caddF16 a b sc => [wordA 0x31 0 (encodeReg7 a) (encodeSel b) sc 2]
  | .caddI32 a b sc => [wordA 0x31 0 (encodeReg7 a) (encodeSel b) sc 3]
  | .cmaxF32 a b sc => [wordA 0x31 0 (encodeReg7 a) (encodeSel b) sc 4]
  | .dprop d a b sc => [wordA 0x32 d (encodeReg7 a) (encodeReg7 b) sc 0]
  | .dread d a b sc => [wordA 0x32 d (encodeReg7 a) (encodeSel b) sc 1]
  | .dreset d a b sc => [wordA 0x32 d (encodeReg7 a) (encodeSel b) sc 2]
  | .dstat d a sc => [wordA 0x32 d (encodeReg7 a) 0 sc 3]
  | .wwait d a b cmp w64 dl => [wordV3 0x33 d false (encodeReg7 a) (encodeSel b) ((0 : BitVec 1) ++ encodeBool dl ++ encodeBool w64 ++ encodeWCmp cmp)]
  | .barPost d nw a b => [wordV3 0x34 d nw (encodeSel a) (encodeSel b) 0]
  | .barMeet d nw a b => [wordV3 0x34 d nw (encodeSel a) (encodeSel b) 1]
  | .barHold d nw a => [wordV3 0x34 d nw (encodeSel a) 0 2]
  | .barQuad d nw => [wordV3 0x34 d nw 0 0 3]
  | .barDie d nw => [wordV3 0x34 d nw 0 0 4]
  | .barPkg d nw => [wordV3 0x34 d nw 0 0 5]
  | .barPod d nw => [wordV3 0x34 d nw 0 0 6]
  | .join => [wordV3 0x34 0 false 0 0 7]
  | .qput q a => [wordV3 0x35 0 false (encodeSel a) (encodeQ q false false) 0]
  | .qtry d nw q => [wordV3 0x35 d nw 0 (encodeQ q false false) 1]
  | .qbind q a con qsp => [wordV3 0x35 0 false (encodeSel a) (encodeQ q con qsp) 2]
  | .qallow q a => [wordV3 0x35 0 false (encodeSel a) (encodeQ q false false) 3]
  | .qcount d nw q => [wordV3 0x35 d nw 0 (encodeQ q false false) 4]
  | .qunbind q => [wordV3 0x35 0 false 0 (encodeQ q false false) 5]
  | .tgive t => [wordV3 0x36 0 false 0 (encodeT t) 0]
  | .ttake t => [wordV3 0x36 0 false 0 (encodeT t) 1]
  | .towner d nw t => [wordV3 0x36 d nw 0 (encodeT t) 2]
  | .mvtd t a => [wordV3 0x36 0 false (encodeReg7 a) (encodeT t) 3]
  | .rdtd d nw t => [wordV3 0x36 d nw 0 (encodeT t) 4]
  | .mma m => [wordMma m 0, wordMma2 m 0 0 0]
  | .mmab m => [wordMma m 1, wordMma2 m 0 0 0]
  | .mmat m diag up mc => [wordMma m 2, wordMma2 m diag ((0 : BitVec 1) ++ encodeBool up) ((0 : BitVec 2) ++ mc)]
  | .cdrain c t fmt hist give relu rm sreg ssel row =>
    [(0x38 : BitVec 6) ++ c ++ t ++ encodeFmt fmt ++ hist.getD 0 ++ encodeBool hist.isSome ++ encodeBool give ++
        encodeRMode rm ++ encodeBool relu ++ (0 : BitVec 5),
      sreg ++ ssel ++ encodeBool row ++ (0 : BitVec 23)]
  | .czero c => [wordV3 0x39 ((0 : BitVec 2) ++ c) false 0 0 0]
  | .cload c t fmt => [wordV3 0x39 ((0 : BitVec 2) ++ c) false (encodeT t) ((0 : BitVec 3) ++ encodeFmt fmt) 1]
  | .hclr k => [wordV3 0x39 0 false 0 ((0 : BitVec 4) ++ k) 2]
  | .hrd d nw a k => [wordV3 0x39 d nw (encodeSel a) ((0 : BitVec 4) ++ k) 3]
  | .hset a k => [wordV3 0x39 0 false (encodeSel a) ((0 : BitVec 4) ++ k) 4]
  | .cwait t v => [wordV3 0x39 0 false (encodeT t) ((0 : BitVec 6) ++ encodeBool v) 5]
  | _ => []

/-- The bytes of an instruction, lowest address first. -/
def encode (i : Instr) : List Byte := (encodeWords i).flatMap wordBytes

/-- Whether the instruction has an encoding: the 208 instruction words, not the steps. -/
def hasEncoding (i : Instr) : Bool := !(encodeWords i).isEmpty

end Sys2Proof
end

