-- ==== Sys2Proof/Config.lean ====
section
/-! DEFINITION. What the spec leaves open, as constants without a body: nothing can be proved of their values. A counter
`n` argument is `State.fresh`, so that each draw is a new value. -/

namespace Sys2Proof.Config

/-- Ticks that pass with a step (log 1). -/
opaque elapsed : Nat → Nat

/-- The approximated functions of 07 R185. -/
inductive Approx where
  | rsq | exp2 | log2 | sin | cos | tanh | sigm
  deriving DecidableEq, Repr

/-- The value an approximated function gives where R185 bounds only its error (log 8). -/
opaque approx : Approx → Word → Word

/-- A copy engine's estimate, in ticks (09 R278, log 9). -/
opaque estimate : Nat → Nat

/-- Which of the queues behind `q0`–`q2` have no room at a step, a bit each (08 R250, log 61). -/
opaque noRoom : Nat → Nat

/-- The entry, die × 4,096 + index, in which the home of another package has armed a strand's watch (08 R241, log 29). -/
opaque watchEntry : Nat → Nat

/-- A byte of a tile or of far memory that a failed copy leaves undetermined (15 R401, log 10). -/
opaque undetermined : Nat → Nat → Byte

/-- Whether an access uses a cached translation that memory no longer holds (04 R100, log 11). -/
opaque useCached : Nat → Bool

/-- The Falcon-1024 signature of a digest with the module's identity key (13 R341, log 12). -/
opaque sign : List Byte → List Byte

/-- A byte of another package's memory as an agent of this package reads it on its own account: page walks, fetches,
copy engines, the command processor (log 2). -/
opaque remoteByte : Nat → Nat → Byte

/-- How long ago a new cobbler's last heartbeat counts as sent, in ticks (11 R327, log 97). -/
opaque firstBeat : Nat → Nat

/-- Whether the switch of one package routes on to another (11 R331, log 37). -/
opaque routesOn : Nat → Nat → Bool

/-- What the shank finds a die to ask for, in W (13 R342, log 22). -/
opaque demand : Nat → Nat → Nat

/-- The local address to which the IOMMU takes an address of an endpoint, by the device context of its port; none where it refuses
it (11 R333, log 87). -/
opaque iommu : Nat → Nat → Nat → Option Nat

/-- Whether the IOMMU takes an endpoint's write for a message-signalled interrupt (11 R333, log 87). -/
opaque isMsi : Nat → Nat → Nat → Bool

/-- Whether the other packages of a pod gang have arrived in a phase (08 R245, log 2). -/
opaque peersArrived : Nat → Nat → Nat → Bool

/-- The length of a lease that the cobbler chooses, in milliseconds (11 R320, log 20). -/
opaque tradeMs : Nat → Nat

/-- How the shank shares a budget that the demand passes (13 R342, log 22). -/
opaque share : Nat → Nat → Nat

/-- The lane clock that a grant in W supports, in steps of 100 MHz (13 R342, log 22). -/
opaque clockFor : Nat → Nat → Nat

/-- What a read of a write-only register of the MMIO range gives (log 23). -/
opaque writeOnly : Nat → Nat → Nat

/-- The check bits of a value in an operand log, from its tag and its bytes as a number (16 R404, R405, log 16). -/
opaque checkBits : Nat → Nat → Nat

/-- Whether the check bits of a value in an operand log pass (16 R405, log 16). -/
opaque logHolds : Nat → Bool

/-- How many flits of a port its link partner acknowledges as a step passes (15 R391, log 82). -/
opaque linkAcks : Nat → Nat → Nat

end Sys2Proof.Config
end

