-- ==== Sys2Proof/Machine/State.lean ====
section
/-! DEFINITION. The state of one Narlux N16 package as plain data, and the state right after reset. INVENTORY.md's
'## State' lists every piece with the rule that names it. Where the spec states no reset value the value here is the
model's own: log entries 4, 5, 6, 7. -/

namespace Sys2Proof.Machine

/-- No instruction and no step of this machine ends in a fault: every cause of 14 R350 is taken as an exception, which
is a next state. Nobody raises a fault (safe). -/
inductive Fault where
  deriving DecidableEq, Repr

/-- The one refusal is that of a constructor that has no meaning yet; `exec` alone raises it (safe: nothing is claimed
of the instruction). -/
inductive Refusal where
  | notModelled (mnemonic : String)
  deriving DecidableEq, Repr

/-- The answer of a step of this machine. -/
abbrev Result (σ : Type) := Host.Outcome σ Fault Refusal

/-- Sparse data by key: keys strictly rising, no entry equal to the value of an unlisted key. -/
abbrev Tbl (α : Type) := List (Nat × α)

/-- Memory: a table of bytes in the canonical form; an unlisted byte reads zero (log 4). -/
abbrev Memory := List Host.Cell

/-! ### Strands -/

/-- A vector register with its shape tag (02 R25, R30). -/
inductive RegVal where
  | u (v : Word)
  | a (base stride : Word)
  | g (vals : Vector Word 32)
  deriving DecidableEq, Repr

/-- Where a strand is resident (02 R24, R27). -/
inductive Place where
  | none
  | vec (core lane slot : Nat)
  | ctl (quad context : Nat)
  deriving DecidableEq, Repr

/-- What a fragment waits for; the numbers of R48 are given by `Wait.kind`. -/
inductive Wait where
  /-- it may issue -/
  | ready
  /-- all its threads have exited (R44) -/
  | ended
  /-- the parent of two children (R39) -/
  | suspended
  /-- arrived at its reconvergence address (R41) -/
  | reconv
  /-- waits at a `join` (R43) -/
  | join
  /-- the header waits of the clause at its pc do not hold; the kind under which the wait is a blocking point: 4 for QW, 8
  for the owner wait, 9 for LDW with a remote load outstanding, else 0 (R48, R145) -/
  | header (kind : Nat)
  /-- named barrier, with the awaited phase (R244) -/
  | bar (n : Nat) (phase : Bool)
  /-- gang barrier, with the awaited phase (R245) -/
  | gang (scope : Scope) (phase : Nat)
  /-- pop of an empty queue (R251) -/
  | pop (q : QNo)
  /-- `qput` without room or allowance (R250) -/
  | push (q : QNo)
  /-- `wwait`, with its outstanding operation (R239) -/
  | watch (op : Nat)
  /-- `nap` (R208) -/
  | nap (target : DWord)
  /-- `cwait` (R274) -/
  | owner (t : TileNo) (v : Bool)
  /-- replies of another package to its instruction (R348) -/
  | reply (op : Nat)
  /-- the limit of 63 operations in flight (R47) -/
  | limit
  /-- parked for the package kernel on a fault entry (R362) -/
  | parked (entry : Nat)
  /-- at a yield point with a request pending (R49) -/
  | yield
  /-- another fragment runs the handler (R356) -/
  | held
  /-- a paired window that waits for the compare (16 R414) -/
  | window
  deriving DecidableEq, Repr

/-- What the instruction at the pc of a fragment has done already, when it waits in its course (R36). -/
inductive Begun where
  | no
  /-- arrived at a named barrier in this phase -/
  | met (n : Nat) (phase : Bool)
  /-- holds at a named barrier in this phase, with the strand's pending mark (08 R244) -/
  | holding (n : Nat) (phase : Bool)
  /-- arrived at a gang in this phase -/
  | ganged (scope : Scope) (phase : Nat)
  /-- napping until this tick -/
  | napping (target : DWord)
  /-- its operation is outstanding -/
  | sent (op : Nat)
  /-- a parked `sysc` that the kernel has answered (14 R364) -/
  | answered (status : Word)
  /-- its window has matched (16 R414) -/
  | matched
  deriving DecidableEq, Repr

/-- The implicit `tfence` at the end of a TF clause (06 R147): the header of the clause, and its last instruction. -/
structure TfTest where
  head : Word
  last : List Word
  deriving DecidableEq, Repr

/-- An instruction that a fragment makes once more after it has gone on past it: a local access that was refused (14 R346). It
stands at `at_`, the instruction after it at `next`; past it the fragment takes up again what it had come to. -/
structure Redo where
  at_ : BitVec 52 × Nat
  next : BitVec 52 × Nat
  back : BitVec 52 × Nat
  tf : Option TfTest
  tickCap : Option Word
  deriving DecidableEq, Repr

/-- What waits for the return of a fragment's user handler: an implicit `tfence` that was still to come, the captured half
of `tick` with the clause that it belongs to, and instructions to be made once more (06 R147, R155; 14 R346). -/
structure Kept where
  tf : Option TfTest
  hdr : BitVec 52
  tickCap : Option Word
  redo : List Redo
  deriving DecidableEq, Repr

/-- A fragment (02 R52). `hdr` is the address of the clause header and `widx` the word index in the clause; `inClause`
holds once the header has been read; then `head` is that header, `k` the
number of the next instruction (R35), and `last` the words of the instruction before it (14 R354). `owed` lists the latches
whose value a service call has still to bring, with its operation (R35, 09 R289). `tf` is the implicit `tfence` that still
follows the clause it has ended, `redo` what it makes once more, `kept` what a user handler leaves to come when it returns; `deadPops` are those of
`heldPops` that found their producers gone (08 R251). `slot` while it holds its
lane's issue slot in the course of a clause (R24); `tabled` while it has an entry of its lane's split table (R39). -/
structure Fragment where
  id : Nat
  hdr : BitVec 52
  widx : Nat
  inClause : Bool
  head : Word
  last : List Word
  k : Nat
  mask : Mask
  parent : Option Nat
  reconv : BitVec 52
  wait : Wait
  begun : Begun
  latches : Vector RegVal 4
  owed : List (Nat × Nat)
  tickCap : Option Word
  heldPops : List QNo
  deadPops : List QNo
  tf : Option TfTest
  redo : List Redo
  kept : Kept
  slot : Bool
  tabled : Bool
  deriving DecidableEq, Repr

/-- A serial record (02 R42, R53); `full` holds every thread of the split that has not exited, so that those which
`xmwr` has cleared come back with it (07 R194). -/
structure Serial where
  fall : BitVec 52
  fallWidx : Nat
  reconv : BitVec 52
  aux : BitVec 8
  mask : Mask
  full : Mask
  phase : Bool
  owner : Nat
  deriving DecidableEq, Repr

/-- A queue binding of `q4`–`q15` (02 R53). -/
structure Binding where
  offset : Word
  quadSpace : Bool
  consumer : Bool
  drawn : Nat
  deriving DecidableEq, Repr

/-- The registers an exception saves into and `tvec` (06 R162, 14 R352–R354). -/
structure TrapRegs where
  tvec : Word
  tvech : Word
  tcause : Word
  taddr : Word
  taddrh : Word
  tepc : Word
  tepch : Word
  emword : Word
  emop : Word
  emfn : Word
  emd : Word
  ema : Word
  emb : Word
  emc : Word
  emimm : Word
  emclause : Word
  deriving DecidableEq, Repr

/-- Who a strand is: launch, block, numbers (02 R23, R430; 06 R162). -/
structure Identity where
  id : StrandId
  context : Nat
  sid : Nat
  blockX : Word
  blockY : Word
  blockZ : Word
  blockIdx : Nat
  gridX : Word
  gridY : Word
  gridZ : Word
  nstrands : Word
  params : DWord
  twin : Bool
  deriving DecidableEq, Repr

/-- An entry of a lane's operand log (16 R405): the strand, the register, predicate or latch with the fragment whose latch it
is, the value written with its tag, and the value's own check bits. -/
structure LogEntry where
  who : StrandId
  site : RegSite
  frag : Nat
  value : RegVal
  check : Nat
  deriving DecidableEq, Repr

/-- A handler cause recorded while the debugger holds its strand: the fragment, what is reported, the exact point, and the
emulation registers (14 R371). -/
structure Recorded where
  frag : Nat
  cause : Cause
  detail : Nat
  addr : DWord
  threads : Mask
  after : Bool
  defer : Bool
  epc : DWord
  em : TrapRegs
  deriving DecidableEq, Repr

/-- A strand, or a control program on its control lane. `cur` is the fragment that executes; `frags` are its others in
creation order. `window` are the records of the open paired window; the signature of the one before, closed at `windowAt`, is
`windowSig`, and its held writes are those before the operation `windowEnd` (16 R412–R414). -/
structure Strand where
  who : Identity
  place : Place
  age : Nat
  skip : Nat
  regs : Vector RegVal 64
  preds : Vector Mask 7
  fcr : Word
  fflags : Word
  ftrapen : Word
  lr : Word
  role : Word
  prio : Word
  allotV : Nat
  allotG : Nat
  qstatus : Word
  wdl : Word
  wdlh : Word
  psf : Word
  psfAddr : DWord
  psfArg : Nat
  trap : TrapRegs
  handler : Option Nat
  binds : Vector (Option Binding) 12
  promises : List Word
  completions : List Word
  acks : List Word
  events : List Word
  pushed0 : List Word
  pushed1 : List Word
  pushed2 : List Word
  cur : Fragment
  frags : List Fragment
  nextFrag : Nat
  serials : List Serial
  resident : List Reg
  pendingBars : List (Nat × Bool × Bool)
  laneSize : Nat
  timeSlice : Bool
  evicting : Bool
  checkpointing : Bool
  killing : Bool
  halted : Bool
  reports : List Recorded
  stepping : Option Nat
  window : List (BitVec 128)
  windowSig : Option DWord
  windowAt : DWord
  windowEnd : Nat
  sharedSeq : Nat
  writeBack : List Nat
  deriving DecidableEq, Repr

/-! ### Outstanding memory operations -/

/-- The formats of commutative ranges (08 R228). -/
inductive CFmt where
  | f32 | bf16 | f16 | i32
  deriving DecidableEq, Repr

/-- Progress of one access. `ordered` and beyond: it has taken its place in the coherence order of its bytes. -/
inductive AccState where
  /-- accepted by the issuing die's path, not yet at its home -/
  | waiting
  /-- taken by the package switch towards another package -/
  | switched
  /-- applied at its home; its parity delta not yet acknowledged (R106) -/
  | applied
  /-- performed, or its value has been read -/
  | done
  /-- answered by a fault reply -/
  | failed (c : Cause)
  deriving DecidableEq, Repr

/-- One access of an instruction; `wt` and `stream` are WT and EVICT = 3 of its leaf (04 R96);
`seq` and `sent` are the request tag and the tick of a request to another package (15 R394, R395). -/
structure Access where
  threads : Mask
  va : DWord
  fab : Nat
  size : Nat
  kind : Nat
  clevel : Nat
  index : Nat
  wt : Bool
  stream : Bool
  seq : Nat
  sent : DWord
  data : BitVec 128
  din : DWord
  state : AccState
  result : BitVec 128
  ok : Bool
  delta : List Byte
  deriving DecidableEq, Repr

/-- What an outstanding operation does. -/
inductive OpKind where
  | load (wd : Width)
  | loadv (wd : Width)
  | store
  | acq
  | rel
  | acqrel
  | fence
  | atomic (fn : AtomFn) (wide : Bool)
  | cadd (fmt : CFmt) (isMax : Bool)
  | docProp | docRead | docReset | docStat
  | watch (cmp : WCmp) (wide : Bool) (deadline : Option DWord)
  | service (svc : Nat) (nw : Bool)
  deriving DecidableEq, Repr

/-- An outstanding instruction of a strand: `gate` while the release it is or contains waits (R219); `pc`, `widx` and
`word` name the instruction for a cause raised from its reply (R347). `windowed` while an open paired window holds it, `shared`
its number among the operations that two twins perform once, with true for
the twin that sends nothing (16 R414). `head` is the header of the instruction's clause (14 R354), and `mode` APLACE of the strand's
context as the instruction issued (01 R17). -/
structure Op where
  id : Nat
  owner : StrandId
  frag : Nat
  die : Nat
  core : Nat
  what : OpKind
  dst : Reg
  scope : Scope
  gate : Bool
  holds : Bool
  uniform : Bool
  full : Bool
  remote : Bool
  switchHeld : Bool
  windowed : Bool
  shared : Option (Nat × Bool)
  pc : BitVec 52
  widx : Nat
  head : Word
  word : Word
  mode : Nat
  accs : List Access
  deriving DecidableEq, Repr

/-! ### Launches -/

/-- A launch record's fields (03 R59–R62). -/
structure Record where
  words : List Word
  kentry : DWord
  centry : DWord
  gx : Nat
  gy : Nat
  gz : Nat
  strands : Nat
  vmax : Nat
  gmax : Nat
  spill : Nat
  scratch : Nat
  laneMem : Nat
  quadMem : Nat
  gq : Nat
  gd : Nat
  gp : Bool
  gpod : Bool
  params : DWord
  sync : Nat
  podId : Nat
  nrole : Nat
  irole : Nat
  ctrl : Bool
  idem : Bool
  qbound : Bool
  pair : Bool
  prio : Nat
  deriving DecidableEq, Repr

/-- A role (03 R61). -/
structure RoleRec where
  entry : BitVec 52
  v : Nat
  g : Nat
  cls : Nat
  deriving DecidableEq, Repr

/-- A run of block indices `[lo, hi)` held by a die's distributor (03 R78). -/
structure Run where
  die : Nat
  lo : Nat
  hi : Nat
  quad : Option Nat
  deriving DecidableEq, Repr

/-- A running launch. -/
structure Launch where
  handle : Nat
  record : Record
  context : Nat
  roles : List RoleRec
  free : List (Nat × Nat)
  runs : List Run
  lost : List (Nat × Nat × Nat)
  ended : Nat
  order : Nat
  generation : Nat
  restored : Bool
  replay : Option (Nat × Nat)
  deriving DecidableEq, Repr

/-- A named barrier of a block (08 R243). -/
structure Barrier where
  arrived : Nat
  expected : Nat
  set : Bool
  phase : Bool
  deriving DecidableEq, Repr

/-- A resident block, with its region of its core's scratchpad (03 R80, 08 R243). -/
structure Block where
  handle : Nat
  idx : Nat
  twin : Bool
  core : Nat
  base : Nat
  size : Nat
  bars : Vector Barrier 16
  abandoned : Bool
  strands : Nat
  deriving DecidableEq, Repr

/-- A launch's quad memory on a quad: `size` bytes, a quarter at `base` of each of the quad's core scratchpads
(04 R88); `context` is the control context of its control program, if it has one. `twin` for secondary twins, whose
primaries run on quad `home` (16 R411); `orig` the quad whose image it was restored from, else its own (16 R420). -/
structure QuadRegion where
  handle : Nat
  quad : Nat
  twin : Bool
  home : Nat
  base : Nat
  size : Nat
  context : Option Nat
  orig : Nat
  deriving DecidableEq, Repr

/-- A gang's phase: how many of its live strands have arrived, and whether one was killed in it (08 R245, 16 R409). -/
structure Gang where
  handle : Nat
  scope : Scope
  index : Nat
  phase : Nat
  arrived : List StrandId
  tainted : Bool
  lastTainted : Bool
  deriving DecidableEq, Repr

/-- A launch queue (03 R66, R70). -/
structure LaunchQueue where
  base : DWord
  size : Word
  prod : Word
  cons : Word
  err : Word
  rereads : Nat
  nextRead : DWord
  deriving DecidableEq, Repr

/-- A device-side record waiting for the command processor (03 R69). -/
structure DeviceRecord where
  owner : StrandId
  context : Nat
  words : List Word
  op : Nat
  deriving DecidableEq, Repr

/-- A graph edge with its buffer list (03 R75). -/
structure Edge where
  src : Nat
  dst : Nat
  bufs : List (Nat × Nat × Bool × Bool)
  deriving DecidableEq, Repr

/-- A registered graph object (03 R74, R77); `pending` while it waits to replace an older copy. -/
structure Graph where
  addr : Nat
  context : Nat
  overlap : Bool
  nodes : List Record
  rolesOf : List (List RoleRec)
  edges : List Edge
  patches : Nat
  pcount : Nat
  removing : Bool
  pending : Bool
  deriving DecidableEq, Repr

/-- A replay of a graph: bound parameters, which nodes were accepted and which have completed (03 R76, R77). -/
structure Replay where
  handle : Nat
  addr : Nat
  context : Nat
  params : List DWord
  accepted : List Nat
  done : List Nat
  sync : Nat
  deriving DecidableEq, Repr

/-- Where a graph record came from: a launch queue or a strand's `q2`. -/
inductive Source where
  | queue (q : Nat)
  | strand (st : StrandId)
  deriving DecidableEq, Repr

/-- A graph record that has passed the stamps and waits for its operation (03 R77). -/
structure GraphRec where
  source : Source
  context : Nat
  gop : Nat
  addr : Nat
  sync : Nat
  deriving DecidableEq, Repr

/-- A block out of residency, with its strands that are still live and their bindings to queues in quad memory (02 R50; 16 R408). -/
structure Evicted where
  handle : Nat
  idx : Nat
  strands : List StrandId
  bound : List (StrandId × Place × Binding)
  deriving DecidableEq, Repr

/-- Launches, distribution and what is resident. `cpUnits` are the units of staging frames that the command processor has asked for, each
with whether its fetch has failed (11 R322); `heldAcks` are acknowledgements of strands out of residency, `contexts`
the address contexts of launches that have been checkpointed (log 28), and `generations` the last generation number of each handle (16
R418). -/
structure Work where
  queues : Vector LaunchQueue 16
  lastHandle : Nat
  rr : Nat
  opened : Bool
  launches : List Launch
  acceptCount : Nat
  device : List DeviceRecord
  graphRecs : List GraphRec
  graphs : List Graph
  replays : List Replay
  blocks : List Block
  regions : List QuadRegion
  gangs : List Gang
  ageCount : Nat
  master : Nat
  deputy : Nat
  mirror : List (Nat × List (Nat × Nat) × List Run)
  evicted : List Evicted
  heldAcks : List (StrandId × Word)
  cpUnits : List (Nat × Nat × Bool)
  contexts : Tbl Nat
  generations : Tbl Nat
  deriving DecidableEq, Repr

/-! ### Address contexts and package-kernel registers -/

/-- An entry of the loaded binding table (09 R293). -/
structure BindEntry where
  object : Nat
  region : Nat
  units : Nat
  deriving DecidableEq, Repr

/-- The settings of one address context (09 R292–R294). -/
structure AddrContext where
  rootl : Word
  rooth : Word
  asn : Word
  aplace : Word
  bindl : Word
  bindh : Word
  bindn : Word
  winA : Vector Word 8
  winB : Vector Word 8
  kctx : Word
  bindings : List BindEntry
  deriving DecidableEq, Repr

/-- A fault-queue entry as the N16 writes it (14 R363); the fragment it parks, if any; `em` the emulation registers that a
REFLECT of it delivers, and `disp` DISP and STATUS once `fqcons` has passed it (14 R364). -/
structure FaultEntry where
  cause : Nat
  detail : Nat
  flags : Word
  handle : Nat
  strand : Nat
  whereW : Word
  tmask : Mask
  epc : DWord
  addr : DWord
  arg : DWord
  func : Word
  parks : Option (StrandId × Nat)
  em : TrapRegs
  disp : Option (Word × Word)
  deriving DecidableEq, Repr

/-- The package-kernel registers of the package (09 R292) and the fault queue (14 R362, R364). -/
structure Kernel where
  contexts : Tbl AddrContext
  pksel : Word
  crdl : Word
  crdh : Word
  qctx : Vector Word 16
  fqbl : Word
  fqbh : Word
  fqsize : Word
  fqprod : Word
  fqcons : Word
  waitingFaults : List FaultEntry
  written : Tbl FaultEntry
  deriving DecidableEq, Repr

/-! ### Control contexts and engines -/

/-- A tile register with its return-pending mark (09 R254). -/
structure Tile where
  desc : DWord
  ret : Bool
  deriving DecidableEq, Repr

/-- The type of a c-tile (05 R123). -/
inductive CType where
  | openT | float | int
  deriving DecidableEq, Repr

/-- A c-tile: element `(i, j)` at key `32 i + j`, in the 40 bits of ACC40 (05 R121–R123). -/
structure CTile where
  ty : CType
  bound : Option Nat
  elems : Tbl (BitVec 40)
  deriving DecidableEq, Repr

/-- What a queued matrix operation does, with what it read at issue (09 R262, R263; 05 R134, R141). -/
inductive MatOp where
  | dense (m : MmaArgs) (descA descB : DWord) (scaleA scaleB : List (Word)) (acc : Bool)
  | batched (m : MmaArgs) (descA descB : DWord) (scaleA scaleB : List (Word)) (acc : Bool)
  | tri (m : MmaArgs) (descA descB : DWord) (scaleA scaleB : List (Word)) (acc : Bool) (diag : BitVec 7) (upper : Bool)
      (mconst : BitVec 2)
  | czero (c : CTileNo)
  | cload (c : CTileNo) (t : TileNo) (fmt : Fmt) (desc : DWord)
  | cdrain (c : CTileNo) (t : TileNo) (fmt : Fmt) (hist : Option HistNo) (give relu : Bool) (rm : RMode)
      (scale : List (Word)) (sel : Nat) (rowScale : Bool) (desc : DWord) (hoff : Word)
  deriving DecidableEq, Repr

/-- An operation in a context's queue; `engine` once one has taken it (03 R83). -/
structure QueuedOp where
  id : Nat
  op : MatOp
  engine : Option Nat
  deriving DecidableEq, Repr

/-- A control context: its tile table, accumulators, histograms, counters and queue (02 R27; 05 R139–R141; 09). -/
structure Control where
  running : Option StrandId
  tiles : Vector Tile 32
  ctiles : Vector CTile 16
  hists : Vector (Vector Word 32) 8
  hoff : Vector Word 8
  mcnan : Word
  mcovf : Word
  mcsat : Word
  queue : List QueuedOp
  gives : List (Nat × TileNo × StrandId × Nat)
  deriving DecidableEq, Repr

/-- What a copy command does (09 R275). -/
inductive CopyOp where
  | get | put | fill
  deriving DecidableEq, Repr

/-- A run of a far row that lies in one page: its virtual address, its fabric address (for core scratch its place in the
scratchpads), its length, KIND and INDEX of its leaf, whether that is write-through or uncached, and the 64 KiB
units that the leaf maps. -/
structure Seg where
  va : Nat
  fab : Nat
  len : Nat
  kind : Nat
  index : Nat
  direct : Bool
  units : Nat
  deriving DecidableEq, Repr

/-- A copy command from its fifth word to its end (09 R275–R279, 15 R400, R401). `segs` are its far rows as translated,
`stale` once an invalidation has completed before it was taken, `rows` the storage rows still to move, `posted` once the
event of its failure has been posted. `sent` counts its writes to other packages, and `unacked` lists those not yet
acknowledged, each with its package and the borrow entry of its page, if it has one (09 R277; 15 R426). -/
structure CopyCmd where
  id : Nat
  owner : StrandId
  context : Nat
  control : Nat
  core : Nat
  scratch : Nat × Nat
  quad : Nat
  op : CopyOp
  tile : TileNo
  space : Nat
  event : Bool
  far : DWord
  pitch : Word
  value : Word
  desc : DWord
  segs : List (List Seg)
  stale : Bool
  rows : List Nat
  engine : Option Nat
  order : Nat
  promise : Option DWord
  decided : Bool
  again : Nat
  handed : Option DWord
  failure : Option Cause
  posted : Bool
  sent : Nat
  unacked : List (Nat × Nat × Option Nat)
  deriving DecidableEq, Repr

/-- What a near-memory command does (09 R280). -/
inductive NearOp where
  | scale | axpy | fade | zero
  deriving DecidableEq, Repr

/-- Progress of one unit of a near-memory command. -/
inductive UnitState where
  | waiting
  | applied
  | done
  | failed (c : Cause)
  deriving DecidableEq, Repr

/-- One 256-byte unit of a near-memory command, with the result computed at the engine. -/
structure NearUnit where
  tgt : Nat
  src : Nat
  state : UnitState
  value : Option (List Byte)
  delta : List Byte
  deriving DecidableEq, Repr

/-- A near-memory command from its seventh word to its completion word (09 R280–R282). -/
structure NearCmd where
  id : Nat
  owner : StrandId
  op : NearOp
  fmt : Nat
  alpha : Word
  lambda : Word
  tag : Nat
  units : List NearUnit
  windowed : Bool
  deriving DecidableEq, Repr

/-- Engines. `noRoom` has bit q set while the hidden queue behind `q`q, for q = 0–2, takes no word (08 R250, log 61). -/
structure Engines where
  controls : Tbl Control
  copies : List CopyCmd
  nears : List NearCmd
  missed : List (StrandId × TileNo × DWord × Nat)
  undecided : List (StrandId × DWord × Nat)
  eventWait : List (StrandId × Word × Word × Nat)
  rrQuad : Tbl Nat
  noRoom : Nat
  deriving DecidableEq, Repr

/-! ### Memory system -/

/-- The service state of the package's HBM (15 R380). -/
inductive MemMode where
  | parity
  | degraded (stack : Nat)
  | plain
  | fenced
  deriving DecidableEq, Repr

/-- An untracked near copy of a 128-byte line in a die's L2 (04 R102, 10 R310). -/
structure NearCopy where
  die : Nat
  line : Nat
  bytes : List Byte
  tick : DWord
  deriving DecidableEq, Repr

/-- The atomic point of a line under PREDICT or NEAR (08 R226). -/
structure Point where
  line : Nat
  owner : Option Nat
  far : Bool
  transfers : List DWord
  lastTransfer : DWord
  deriving DecidableEq, Repr

/-- A holder's partial of one element; `wt` while every deposit in it came through a write-through page (08 R230, 04 R103). -/
structure Partial where
  addr : Nat
  core : Nat
  fmt : CFmt
  isMax : Bool
  value : Word
  wt : Bool
  deriving DecidableEq, Repr

/-- A copy of a decide-once pair (08 R235). -/
structure DocCopy where
  die : Nat
  cell : Nat
  gen : Nat
  value : DWord
  deriving DecidableEq, Repr

/-- A cached translation (04 R99) of a core's TLB, a die's cache or the command processor: the page's virtual number in 64 KiB units, how many units it maps, and the leaf. -/
structure TlbEntry where
  agent : Nat
  asn : Nat
  vpage : Nat
  units : Nat
  global : Bool
  leaf : DWord
  deriving DecidableEq, Repr

/-- The holder of a watch entry (08 R241). -/
inductive Watcher where
  | strand (op : Nat) (st : StrandId) (ownerWord : Word)
  | hub (die hart : Nat)
  /-- of another package, with HUB and OWNER of its request -/
  | peer (tag : ReqTag) (hub : Bool) (ownerWord : Word)
  deriving DecidableEq, Repr

/-- An entry of a die's watch table (08 R238, R241); `status` once it is done for a strand out of residency (02 R50). -/
structure WatchEntry where
  who : Watcher
  cmp : WCmp
  wide : Bool
  deadline : Option DWord
  cmpv : DWord
  addr : Nat
  status : Option Nat
  deriving DecidableEq, Repr

/-- A hub hart's slot in one die's watch page (11 R330); `asked` the number of its request while its watch is held at another
package. -/
structure HubSlot where
  hcmp : DWord
  hdl : DWord
  hctl : Word
  haddr : DWord
  hreply : DWord
  hmsia : DWord
  hmsid : Word
  asked : Option Nat
  deriving DecidableEq, Repr

/-- The state of a unit of a staging frame (11 R322, R323). -/
inductive Staged where
  | absent
  /-- a fetch is under way; `stale` when what it brings may not serve and the unit is fetched again -/
  | fetching (stale : Bool)
  | clean (tick : DWord)
  /-- the tick of its fetch, the bytes stored, by which strands, and since when -/
  | dirty (tick : DWord) (mask : List Nat) (by_ : List StrandId) (since : DWord)
  /-- write-back begun with these bytes, for a strand's release if `begun` names one; bytes stored since; `drop` when an
  acquire has dropped the unit (10 R306) -/
  | writing (sent since : List Nat) (tick : DWord) (by_ : List StrandId) (begun : Option StrandId) (drop : Bool)
  deriving DecidableEq, Repr

/-- A unit under rebuild (15 R376). -/
structure Rebuild where
  unit : Nat
  stripe : Nat
  deriving DecidableEq, Repr

/-- The memory of the package and the agents at it. `reserved` holds the lines that harts have reserved (10 R311), and `late` the
accesses, by operation and number, whose replies bring no copy any more (10 R295, R306). `hubOwed` holds the watches of hub cores that
a write has satisfied which may not be performed yet, each with its word's address (11 R330). -/
structure MemSys where
  bytes : Memory
  parity : Memory
  scratch : Memory
  slices : Memory
  mode : MemMode
  ops : List Op
  nextOp : Nat
  copies : List NearCopy
  modified : List (Nat × Nat)
  points : List Point
  partials : List Partial
  docs : List DocCopy
  shared : List (StrandId × Nat × List Access)
  tlb : List TlbEntry
  watches : Tbl WatchEntry
  wsel : Vector Word 16
  hub : Tbl HubSlot
  staged : Tbl Staged
  poisoned : List Nat
  poisonedScratch : List (Nat × Nat)
  rebuilds : List Rebuild
  rebuildTicks : List (Nat × DWord)
  lostAt : Option DWord
  settled : Bool
  reserved : List (Nat × Nat)
  deltas : List (Nat × Nat)
  late : List (Nat × Nat)
  hubOwed : List (Watcher × Nat)
  deriving DecidableEq, Repr

/-- A service call of `sysc` (09 R290). -/
inductive SvcKind where
  | inval | bindload | evict | checkpoint | restore | kill
  deriving DecidableEq, Repr

/-- A service call in progress. `before` are the operations that an invalidation waits for, or the blocks that have
lost a strand by a kill during a checkpoint; `frames` the fabric ranges that an invalidation took out of the caches. -/
structure Service where
  id : Nat
  kind : SvcKind
  arg : DWord
  op : Nat
  begun : Bool
  before : List Nat
  frames : List (Nat × Nat)
  deriving DecidableEq, Repr

/-! ### Lending, links, failures, power -/

/-- States of a lease entry (11 R315). -/
inductive LeaseState where
  | free | offered | granted | recalling | expired
  deriving DecidableEq, Repr

/-- A lease-table entry (11 R315). -/
structure Lease where
  state : LeaseState
  extent : Nat
  borrower : Nat
  scrubbing : Bool
  leaseId : Nat
  expiry : DWord
  deadline : DWord
  durMs : Nat
  deriving DecidableEq, Repr

/-- States of a borrow entry (11 R317). -/
inductive BorrowState where
  | free | requested | active | renewing | recalled | releasing | expired | lost
  deriving DecidableEq, Repr

/-- A borrow-table entry (11 R317). -/
structure Borrow where
  state : BorrowState
  staged : Bool
  lender : Nat
  extent : Nat
  leaseId : Nat
  dur : Nat
  expiry : DWord
  stage : DWord
  lastRenewal : Option DWord
  deriving DecidableEq, Repr

/-- The step of an election that waits for the reply of another package's cell (11 R326). -/
inductive ElectStep where
  | stat
  /-- the cell lags: an open generation is closed, then the cell is reset -/
  | close (gen : Nat)
  | reset
  | propose
  deriving DecidableEq, Repr

/-- An election of term `term` on another package's cell: the request `op` that is out, and what follows its reply (11 R326). -/
structure Election where
  term : Nat
  op : Nat
  next : ElectStep
  deriving DecidableEq, Repr

/-- Lending and the cobbler (11); `timeSet` once the counter has been set, or kept by the first cobbler (R324, R325). -/
structure Lending where
  leases : Tbl Lease
  borrows : Tbl Borrow
  leaseCount : Nat
  term : Nat
  cobbler : Option Nat
  lastBeat : DWord
  lastSent : DWord
  offers : List (Nat × Nat × DWord)
  requests : List (Nat × Nat × DWord)
  synced : Bool
  timeSet : Bool
  heldUntil : Option DWord
  anchors : List Nat
  electCell : Nat
  deadAnchors : List Nat
  electing : Option Election
  deriving DecidableEq, Repr

/-- A record of the error log (15 R372). -/
structure LogRecord where
  event : Nat
  unit : Nat
  arg : DWord
  whereD : DWord
  tick : DWord
  seq : Nat
  deriving DecidableEq, Repr

/-- What the machine sends out of the package. -/
inductive OutMsg where
  | offer (entry extent : Nat)
  | withdraw (entry : Nat)
  | addCommand (lender entry borrower durMs term : Nat)
  | addEvent (dest : Nat) (tag : List Byte) (extent durMs : Nat)
  | renewal (dest leaseId : Nat)
  | renewalReply (dest leaseId : Nat) (expiry : DWord)
  | renewalRefused (dest leaseId : Nat)
  | recallMsg (dest leaseId : Nat)
  | release (dest leaseId : Nat)
  | releaseAck (dest leaseId : Nat)
  | request (entry : Nat)
  | cancel (entry : Nat)
  | beat (term : Nat) (time : DWord)
  | remoteReq (op acc : Nat) (tag : ReqTag) (fab leaseId : Nat) (owner : Word)
  | hubWatch (op hart : Nat) (tag : ReqTag) (fab : Nat)
  | cellReq (op : Nat) (tag : ReqTag) (fab : Nat) (what : ElectStep) (gen : Nat) (owner : Word)
  | transit (tag : ReqTag) (req : OuterReq)
  | transitReply (tag : ReqTag) (value : BitVec 128) (fault : Option Cause)
  | remoteReply (tag : ReqTag) (value : BitVec 128)
  | remoteFault (tag : ReqTag) (c : Cause)
  | stageFetch (tag : ReqTag) (borrow unit leaseId : Nat)
  | engineWrite (tag : ReqTag) (cmd ix fab leaseId : Nat) (bytes : List Byte)
  | engineRead (tag : ReqTag) (cmd ix fab leaseId len : Nat)
  | codeRead (tag : ReqTag) (fab leaseId : Nat)
  | stageWrite (tag : ReqTag) (borrow unit leaseId : Nat) (bytes : List (Nat × Byte))
  | backInv (dest leaseId unit : Nat)
  | fenceMsg (payload : List Byte)
  | fencedNotice (pkg : Nat)
  | interrupt (addr : DWord) (data : Word)
  | watchMove (dest entry : Nat) (owner : Word)
  | watchFree (dest entry : Nat)
  | hubReply (hart : Nat) (value : BitVec 128)
  | hubFault (hart : Nat) (c : Cause)
  | dmaReply (port : Nat) (value : BitVec 128)
  | dmaFault (port : Nat) (c : Cause)
  | logCopy (r : LogRecord)
  | bootFailure (stage reason : Nat)
  | attestation (bytes : List Byte) (sig : List Byte)
  | debugImage (st : StrandId) (bytes : List Byte) (pending : List Recorded)
  | pod (handle : Nat) (phase : Nat)
  deriving DecidableEq, Repr

/-- A port (15 R391–R393; 01 R16); `buffer` is its replay buffer: the messages that have left and are not yet acknowledged by the
link partner, oldest first, each with its package (01 R11). -/
structure Port where
  fixed : Bool
  rate : Nat
  up : Bool
  retraining : Bool
  replays : List DWord
  attempts : Nat
  retried : Bool
  endpoint : Bool
  peer : Option Nat
  buffer : List (Nat × OutMsg)
  deriving DecidableEq, Repr

/-- An entry of a duplicate filter: the last request taken there, with its reply once it has one (15 R394). -/
structure FilterEntry where
  tag : ReqTag
  home : Nat
  reply : BitVec 128
  fault : Option Cause
  replied : Bool
  deriving DecidableEq, Repr

/-- A request of the package's own agents that waits for another package's answer: when it was last sent, how often it has been
sent again, and whether it is still held for want of a tag (15 R394, R395). -/
structure Awaited where
  dest : Nat
  msg : OutMsg
  sent : DWord
  tries : Nat
  held : Bool
  deriving DecidableEq, Repr

/-- Peers, links and switches (10 R298, 11 R331–R333, 15). `unacked` are posted writes of other packages that the switch has
forwarded and that are not yet answered, each with the package that has to answer; `probed` the external switches that have still to answer PROBE, each with the tick at
which it was sent; `unfit` packages that require a part of CXL that 11 R313 marks "no";
`queued` the messages that have still to leave, in order, each with its package or port (15 R391). -/
structure Links where
  ports : Vector Port 18
  admitted : List Nat
  lostPeers : List Nat
  noRoute : List (Nat × DWord)
  filter : List FilterEntry
  sequence : Tbl Nat
  unacked : List (ReqTag × Nat)
  awaited : List Awaited
  heldFences : List FenceMsg
  forwarded : List FenceMsg
  refusedSwitches : List Nat
  probed : List (Nat × DWord)
  unfit : List Nat
  attempts : Tbl Nat
  queued : List (Nat × OutMsg)
  deriving DecidableEq, Repr

/-- Failures and the areas the hub firmware reserves (15 R372, R373, R384; 16 R417). `logHeld` are the records that wait for room in
the ring, and `logLater` the reports of lost ranges that wait until the firmware holds fewer than 4,096. -/
structure Failure where
  fencedDies : List Nat
  logBase : Nat
  logSize : Nat
  logSeq : Nat
  logHeld : List LogRecord
  logLater : List LogRecord
  logDrop : Nat
  logWp : DWord
  imageBase : Nat
  imageSize : Nat
  drowsy : List (LaneId × Nat)
  deriving DecidableEq, Repr

/-- The shank (13 R342–R345; 01 R17): the profile asked for and the one granted, the last interval's start, and the
intervals of BURST in the last 300 s. -/
structure Power where
  profile : Word
  active : Nat
  lastGrant : DWord
  burstRuns : List (Nat × Nat)
  grant : Word
  therm : Word
  dieGrants : Vector Nat 16
  dieClocks : Vector Nat 16
  throttled : List Nat
  coolantSince : Option DWord
  budgetCut : Nat
  burstBarred : Bool
  deriving DecidableEq, Repr

/-- Start-up and identity (13 R339–R341, 01 R14). -/
structure Boot where
  stage : Nat
  failed : Option Nat
  measures : Vector (BitVec 512) 5
  pkg : Option Nat
  slot : Nat
  config : BootConfig
  armed : List LaneId
  deriving DecidableEq, Repr

/-- The package. `opLog` holds each lane's last 32 writes, newest first (16 R405). `me` is the strand whose fragment `me.cur` has the issue slot; `others` are the other resident strands.
`agenda` lists what the world outside has chosen to come next (log 2): a step of an engine or agent, or `none` for the
fragment that has the issue slot; `outbox` is what was sent out, oldest first;
`fresh` counts the free values drawn (log 1). -/
structure State where
  me : Strand
  others : List Strand
  tick : DWord
  work : Work
  kernel : Kernel
  engines : Engines
  mem : MemSys
  services : List Service
  nextSvc : Nat
  lending : Lending
  links : Links
  failure : Failure
  power : Power
  boot : Boot
  opLog : Tbl (List LogEntry)
  agenda : List (Option Instr)
  outbox : List OutMsg
  fresh : Nat
  deriving DecidableEq, Repr

/-! ### The state right after reset -/

/-- A fragment as a strand enters: the whole mask, at the entry, its header not yet read (02 R23). -/
def Fragment.entry (at_ : BitVec 52) : Fragment :=
  { id := 0, hdr := at_, widx := 0, inClause := false, head := 0, last := [], k := 0, mask := BitVec.allOnes 32, parent := none,
    reconv := 0, wait := .ready, begun := .no, latches := Vector.replicate 4 (.u 0), owed := [], tickCap := none, heldPops := [],
    deadPops := [], tf := none, redo := [], kept := ⟨none, 0, none, []⟩, slot := false, tabled := false }

/-- The exception registers at entry (06 R162, 14 R353). -/
def TrapRegs.zero : TrapRegs :=
  { tvec := 0, tvech := 0, tcause := 0, taddr := 0, taddrh := 0, tepc := 0, tepch := 0, emword := 0, emop := 0,
    emfn := 0, emd := 0, ema := 0, emb := 0, emc := 0, emimm := 0, emclause := 0 }

/-- Nobody's identity. -/
def Identity.blank : Identity :=
  { id := ⟨0, 0⟩, context := 0, sid := 0, blockX := 0, blockY := 0, blockZ := 0, blockIdx := 0, gridX := 0, gridY := 0,
    gridZ := 0, nstrands := 0, params := 0, twin := false }

/-- A strand at its entry into a program (02 R23; 06 R162): registers U zero, predicates zero, one fragment. -/
def Strand.entry (who : Identity) (place : Place) (v g : Nat) (at_ : BitVec 52) : Strand :=
  { who := who, place := place, age := 0, skip := 0, regs := Vector.replicate 64 (.u 0), preds := Vector.replicate 7 0,
    fcr := 0, fflags := 0, ftrapen := 0, lr := 0, role := 0, prio := 0, allotV := v, allotG := g, qstatus := 0, wdl := 0,
    wdlh := 0, psf := 0, psfAddr := 0, psfArg := 0, trap := .zero, handler := none, binds := Vector.replicate 12 none, promises := [],
    completions := [], acks := [], events := [], pushed0 := [], pushed1 := [], pushed2 := [], cur := .entry at_,
    frags := [], nextFrag := 1, serials := [], resident := [], pendingBars := [], laneSize := 0,
    timeSlice := false, evicting := false, checkpointing := false, killing := false, halted := false, reports := [],
    stepping := none, window := [], windowSig := none, windowAt := 0, windowEnd := 0, sharedSeq := 0, writeBack := [] }

/-- No strand: it is nowhere and its one fragment has ended. -/
def noStrand : Strand :=
  { Strand.entry .blank .none 64 64 0 with cur := { Fragment.entry 0 with mask := 0, wait := .ended } }

/-- Address context `n` as it starts: all zero, but context 0 has KCTX = 1 (09 R292). -/
def AddrContext.start (n : Nat) : AddrContext :=
  { rootl := 0, rooth := 0, asn := 0, aplace := 0, bindl := 0, bindh := 0, bindn := 0, winA := Vector.replicate 8 0,
    winB := Vector.replicate 8 0, kctx := if n = 0 then 1 else 0, bindings := [] }

/-- A control context as its program starts (09 R254; 05 R123, R140; log 6). -/
def Control.start : Control :=
  { running := none, tiles := Vector.replicate 32 ⟨0, false⟩, ctiles := Vector.replicate 16 ⟨.openT, none, []⟩,
    hists := Vector.replicate 8 (Vector.replicate 32 0), hoff := Vector.replicate 8 0, mcnan := 0, mcovf := 0, mcsat := 0,
    queue := [], gives := [] }

/-- A free lease entry (11 R315). -/
def Lease.free : Lease := ⟨.free, 0, 0, false, 0, 0, 0, 0⟩

/-- A free borrow entry (11 R317). -/
def Borrow.free : Borrow := ⟨.free, false, 0, 0, 0, 0, 0, 0, Option.none⟩

/-- A hub watch slot that nothing has written (log 5). -/
def HubSlot.zero : HubSlot := ⟨0, 0, 0, 0, 0, 0, 0, none⟩

/-- A launch queue that nothing has written (log 5). -/
def LaunchQueue.zero : LaunchQueue := ⟨0, 0, 0, 0, 0, 0, 0⟩

/-- A port that has not trained (log 7). -/
def Port.untrained : Port := ⟨false, 128, false, false, [], 0, false, false, Option.none, []⟩

/-- The package right after reset (13 R339): no stage has run, every tick counter is 0, nothing is resident and no
memory is listed. -/
def State.reset : State :=
  { me := noStrand, others := [], tick := 0,
    work := { queues := Vector.replicate 16 .zero, lastHandle := 0, rr := 0, opened := false, launches := [],
              acceptCount := 0, device := [], graphRecs := [], graphs := [], replays := [], blocks := [], regions := [],
              gangs := [], ageCount := 0, master := 0, deputy := 1, mirror := [], evicted := [], heldAcks := [], cpUnits := [], contexts := [], generations := [] },
    kernel := { contexts := [], pksel := 0, crdl := 0, crdh := 0, qctx := Vector.replicate 16 0, fqbl := 0, fqbh := 0,
                fqsize := 0, fqprod := 0, fqcons := 0, waitingFaults := [], written := [] },
    engines := { controls := [], copies := [], nears := [], missed := [], undecided := [], eventWait := [], rrQuad := [], noRoom := 0 },
    mem := { bytes := [], parity := [], scratch := [], slices := [], mode := .parity, ops := [], nextOp := 0,
             copies := [], modified := [], points := [], partials := [], docs := [], shared := [], tlb := [], watches := [],
             wsel := Vector.replicate 16 0, hub := [], staged := [], poisoned := [], poisonedScratch := [],
             rebuilds := [], rebuildTicks := [], lostAt := none, settled := false, reserved := [], deltas := [], late := [], hubOwed := [] },
    services := [], nextSvc := 0,
    lending := { leases := [], borrows := [], leaseCount := 0, term := 0, cobbler := none, lastBeat := 0, lastSent := 0,
                 offers := [], requests := [], synced := false, timeSet := false, heldUntil := none, anchors := [], electCell := 0,
                 deadAnchors := [], electing := none },
    links := { ports := Vector.replicate 18 .untrained, admitted := [], lostPeers := [], noRoute := [], filter := [],
               sequence := [], unacked := [], awaited := [], heldFences := [], forwarded := [], refusedSwitches := [], probed := [], unfit := [],
               attempts := [], queued := [] },
    failure := { fencedDies := [], logBase := 0, logSize := 0, logSeq := 0, logHeld := [], logLater := [], logDrop := 0, logWp := 0,
                 imageBase := 0, imageSize := 0, drowsy := [] },
    power := { profile := 0, active := 0, lastGrant := 0, burstRuns := [], grant := 0, therm := 0,
               dieGrants := Vector.replicate 16 0, dieClocks := Vector.replicate 16 0, throttled := [],
               coolantSince := none, budgetCut := 0, burstBarred := false },
    boot := { stage := 0, failed := none, measures := Vector.replicate 5 0, pkg := none, slot := 0, config := ⟨0, false, [], 0⟩, armed := [] },
    opLog := [], agenda := [], outbox := [], fresh := 0 }

end Sys2Proof.Machine
end

