-- ==== Sys2Proof/Machine/Bits.lean ====
section
/-! DEFINITION. Bits, bytes, threads and tables: the small helpers every other file uses, and the two CRCs (16 R413,
R419). -/

namespace Sys2Proof.Machine

/-! ### Bits and bytes -/

/-- Bits `hi..lo` of a number. -/
def field (x hi lo : Nat) : Nat := x / 2 ^ lo % 2 ^ (hi + 1 - lo)

/-- Bit `n` of a number. -/
def bit (x n : Nat) : Bool := x / 2 ^ n % 2 == 1

/-- 1 for true. -/
def flag (b : Bool) : Nat := if b then 1 else 0

/-- The number whose little-endian bytes these are (00 R3). -/
def leNat : List Byte → Nat
  | [] => 0
  | b :: r => b.toNat + 256 * leNat r

/-- The `n` low bytes of a number, little-endian (00 R3). -/
def leBytes : Nat → Nat → List Byte
  | 0, _ => []
  | n + 1, x => BitVec.ofNat 8 x :: leBytes n (x / 256)

/-- `x` read as a signed number of `n` bits. -/
def sgn (n x : Nat) : Int := if x % 2 ^ n < 2 ^ (n - 1) then (x % 2 ^ n : Nat) else (x % 2 ^ n : Nat) - (2 ^ n : Nat)

/-- The low and high words of a pair. -/
def pair (lo hi : Word) : DWord := hi ++ lo

/-- The low word of a 64-bit value. -/
def loW (x : DWord) : Word := x.setWidth 32

/-- The high word of a 64-bit value. -/
def hiW (x : DWord) : Word := (x >>> 32).setWidth 32

/-- The number of ones. -/
def popc (x : Word) : Nat := (List.range 32).foldl (fun n t => n + (if x.getLsbD t then 1 else 0)) 0

/-- `a` rounded up to a multiple of `m`. -/
def roundUp (a m : Nat) : Nat := (a + m - 1) / m * m

/-- Bytewise exclusive-or. -/
def xorBytes : List Byte → List Byte → List Byte
  | a :: r, b :: q => (a ^^^ b) :: xorBytes r q
  | [], q => q
  | r, [] => r

/-! ### Threads -/

/-- The threads of a mask, in ascending order. -/
def threads (m : Mask) : List (Fin 32) := (List.finRange 32).filter (fun t => m.getLsbD t)

/-- The lowest active thread; 0 when there is none (02 R33 leaves no use for it then). -/
def lowest (m : Mask) : Fin 32 := (threads m).headD 0

/-- The highest active thread. -/
def highest (m : Mask) : Fin 32 := (threads m).getLastD 0

/-- The mask of the threads for which `p` holds. -/
def maskOf (p : Fin 32 → Bool) : Mask :=
  (List.finRange 32).foldl (fun m t => if p t then m ||| (BitVec.ofNat 32 (2 ^ t.val)) else m) 0

/-- The mask of one thread. -/
def oneThread (t : Fin 32) : Mask := BitVec.ofNat 32 (2 ^ t.val)

/-! ### Tables -/

/-- The entry of a table at a key. -/
def tget? {α : Type} : Tbl α → Nat → Option α
  | [], _ => none
  | (k, v) :: r, n => if k = n then some v else tget? r n

/-- The entry at a key, or the value of an unlisted key. -/
def tget {α : Type} (t : Tbl α) (d : α) (n : Nat) : α := (tget? t n).getD d

/-- A table with the entry at a key replaced, or taken out. -/
def tset {α : Type} : Tbl α → Nat → Option α → Tbl α
  | [], n, x => match x with
    | some y => [(n, y)]
    | none => []
  | (k, v) :: r, n, x =>
    if n < k then
      match x with
      | some y => (n, y) :: (k, v) :: r
      | none => (k, v) :: r
    else if n = k then
      match x with
      | some y => (n, y) :: r
      | none => r
    else (k, v) :: tset r n x

/-- A table with the value at a key replaced; writing the value `d` of unlisted keys takes the entry out. -/
def tput {α : Type} [DecidableEq α] (t : Tbl α) (d : α) (n : Nat) (v : α) : Tbl α :=
  tset t n (if v = d then none else some v)

/-- Keys strictly rising above `lo`, and no entry equal to `d`. -/
def tblWfFrom {α : Type} [DecidableEq α] (d : α) : Option Nat → Tbl α → Bool
  | _, [] => true
  | lo, (k, v) :: r =>
    (match lo with
     | none => true
     | some m => decide (m < k)) && (!decide (v = d)) && tblWfFrom d (some k) r

/-- The canonical form of a table. -/
def tblWf {α : Type} [DecidableEq α] (d : α) (t : Tbl α) : Bool := tblWfFrom d none t

/-! ### Memory -/

/-- The canonical form of memory: addresses strictly rising, no byte listed that an unlisted address reads as (log 4). -/
abbrev Memory.wf (m : Memory) : Bool := tblWf (0 : Byte) m

/-- One byte. -/
def memByte (m : Memory) (a : Nat) : Byte := tget m 0 a

/-- Memory with one byte written. -/
def memSet (m : Memory) (a : Nat) (b : Byte) : Memory := tput m 0 a b

/-- `n` bytes from `a`. -/
def memRead (m : Memory) : Nat → Nat → List Byte
  | _, 0 => []
  | a, n + 1 => memByte m a :: memRead m (a + 1) n

/-- Memory with bytes written from `a` on. -/
def memWrite (m : Memory) : Nat → List Byte → Memory
  | _, [] => m
  | a, b :: r => memWrite (memSet m a b) (a + 1) r

/-- The number held little-endian in `n` bytes at `a`. -/
def memNat (m : Memory) (a n : Nat) : Nat := leNat (memRead m a n)

/-! ### Lists by position or key -/

/-- A list with its `n`th entry changed. -/
def modNth {α : Type} (f : α → α) : Nat → List α → List α
  | _, [] => []
  | 0, x :: r => f x :: r
  | n + 1, x :: r => x :: modNth f n r

/-- The first entry for which `p` holds changed. -/
def modFirst {α : Type} (p : α → Bool) (f : α → α) : List α → List α
  | [] => []
  | x :: r => if p x then f x :: r else x :: modFirst p f r

/-- A list without the first entry for which `p` holds. -/
def dropFirst {α : Type} (p : α → Bool) : List α → List α
  | [] => []
  | x :: r => if p x then r else x :: dropFirst p r

/-- An entry put into a list before the first one with a greater key. -/
def insertBy {α : Type} (key : α → Nat) (x : α) : List α → List α
  | [] => [x]
  | y :: r => if key x < key y then x :: y :: r else y :: insertBy key x r

/-- The entries in rising order of a key; equal keys keep their order. -/
def sortBy {α : Type} (key : α → Nat) (l : List α) : List α := l.foldl (fun acc x => insertBy key x acc) []

/-- The first entry with the least key. -/
def minBy {α : Type} (key : α → Nat) : List α → Option α
  | [] => none
  | x :: r => match minBy key r with
    | none => some x
    | some y => if key y < key x then some y else some x

/-- A vector with one place written; out of its range nothing is. -/
def vset {α : Type} {n : Nat} (v : Vector α n) (i : Nat) (x : α) : Vector α n :=
  if h : i < n then v.set i x h else v

/-- The entry of a vector, with a value for a place out of its range. -/
def vget {α : Type} {n : Nat} (v : Vector α n) (i : Nat) (d : α) : α := if h : i < n then v[i] else d

/-! ### Cyclic redundancy checks -/

/-- One bit of CRC-64/ECMA-182 (16 R413). -/
def crc64Bit (c : DWord) : DWord := if c.getLsbD 63 then (c <<< 1) ^^^ 0x42F0E1EBA9EA3693#64 else c <<< 1

/-- One byte of CRC-64/ECMA-182: no reflection. -/
def crc64Byte (c : DWord) (b : Byte) : DWord :=
  (List.range 8).foldl (fun c _ => crc64Bit c) (c ^^^ (b.setWidth 64 <<< 56))

/-- CRC-64/ECMA-182 of bytes (16 R413). -/
def crc64 (bs : List Byte) : DWord := bs.foldl crc64Byte 0

/-- One bit of CRC-32C in reflected form (16 R419). -/
def crc32cBit (c : Word) : Word := if c.getLsbD 0 then (c >>> 1) ^^^ 0x82F63B78#32 else c >>> 1

/-- One byte of CRC-32C. -/
def crc32cByte (c : Word) (b : Byte) : Word :=
  (List.range 8).foldl (fun c _ => crc32cBit c) (c ^^^ b.setWidth 32)

/-- CRC-32C of bytes (16 R419). -/
def crc32c (bs : List Byte) : Word := bs.foldl crc32cByte 0xFFFFFFFF#32 ^^^ 0xFFFFFFFF#32

end Sys2Proof.Machine
end

