-- ==== Sys2Proof/Machine/Flags.lean ====
section
/-! DEFINITION. The floating-point flags (05 R124, R125): what an operation raises and how it is merged into `fflags`. -/

namespace Sys2Proof.Machine

/-- The flags an operation raises (05 R124). -/
structure FlagSet where
  sat : Bool := false
  nv : Bool := false
  dz : Bool := false
  ovf : Bool := false
  uf : Bool := false
  nx : Bool := false
  deriving DecidableEq, Repr

/-- No flag. -/
def noFlags : FlagSet := {}

/-- The flags of two operations merged (05 R129). -/
def FlagSet.join (x y : FlagSet) : FlagSet :=
  { sat := x.sat || y.sat, nv := x.nv || y.nv, dz := x.dz || y.dz, ovf := x.ovf || y.ovf, uf := x.uf || y.uf,
    nx := x.nx || y.nx }

/-- The layout of `fflags` (05 R124). -/
def FlagSet.word (x : FlagSet) : Word :=
  BitVec.ofNat 32 (32 * flag x.sat + 16 * flag x.nv + 8 * flag x.dz + 4 * flag x.ovf + 2 * flag x.uf + flag x.nx)

/-- Flags ORed into the sticky set of the executing strand (05 R129). -/
def raiseFlags (f : FlagSet) (s : State) : State := { s with me := { s.me with fflags := s.me.fflags ||| f.word } }

/-- The flags that trap: `fflags` AND `ftrapen` (14 R360). -/
def trapFlags (st : Strand) : Word := st.fflags &&& st.ftrapen

/-- RM of `fcr` (05 R124). -/
def rmOf (fcr : Word) : RMode :=
  match (fcr.toNat % 4) with
  | 0 => .ne
  | 1 => .z
  | 2 => .dn
  | _ => .up

/-- FTZ of `fcr` (05 R124). -/
def ftzOf (fcr : Word) : Bool := fcr.getLsbD 2

end Sys2Proof.Machine
end

