-- ==== Sys2Proof/Machine/Num.lean ====
section
/-! DEFINITION. Number formats and exact arithmetic (05 R110–R131; 07 R183–R192): a value is decoded to an exact rational,
computed with exactly, and rounded once. -/

namespace Sys2Proof.Machine

/-- An exact value: `fin neg n d` is (−1)^neg × n / d with `d` positive; zero keeps its sign. -/
inductive FV where
  | nan
  | inf (neg : Bool)
  | fin (neg : Bool) (n d : Nat)
  deriving DecidableEq, Repr

/-- A binary format: exponent bits, fraction bits, bias; whether its top exponent holds Inf and NaN as in IEEE 754; the
largest exponent field of a finite value and the largest fraction there (05 R113). -/
structure BinFmt where
  eb : Nat
  m : Nat
  bias : Nat
  ieee : Bool
  topE : Nat
  topF : Nat
  nan : Nat
  deriving DecidableEq, Repr

/-- The formats of 05 R113 and the accumulator format of R121. -/
def fE5M2 : BinFmt := ⟨5, 2, 15, true, 30, 3, 0x7E⟩
/-- E4M3: exponent 15 with fraction 7 is NaN, no Inf. -/
def fE4M3 : BinFmt := ⟨4, 3, 7, false, 15, 6, 0x7F⟩
/-- E3M2: every encoding is finite. -/
def fE3M2 : BinFmt := ⟨3, 2, 3, false, 7, 3, 0⟩
/-- E2M3: every encoding is finite. -/
def fE2M3 : BinFmt := ⟨2, 3, 1, false, 3, 7, 0⟩
/-- E2M1: every encoding is finite. -/
def fE2M1 : BinFmt := ⟨2, 1, 1, false, 3, 1, 0⟩
/-- FP16. -/
def fF16 : BinFmt := ⟨5, 10, 15, true, 30, 1023, 0x7E00⟩
/-- BF16. -/
def fBF16 : BinFmt := ⟨8, 7, 127, true, 254, 127, 0x7FC0⟩
/-- FP32. -/
def fF32 : BinFmt := ⟨8, 23, 127, true, 254, 2 ^ 23 - 1, 0x7FC00000⟩
/-- FP64. -/
def fF64 : BinFmt := ⟨11, 52, 1023, true, 2046, 2 ^ 52 - 1, 0x7FF8000000000000⟩
/-- ACC40. -/
def fACC : BinFmt := ⟨10, 29, 511, true, 1022, 2 ^ 29 - 1, 0x7FF0000000⟩

/-- 2^k for an integer k, as a numerator and a denominator. -/
def pow2 (k : Int) : Nat × Nat := if 0 ≤ k then (2 ^ k.toNat, 1) else (1, 2 ^ (-k).toNat)

/-- 10^k for an integer k. -/
def pow10 (k : Int) : Nat × Nat := if 0 ≤ k then (10 ^ k.toNat, 1) else (1, 10 ^ (-k).toNat)

/-- A pattern of a binary format as an exact value (05 R113). -/
def decodeBin (f : BinFmt) (x : Nat) : FV :=
  let frac := x % 2 ^ f.m
  let e := x / 2 ^ f.m % 2 ^ f.eb
  let neg := bit x (f.m + f.eb)
  if f.ieee && e == 2 ^ f.eb - 1 then (if frac = 0 then .inf neg else .nan)
  else if f.topE < e || (e == f.topE && decide (f.topF < frac)) then .nan
  else if e = 0 then
    let p := pow2 (1 - (f.bias : Int) - f.m)
    .fin neg (frac * p.1) p.2
  else
    let p := pow2 ((e : Int) - f.bias - f.m)
    .fin neg ((2 ^ f.m + frac) * p.1) p.2

/-- Whether a pattern is subnormal. -/
def isSubnormal (f : BinFmt) (x : Nat) : Bool := x / 2 ^ f.m % 2 ^ f.eb == 0 && x % 2 ^ f.m != 0

/-- The sign bit of a format. -/
def signBit (f : BinFmt) (neg : Bool) : Nat := if neg then 2 ^ (f.m + f.eb) else 0

/-- The greatest `e` with 2^e ≤ n / d. -/
def floorLog2 (n d : Nat) : Int :=
  let e : Int := (Nat.log2 n : Int) - Nat.log2 d
  let p := pow2 e
  if p.1 * d ≤ n * p.2 then e else e - 1

/-- n / d rounded to an integer magnitude, and whether it was inexact. -/
def roundMag (rm : RMode) (neg : Bool) (n d : Nat) : Nat × Bool :=
  let q := n / d
  let r := n % d
  let up : Bool := match rm with
    | .ne => decide (d < 2 * r) || (2 * r == d && q % 2 == 1)
    | .z => false
    | .dn => neg && r != 0
    | .up => !neg && r != 0
  (if up then q + 1 else q, r != 0)

/-- The result of an overflow (05 R125). -/
def overflowTo (f : BinFmt) (rm : RMode) (neg : Bool) : Nat :=
  let big := f.topE * 2 ^ f.m + f.topF
  let infinite : Bool := match rm with
    | .ne => true
    | .z => false
    | .dn => neg
    | .up => !neg
  signBit f neg + (if infinite then (2 ^ f.eb - 1) * 2 ^ f.m else big)

/-- A finite magnitude rounded into a binary format under a mode, with OF, UF and NX (05 R125). -/
def roundBin (f : BinFmt) (rm : RMode) (neg : Bool) (n d : Nat) : Nat × FlagSet :=
  if n = 0 then (signBit f neg, noFlags)
  else
    let emin : Int := 1 - (f.bias : Int)
    let e := max (floorLog2 n d) emin
    let p := pow2 (e - f.m)
    let (q, inx) := roundMag rm neg (n * p.2) (d * p.1)
    let (q, e) := if q = 2 ^ (f.m + 1) then (2 ^ f.m, e + 1) else (q, e)
    let ef : Int := if q < 2 ^ f.m then 0 else e + f.bias
    if (f.topE : Int) < ef then (overflowTo f rm neg, { ovf := true, nx := true })
    else (signBit f neg + ef.toNat * 2 ^ f.m + q % 2 ^ f.m, { nx := inx, uf := inx && ef == 0 })

/-- Whether n1/d1 is greater than n2/d2. -/
def ratGt (n1 d1 n2 d2 : Nat) : Bool := decide (n2 * d1 < n1 * d2)

/-- An exact value rounded into an IEEE-like format: NaN is canonical, Inf stays (05 R114, R125). -/
def roundTo (f : BinFmt) (rm : RMode) : FV → Nat × FlagSet
  | .nan => (f.nan, noFlags)
  | .inf neg => (signBit f neg + (2 ^ f.eb - 1) * 2 ^ f.m, noFlags)
  | .fin neg n d => roundBin f rm neg n d

/-- FTZ on a result of FP32, FP16 or BF16 (05 R127). -/
def flushResult (f : BinFmt) (ftz : Bool) (r : Nat × FlagSet) : Nat × FlagSet :=
  if ftz && isSubnormal f r.1 then (signBit f (bit r.1 (f.m + f.eb)), { r.2 with uf := true, nx := true }) else r

/-- FTZ on an operand (05 R127). -/
def flushOperand (f : BinFmt) (ftz : Bool) (x : Nat) : Nat :=
  if ftz && isSubnormal f x then signBit f (bit x (f.m + f.eb)) else x

/-- An operand that an instruction passes on as its result: flushed, and a NaN as the canonical one (05 R114, R127). -/
def passOn (f : BinFmt) (ftz : Bool) (x : Nat) : Nat :=
  match decodeBin f x with
  | .nan => f.nan
  | _ => flushOperand f ftz x

/-! ### Exact arithmetic -/

/-- The value with its sign changed. -/
def FV.neg : FV → FV
  | .nan => .nan
  | .inf s => .inf (!s)
  | .fin s n d => .fin (!s) n d

/-- The magnitude. -/
def FV.abs : FV → FV
  | .nan => .nan
  | .inf _ => .inf false
  | .fin _ n d => .fin false n d

/-- Whether it is NaN. -/
def FV.isNan : FV → Bool
  | .nan => true
  | _ => false

/-- Whether it is zero. -/
def FV.isZero : FV → Bool
  | .fin _ 0 _ => true
  | _ => false

/-- The sign, true for negative. -/
def FV.sign : FV → Bool
  | .nan => false
  | .inf s => s
  | .fin s _ _ => s

/-- The exact product; 0 × Inf is NaN. -/
def FV.mul : FV → FV → FV
  | .nan, _ => .nan
  | _, .nan => .nan
  | .inf s, .inf t => .inf (s != t)
  | .inf s, .fin t n _ => if n = 0 then .nan else .inf (s != t)
  | .fin s n _, .inf t => if n = 0 then .nan else .inf (s != t)
  | .fin s n d, .fin t m e => .fin (s != t) (n * m) (d * e)

/-- The exact sum; `zneg` is the sign of an exact zero sum of terms that are not both −0 or both +0. -/
def FV.add (zneg : Bool) : FV → FV → FV
  | .nan, _ => .nan
  | _, .nan => .nan
  | .inf s, .inf t => if s = t then .inf s else .nan
  | .inf s, .fin _ _ _ => .inf s
  | .fin _ _ _, .inf t => .inf t
  | .fin s n d, .fin t m e =>
    let x := n * e
    let y := m * d
    if s = t then .fin s (x + y) (d * e)
    else if x = y then .fin zneg 0 1
    else if y < x then .fin s (x - y) (d * e)
    else .fin t (y - x) (d * e)

/-- `a < b` on numbers; −0 equals +0. -/
def FV.lt : FV → FV → Bool
  | .nan, _ => false
  | _, .nan => false
  | .inf s, .inf t => s && !t
  | .inf s, .fin _ _ _ => s
  | .fin _ _ _, .inf t => !t
  | .fin s n d, .fin t m e =>
    if n = 0 && m = 0 then false
    else match s, t with
      | false, false => decide (n * e < m * d)
      | true, true => decide (m * d < n * e)
      | true, false => true
      | false, true => false

/-- `a = b` on numbers; −0 equals +0. -/
def FV.eq (a b : FV) : Bool := !a.isNan && !b.isNan && !FV.lt a b && !FV.lt b a

/-- NV of an operation: a NaN from operands that are none (05 R125). -/
def nvOf (r : FV) (ops : List FV) : FlagSet := { nv := r.isNan && ops.all (fun x => !x.isNan) }

/-- An exact result rounded, with its flags and the flush of results. -/
def finish (f : BinFmt) (rm : RMode) (ftz : Bool) (r : FV) (ops : List FV) : Nat × FlagSet :=
  let y := flushResult f ftz (roundTo f rm r)
  (y.1, y.2.join (nvOf r ops))

/-- The sign of an exact zero sum under a mode (07 R184). -/
def zeroSign (rm : RMode) : Bool := rm == .dn

/-! ### Operations of majors 0x10–0x14, 0x19, 0x1A on one format -/

/-- `fadd` (07 R183). -/
def fpAdd (f : BinFmt) (rm : RMode) (ftz : Bool) (a b : Nat) : Nat × FlagSet :=
  let x := decodeBin f (flushOperand f ftz a)
  let y := decodeBin f (flushOperand f ftz b)
  finish f rm ftz (FV.add (zeroSign rm) x y) [x, y]

/-- `fsub`. -/
def fpSub (f : BinFmt) (rm : RMode) (ftz : Bool) (a b : Nat) : Nat × FlagSet :=
  let x := decodeBin f (flushOperand f ftz a)
  let y := (decodeBin f (flushOperand f ftz b)).neg
  finish f rm ftz (FV.add (zeroSign rm) x y) [x, y]

/-- `fmul`. -/
def fpMul (f : BinFmt) (rm : RMode) (ftz : Bool) (a b : Nat) : Nat × FlagSet :=
  let x := decodeBin f (flushOperand f ftz a)
  let y := decodeBin f (flushOperand f ftz b)
  finish f rm ftz (FV.mul x y) [x, y]

/-- `fabsd`: the magnitude of the difference, rounded once. -/
def fpAbsd (f : BinFmt) (rm : RMode) (ftz : Bool) (a b : Nat) : Nat × FlagSet :=
  let x := decodeBin f (flushOperand f ftz a)
  let y := (decodeBin f (flushOperand f ftz b)).neg
  finish f rm ftz (FV.add false x y).abs [x, y]

/-- Fused a × b + c with one rounding (07 R184). -/
def fpFma (f : BinFmt) (rm : RMode) (ftz : Bool) (a b c : Nat) : Nat × FlagSet :=
  let x := decodeBin f (flushOperand f ftz a)
  let y := decodeBin f (flushOperand f ftz b)
  let z := decodeBin f (flushOperand f ftz c)
  let p := FV.mul x y
  if p.isNan && !x.isNan && !y.isNan then (f.nan, { nv := true })
  else finish f rm ftz (FV.add (zeroSign rm) p z) [x, y, z]

/-- `fscale`: a × 2^k; k is limited to where every further power rounds alike. -/
def fpScale (f : BinFmt) (rm : RMode) (ftz : Bool) (a : Nat) (k : Int) : Nat × FlagSet :=
  let x := decodeBin f (flushOperand f ftz a)
  let p := pow2 (max (-2000) (min 2000 k))
  let r := match x with
    | .fin s n d => FV.fin s (n * p.1) (d * p.2)
    | y => y
  finish f rm ftz r [x]

/-- `fmin` (05 R128): −0 below +0, a NaN gives the other operand. -/
def fpMin (f : BinFmt) (ftz : Bool) (a b : Nat) : Nat :=
  let a := flushOperand f ftz a
  let b := flushOperand f ftz b
  let x := decodeBin f a
  let y := decodeBin f b
  if x.isNan then (if y.isNan then f.nan else b)
  else if y.isNan then a
  else if FV.lt x y then a
  else if FV.lt y x then b
  else if x.sign then a else b

/-- `fmax` (05 R128). -/
def fpMax (f : BinFmt) (ftz : Bool) (a b : Nat) : Nat :=
  let a := flushOperand f ftz a
  let b := flushOperand f ftz b
  let x := decodeBin f a
  let y := decodeBin f b
  if x.isNan then (if y.isNan then f.nan else b)
  else if y.isNan then a
  else if FV.lt x y then b
  else if FV.lt y x then a
  else if x.sign then b else a

/-- `fcopysign`: only the sign bit changes (05 R114). -/
def fpCopysign (f : BinFmt) (a b : Nat) : Nat := a % 2 ^ (f.m + f.eb) + signBit f (bit b (f.m + f.eb))

/-- A condition of `fcmp` (07 R187). -/
def fpCond (c : FCond) (x y : FV) : Bool :=
  let uno := x.isNan || y.isNan
  match c with
  | .eq => FV.eq x y
  | .ne => !FV.eq x y
  | .lt => FV.lt x y
  | .le => FV.lt x y || FV.eq x y
  | .gt => FV.lt y x
  | .ge => FV.lt y x || FV.eq x y
  | .ord => !uno
  | .uno => uno

/-! ### Decimal-marker formats -/

/-- The body width of a DM format (05 R115). -/
def dmWidth : Fmt → Nat
  | .dm8 => 7
  | .dm6 => 5
  | _ => 3

/-- The magnitude of a DM body of `w` bits that is neither all zeros nor the marker alone, as n / d (05 R115). -/
def dmMag (w body : Nat) : Nat × Nat :=
  let top := Nat.log2 body
  let z := w - 1 - top
  let g := bit body (top - 1)
  let fb := top - 1
  let frac := body % 2 ^ fb
  let e : Int := if g then -((z : Int) + 1) else z
  let p := pow10 e
  ((2 ^ fb + 9 * frac) * p.1, 2 ^ fb * p.2)

/-- A DM pattern as an exact value (05 R115–R118). -/
def decodeDm (w x : Nat) : FV :=
  let body := x % 2 ^ w
  let neg := bit x w
  if body = 0 then (if neg then .nan else .fin false 0 1)
  else if body = 1 then .inf neg
  else let m := dmMag w body; .fin neg m.1 m.2

/-- The finite positive bodies of a DM format. -/
def dmBodies (w : Nat) : List Nat := (List.range (2 ^ w)).filter (fun b => 2 ≤ b)

/-- The body of the greatest value not above n / d (0 for zero), and its magnitude. -/
def dmBelow (w n d : Nat) : Nat × Nat × Nat :=
  (dmBodies w).foldl (fun best b =>
    let m := dmMag w b
    if !ratGt m.1 m.2 n d && ratGt m.1 m.2 best.2.1 best.2.2 then (b, m.1, m.2) else best) (0, 0, 1)

/-- The body of the least value not below n / d, if there is one. -/
def dmAbove (w n d : Nat) : Option (Nat × Nat × Nat) :=
  (dmBodies w).foldl (fun best b =>
    let m := dmMag w b
    if ratGt n d m.1 m.2 then best
    else match best with
      | none => some (b, m.1, m.2)
      | some (_, p, q) => if ratGt p q m.1 m.2 then some (b, m.1, m.2) else best) none

/-- A finite value rounded into a DM format (05 R119, R126): greater values saturate, zero is +0. -/
def roundDm (w : Nat) (rm : RMode) (neg : Bool) (n d : Nat) : Nat × FlagSet :=
  let sg := if neg then 2 ^ w else 0
  if n = 0 then (0, noFlags)
  else match dmAbove w n d with
    | none => (sg + (dmBelow w n d).1, { sat := true, nx := true })
    | some (bh, nh, dh) =>
      let (bl, nl, dl) := dmBelow w n d
      if bl = bh then (sg + bl, noFlags)
      else
        let up : Bool := match rm with
          | .ne =>
            -- the tie point is (lo + hi) / 2
            let tn := nl * dh + nh * dl
            let td := 2 * dl * dh
            ratGt n d tn td || (n * td == tn * d && bl % 2 == 1)
          | .z => false
          | .dn => neg
          | .up => !neg
        let b := if up then bh else bl
        (if b = 0 then 0 else sg + b, { nx := true, uf := b == 0 })

/-! ### Conversions -/

/-- The binary format of a code, for the codes that have one. -/
def binFmt? : Fmt → Option BinFmt
  | .e5m2 => some fE5M2
  | .e4m3 => some fE4M3
  | .e3m2 => some fE3M2
  | .e2m3 => some fE2M3
  | .e2m1 => some fE2M1
  | .f16 => some fF16
  | .bf16 => some fBF16
  | .f32 => some fF32
  | .acc => some fACC
  | _ => none

/-- The width of an element (05 R110). -/
def fmtBits : Fmt → Nat
  | .dm8 | .e5m2 | .e4m3 | .i8 | .n8 => 8
  | .dm6 | .e3m2 | .e2m3 => 6
  | .dm4 | .e2m1 | .i4 => 4
  | .f16 | .bf16 => 16
  | .f32 => 32
  | .acc => 40

/-- Whether a code is a decimal-marker format. -/
def Fmt.isDm : Fmt → Bool
  | .dm8 | .dm6 | .dm4 => true
  | _ => false

/-- An integer as an exact value. -/
def fvOfInt (i : Int) : FV := .fin (decide (i < 0)) i.natAbs 1

/-- A pattern of any operand format as an exact value. -/
def decodeFmt (f : Fmt) (x : Nat) : FV :=
  match f with
  | .dm8 | .dm6 | .dm4 => decodeDm (dmWidth f) x
  | .i8 => fvOfInt (sgn 8 x)
  | .n8 => fvOfInt (x % 256)
  | .i4 => fvOfInt (sgn 4 x)
  | f => match binFmt? f with
    | some b => decodeBin b x
    | none => .nan

/-- The bounds of an integer target (05 R120). -/
def intBounds : Fmt → Int × Int
  | .i8 => (-128, 127)
  | .n8 => (0, 255)
  | _ => (-8, 7)

/-- An exact value rounded into an integer of `[lo, hi]` (05 R126): NaN gives 0 with NV, out of range the bound. -/
def toInteger (rm : RMode) (lo hi : Int) : FV → Int × FlagSet
  | .nan => (0, { nv := true })
  | .inf neg => (if neg then lo else hi, { sat := true, nx := true })
  | .fin neg n d =>
    let (q, inx) := roundMag rm neg n d
    let i : Int := if neg then -(q : Int) else q
    if i < lo then (lo, { sat := true, nx := true })
    else if hi < i then (hi, { sat := true, nx := true })
    else (i, { nx := inx })

/-- The low bits of an integer. -/
def intBits (n : Nat) (i : Int) : Nat := (i % (2 ^ n : Nat)).toNat

/-- A conversion of an exact value into a target format (05 R126), FTZ on the FP targets (R127). -/
def convertTo (f : Fmt) (rm : RMode) (ftz : Bool) (x : FV) : Nat × FlagSet :=
  match f with
  | .dm8 | .dm6 | .dm4 =>
    let w := dmWidth f
    match x with
    | .nan => (2 ^ w, noFlags)
    | .inf neg => ((if neg then 2 ^ w else 0) + 1, noFlags)
    | .fin neg n d => roundDm w rm neg n d
  | .i8 | .n8 | .i4 =>
    let b := intBounds f
    let r := toInteger rm b.1 b.2 x
    (intBits (fmtBits f) r.1, r.2)
  | .e5m2 | .e4m3 | .e3m2 | .e2m3 | .e2m1 =>
    match binFmt? f with
    | none => (0, noFlags)
    | some b =>
      let big := b.topE * 2 ^ b.m + b.topF
      match x with
      | .nan => if b.nan = 0 then (0, { nv := true }) else (b.nan, noFlags)
      | .inf neg =>
        if b.ieee then (signBit b neg + (2 ^ b.eb - 1) * 2 ^ b.m, noFlags)
        else (signBit b neg + big, { sat := true, nx := true })
      | .fin neg n d =>
        match decodeBin b big with
        | .fin _ bn bd =>
          if ratGt n d bn bd then (signBit b neg + big, { sat := true, nx := true }) else roundBin b rm neg n d
        | _ => (0, noFlags)
  | f => match binFmt? f with
    | some b => flushResult b ftz (roundTo b rm x)
    | none => (0, noFlags)

/-- Whether FTZ reads operands of a format flushed (05 R127). -/
def flushes : Fmt → Bool
  | .f32 | .f16 | .bf16 => true
  | _ => false

/-- A source element as an exact value, FTZ on the FP sources (05 R127). -/
def sourceFmt (f : Fmt) (ftz : Bool) (x : Nat) : FV :=
  match binFmt? f with
  | some b => decodeFmt f (if flushes f then flushOperand b ftz x else x)
  | none => decodeFmt f x

/-! ### Major 0x14 -/

/-- The integer square root of `n` by its bits, from 2^k down. -/
def isqrtFrom (n : Nat) : Nat → Nat → Nat
  | 0, r => if (r + 1) * (r + 1) ≤ n then r + 1 else r
  | k + 1, r => isqrtFrom n k (if (r + 2 ^ (k + 1)) * (r + 2 ^ (k + 1)) ≤ n then r + 2 ^ (k + 1) else r)

/-- The integer square root of a number below 2^256. -/
def isqrt (n : Nat) : Nat := isqrtFrom n 127 0

/-- √(n / d) in FP32 under a mode, for n / d whose root is a normal number. -/
def rootF32 (rm : RMode) (n d : Nat) : Nat × FlagSet :=
  -- the exponent of the root is half of that of the operand, rounded down
  let e : Int := floorLog2 n d / 2
  let p := pow2 (2 * (e - 23))
  let num := n * p.2
  let den := d * p.1
  let q := isqrt (num / den)
  let exact := q * q * den == num
  -- (2q + 1)² / 4 against num / den: never equal, so there is no tie
  let half := decide ((2 * q + 1) * (2 * q + 1) * den < 4 * num)
  let up : Bool := match rm with
    | .ne => half
    | .up => !exact
    | _ => false
  let q := if up then q + 1 else q
  let (q, e) := if q = 2 ^ 24 then (2 ^ 23, e + 1) else (q, e)
  (((e + 127).toNat) * 2 ^ 23 + q % 2 ^ 23, { nx := !exact })

/-- `frcp` (07 R185). -/
def fpRcp (rm : RMode) (ftz : Bool) (a : Nat) : Nat × FlagSet :=
  match decodeBin fF32 (flushOperand fF32 ftz a) with
  | .nan => (fF32.nan, noFlags)
  | .inf neg => (signBit fF32 neg, noFlags)
  | .fin neg n d =>
    if n = 0 then (signBit fF32 neg + 0x7F800000, { dz := true })
    else flushResult fF32 ftz (roundBin fF32 rm neg d n)

/-- `fsqrt` (07 R185). -/
def fpSqrt (rm : RMode) (ftz : Bool) (a : Nat) : Nat × FlagSet :=
  match decodeBin fF32 (flushOperand fF32 ftz a) with
  | .nan => (fF32.nan, noFlags)
  | .inf neg => if neg then (fF32.nan, { nv := true }) else (0x7F800000, noFlags)
  | .fin neg n d =>
    if n = 0 then (signBit fF32 neg, noFlags)
    else if neg then (fF32.nan, { nv := true })
    else rootF32 rm n d

/-! ### The exact values of the approximated functions (07 R185; log 8)

Fixed point with 128 fraction bits: the sums below are within 2^-100 of the exact values. Where the exact value lies nearer than
that to an FP32 value, near an operand of 0, the series of the function stands for it. -/

/-- One, in fixed point. -/
def fixOne : Nat := 2 ^ 128

/-- ln 2, in fixed point. -/
def fixLn2 : Nat := 0xB17217F7D1CF79ABC9E3B39803F2F6AF

/-- π / 2, in fixed point. -/
def fixHalfPi : Nat := 0x1921FB54442D18469898CC51701B839A2

/-- The terms of e^r from `t` = r^k / k! on. -/
def expTerms (r : Nat) : Nat → Nat → Nat → Nat
  | 0, _, _ => 0
  | n + 1, k, t => t + expTerms r n (k + 1) (t * r / fixOne / (k + 1))

/-- e^r for 0 ≤ r < 1. -/
def fixExp (r : Nat) : Nat := expTerms r 40 0 fixOne

/-- The terms of the inverse hyperbolic tangent from `t` = z^k on; `z2` is z². -/
def atanhTerms (z2 : Nat) : Nat → Nat → Nat → Nat
  | 0, _, _ => 0
  | n + 1, k, t => t / k + atanhTerms z2 n (k + 2) (t * z2 / fixOne)

/-- The alternating terms of sine and cosine from `t` = r^k / k! on; `r2` is r². -/
def trigTerms (r2 : Nat) : Nat → Nat → Nat → Int
  | 0, _, _ => 0
  | n + 1, k, t => (t : Int) - trigTerms r2 n (k + 2) (t * r2 / fixOne / ((k + 1) * (k + 2)))

/-- e^(−n/d) for n/d below 256, as a fraction. -/
def expNeg (n d : Nat) : Nat × Nat :=
  let y := n * fixOne / d
  let q := y / fixLn2
  (fixOne * fixOne / fixExp (y - q * fixLn2), fixOne * 2 ^ q)

/-- The place of an FP32 pattern among all of them in rising order, −0 below +0. -/
def ordOf (b : Nat) : Int := if b < 2 ^ 31 then b else -1 - ((b - 2 ^ 31 : Nat) : Int)

/-- The pattern at a place. -/
def ofOrd (i : Int) : Nat := if 0 ≤ i then i.toNat else 2 ^ 31 + (-1 - i).toNat

/-- A free FP32 pattern among those from `lo` / `d` to `hi` / `d`, turned in sign with `neg`. -/
def within (free : Nat) (neg : Bool) (lo hi : Int) (d : Nat) : Nat :=
  let a := ordOf (roundBin fF32 .up (decide (lo < 0)) lo.natAbs d).1
  let b := ordOf (roundBin fF32 .dn (decide (hi < 0)) hi.natAbs d).1
  let i := a + ((free % ((b - a).toNat + 1) : Nat) : Int)
  ofOrd (if neg then -1 - i else i)

/-- A free FP32 pattern within 2 ulp of n / d, turned in sign with `neg`. An ulp is that of the binade of n / d (log 8). -/
def withinTwoUlp (free : Nat) (neg : Bool) (n d : Nat) : Nat :=
  let u := pow2 ((if n = 0 then -126 else max (floorLog2 n d) (-126)) - 23)
  let c : Nat := n * u.2
  let t : Nat := 2 * u.1 * d
  within free neg ((c : Int) - (t : Int)) ((c + t : Nat) : Int) (d * u.2)

/-- One of the two FP32 patterns that bound a positive value between lo / d and hi / d. -/
def boundingOne (free : Nat) (lo hi d : Nat) : Nat :=
  if bit free 0 then (roundBin fF32 .up false hi d).1 else (roundBin fF32 .dn false lo d).1

/-- The flags of an inexact finite result of an approximated function: NX, and UF for zero or a subnormal one (05 R125). -/
def approxFlags (r : Nat) : FlagSet := { nx := true, uf := r % 2 ^ 31 == 0 || isSubnormal fF32 r }

/-- `frsq`: one of the two FP32 values that bound 1/√a, exact where R185 says so (log 8). -/
def fpRsq (ftz : Bool) (a : Nat) : Nat × FlagSet :=
  let x := flushOperand fF32 ftz a
  match decodeBin fF32 x with
  | .nan => (fF32.nan, noFlags)
  | .inf neg => if neg then (fF32.nan, { nv := true }) else (0, noFlags)
  | .fin neg n d =>
    if n = 0 then (signBit fF32 neg + 0x7F800000, { dz := true })
    else if neg then (fF32.nan, { nv := true })
    else
      let lo := rootF32 .dn d n
      if !lo.2.nx then (lo.1, noFlags)
      else
        let hi := rootF32 .up d n
        (if (Config.approx .rsq (BitVec.ofNat 32 x)).getLsbD 0 then hi.1 else lo.1, { nx := true })

/-- An integer as FP32; exact for the small ones used here. -/
def f32OfInt (i : Int) : Nat := (roundTo fF32 .ne (fvOfInt i)).1

/-- Whether n / d is an integer. -/
def isIntegral (n d : Nat) : Bool := n % d == 0

/-- ⌊x⌋ of an exact finite value. -/
def floorInt (neg : Bool) (n d : Nat) : Int := if neg then -(((n + d - 1) / d : Nat) : Int) else ((n / d : Nat) : Int)

/-- x − ⌊x⌋, times `d`. -/
def fractNum (neg : Bool) (n d : Nat) : Nat := if neg && n % d != 0 then d - n % d else n % d

/-- `fexp2`: one of the two FP32 values that bound 2^a, exact for an integer operand. A result beyond FP32 at the low end begins
at a = -150, and between -150 and -149 both bounding values, +0 and 2^-149, are admitted (log 8). -/
def fpExp2 (ftz : Bool) (a : Nat) : Nat × FlagSet :=
  let x := flushOperand fF32 ftz a
  let free := (Config.approx .exp2 (BitVec.ofNat 32 x)).toNat
  match decodeBin fF32 x with
  | .nan => (fF32.nan, noFlags)
  | .inf neg => (if neg then 0 else 0x7F800000, noFlags)
  | .fin neg n d =>
    let k := floorInt neg n d
    if 128 ≤ k then (0x7F800000, { ovf := true, nx := true })
    else if k < -150 || (k == -150 && isIntegral n d) then (0, { uf := true, nx := true })
    else
      let p := pow2 k
      if isIntegral n d then flushResult fF32 ftz ((roundBin fF32 .dn false p.1 p.2).1, noFlags)
      else
        let e := fixExp (fractNum neg n d * fixOne / d * fixLn2 / fixOne)
        let r := boundingOne free (max fixOne (e - 2 ^ 20) * p.1) (min (2 * fixOne) (e + 2 ^ 20) * p.1) (fixOne * p.2)
        flushResult fF32 ftz (r, approxFlags r)

/-- `flog2`: one of the two FP32 values that bound log2 a, exact for a power of two (log 8). -/
def fpLog2 (ftz : Bool) (a : Nat) : Nat × FlagSet :=
  let x := flushOperand fF32 ftz a
  let free := (Config.approx .log2 (BitVec.ofNat 32 x)).toNat
  match decodeBin fF32 x with
  | .nan => (fF32.nan, noFlags)
  | .inf neg => if neg then (fF32.nan, { nv := true }) else (0x7F800000, noFlags)
  | .fin neg n d =>
    if n = 0 then (0xFF800000, { dz := true })
    else if neg then (fF32.nan, { nv := true })
    else
      let k := floorLog2 n d
      let p := pow2 k
      let u := n * p.2
      let v := d * p.1
      if u = v then (f32OfInt k, noFlags)
      else
        let z := (u - v) * fixOne / (u + v)
        let l : Int := k * (fixOne : Int) + ((2 * atanhTerms (z * z / fixOne) 44 1 z * fixOne / fixLn2 : Nat) : Int)
        let r : Nat := signBit fF32 (decide (l < 0)) + boundingOne free (l.natAbs - 2 ^ 20) (l.natAbs + 2 ^ 20) fixOne
        flushResult fF32 ftz (r, approxFlags r)

/-- Sine or cosine of n / d up to 2^20, in fixed point. -/
def fixTrig (cos : Bool) (n d : Nat) : Int :=
  let x := n * fixOne / d
  let q := x / fixHalfPi
  let r := x - q * fixHalfPi
  let r2 := r * r / fixOne
  let v := if (q % 2 == 1) != cos then trigTerms r2 24 0 fixOne else trigTerms r2 24 1 r
  let turned := if cos then q % 4 == 1 || q % 4 == 2 else 2 ≤ q % 4
  if turned then -v else v

/-- `fsin` and `fcos`: within 2^-22 of the exact value for |a| ≤ 2^20, else anything in [−1, 1] (log 8). Below 2^-20 the exact
values are 1 − a²/2 and a − a³/6, to 80 bits. -/
def fpTrig (fn : Config.Approx) (ftz : Bool) (a : Nat) : Nat × FlagSet :=
  let x := flushOperand fF32 ftz a
  let free := (Config.approx fn (BitVec.ofNat 32 x)).toNat
  match decodeBin fF32 x with
  | .nan => (fF32.nan, noFlags)
  | .inf _ => (fF32.nan, { nv := true })
  | .fin neg n d =>
    if n = 0 then (if fn = .cos then 0x3F800000 else signBit fF32 neg, noFlags)
    else
      let r :=
        if n ≤ 2 ^ 20 * d then
          let (v, q) : Int × Nat :=
            if d ≤ n * 2 ^ 20 then (fixTrig (fn == .cos) n d, fixOne)
            else if fn == .cos then ((2 * d * d : Nat) - (n * n : Nat), 2 * d * d)
            else ((6 * n * d * d : Nat) - (n * n * n : Nat), 6 * d * d * d)
          within free (neg && fn != .cos) (v * 2 ^ 22 - q) (v * 2 ^ 22 + q) (q * 2 ^ 22)
        else within free false (-1) 1 1
      flushResult fF32 ftz (r, approxFlags r)

/-- `ftanh`: within 2 ulp of the exact value (log 8). Below 2^-20 that is a − a³/3, to 80 bits. -/
def fpTanh (ftz : Bool) (a : Nat) : Nat × FlagSet :=
  let x := flushOperand fF32 ftz a
  let free := (Config.approx .tanh (BitVec.ofNat 32 x)).toNat
  match decodeBin fF32 x with
  | .nan => (fF32.nan, noFlags)
  | .inf neg => (signBit fF32 neg + 0x3F800000, noFlags)
  | .fin neg n d =>
    if n = 0 then (signBit fF32 neg, noFlags)
    else
      let r :=
        if n * 2 ^ 20 < d then withinTwoUlp free neg (3 * n * d * d - n * n * n) (3 * d * d * d)
        else if 64 * d ≤ n then withinTwoUlp free neg (2 ^ 80 - 1) (2 ^ 80)
        else
          let e := expNeg (2 * n) d
          withinTwoUlp free neg (e.2 - e.1) (e.2 + e.1)
      flushResult fF32 ftz (r, approxFlags r)

/-- `fsigm`: within 2 ulp of the exact value (log 8). Below 2^-20 that is 1/2 ± (a/4 − a³/48), to 80 bits. -/
def fpSigm (ftz : Bool) (a : Nat) : Nat × FlagSet :=
  let x := flushOperand fF32 ftz a
  let free := (Config.approx .sigm (BitVec.ofNat 32 x)).toNat
  match decodeBin fF32 x with
  | .nan => (fF32.nan, noFlags)
  | .inf neg => (if neg then 0 else 0x3F800000, noFlags)
  | .fin neg n d =>
    if n = 0 then (0x3F000000, noFlags)
    else
      let r :=
        if 256 * d ≤ n then (if neg then within free false (-1) 2 (2 ^ 149) else withinTwoUlp free false (2 ^ 80 - 1) (2 ^ 80))
        else if n * 2 ^ 20 < d then
          let h := 24 * d * d * d
          let x := 12 * n * d * d - n * n * n
          withinTwoUlp free false (if neg then h - x else h + x) (2 * h)
        else
          let e := expNeg n d
          withinTwoUlp free false (if neg then e.1 else e.2) (e.2 + e.1)
      flushResult fF32 ftz (r, approxFlags r)

/-- `frnd`: a rounded to an integral FP32 value, without NX (07 R185). -/
def fpRound (rm : RMode) (ftz : Bool) (a : Nat) : Nat × FlagSet :=
  match decodeBin fF32 (flushOperand fF32 ftz a) with
  | .nan => (fF32.nan, noFlags)
  | .inf neg => (signBit fF32 neg + 0x7F800000, noFlags)
  | .fin neg n d => ((roundTo fF32 .ne (.fin neg (roundMag rm neg n d).1 1)).1, noFlags)

/-- `ffract`: a − ⌊a⌋ rounded, held at most 0x3F7F_FFFF (07 R185). -/
def fpFract (rm : RMode) (ftz : Bool) (a : Nat) : Nat × FlagSet :=
  match decodeBin fF32 (flushOperand fF32 ftz a) with
  | .nan => (fF32.nan, noFlags)
  | .inf _ => (fF32.nan, { nv := true })
  | .fin neg n d =>
    let r := n % d
    let num := if neg && r != 0 then d - r else r
    let y := flushResult fF32 ftz (roundBin fF32 rm false num d)
    if 0x3F7FFFFF < y.1 then (0x3F7FFFFF, { y.2 with nx := true }) else y

/-- `fclass` (07 R186). -/
def fpClass (x : Nat) : Nat :=
  let neg := bit x 31
  match decodeBin fF32 x with
  | .nan => 2 ^ 8
  | .inf _ => if neg then 1 else 2 ^ 7
  | .fin _ n _ =>
    if n = 0 then (if neg then 2 ^ 3 else 2 ^ 4)
    else if isSubnormal fF32 x then (if neg then 2 ^ 2 else 2 ^ 5)
    else if neg then 2 ^ 1 else 2 ^ 6

/-! ### Sums in the engines and at homes -/

/-- The exact sum of terms (05 R131): NaN for a NaN term or opposite infinities; an exact zero is +0 unless every term
is −0. -/
def sumFV (l : List FV) : FV :=
  if l.any FV.isNan then .nan
  else
    let allNegZero := l.all (fun x => x.isZero && x.sign)
    match l.foldl (FV.add false) (.fin true 0 1) with
    | .fin s n d => if n = 0 then .fin (allNegZero && !l.isEmpty) 0 1 else .fin s n d
    | r => r

/-- `round_ne` of a sum in a format, without flags or flush (08 R223, R230). -/
def addNe (f : BinFmt) (a b : Nat) : Nat := (fpAdd f .ne false a b).1

end Sys2Proof.Machine
end

