-- ==== Sys2Proof/Machine/Home.lean ====
section
/-! DEFINITION. The homes: the address map, HBM layout and stack parity, poison, watches, commutative partials, near
copies, and reading and writing at a home (04 R91, R102–R108; 08 R230, R231, R238, R239; 15 R376–R383). -/

namespace Sys2Proof.Machine

/-- The number of this package (01 R14). -/
def pkgNo (s : State) : Nat := s.boot.pkg.getD 0

/-- Whether the boot configuration chose PLAIN (01 R16). -/
def isPlain (s : State) : Bool := s.boot.config.plain

/-- The ranges of 04 R91. -/
inductive Zone where
  | hbm
  | pool
  | die (d : Nat)
  | doorbell
  | leases
  | borrows
  | watches
  | power
  | unbacked
  deriving DecidableEq, Repr

/-- The range a local address lies in (04 R91). -/
def zoneOf (plain : Bool) (x : Nat) : Zone :=
  if x < (if plain then 0x10000000000 else 0xF000000000) then .hbm
  else if x < 0x20000000000 then .unbacked
  else if x < 0x50000000000 then .pool
  else if x < 0x70000000000 then .unbacked
  else if x < 0x70040000000 then .die ((x - 0x70000000000) / 0x4000000)
  else if x < 0x7F000000000 then .unbacked
  else if x < 0x7F000010000 then .doorbell
  else if x < 0x7F000020000 then .leases
  else if x < 0x7F000040000 then .borrows
  else if x < 0x7F000060000 then .watches
  else if 0x7F000100000 ≤ x && x < 0x7F000101000 then .power
  else .unbacked

/-- Whether a local address lies in the MMIO ranges. -/
def isMmio (s : State) (x : Nat) : Bool :=
  match zoneOf (isPlain s) x with
  | .doorbell | .leases | .borrows | .watches | .power => true
  | _ => false

/-- The package of a fabric address (04 R92). -/
def fabPkg (fab : Nat) : Nat := fab / 2 ^ 43

/-- The local address in it. -/
def fabLocal (fab : Nat) : Nat := fab % 2 ^ 43

/-- Whether a fabric address lies in this package. -/
def isLocal (s : State) (fab : Nat) : Bool := fabPkg fab == pkgNo s

/-! ### HBM layout (04 R104) -/

/-- The stripe of an HBM address in parity mode. -/
def stripeOf (x : Nat) : Nat := x / 256 / 15

/-- The parity stack of a stripe. -/
def parityStack (stripe : Nat) : Nat := stripe % 16

/-- The stack of an HBM address. -/
def stackOf (plain : Bool) (x : Nat) : Nat :=
  let u := x / 256
  if plain then u % 16
  else
    let j := u % 15
    if j < parityStack (u / 15) then j else j + 1

/-- Its row. -/
def rowOf (plain : Bool) (x : Nat) : Nat := if plain then x / 256 / 16 else x / 256 / 15

/-- Its channel. -/
def channelOf (plain : Bool) (x : Nat) : Nat := rowOf plain x % 32

/-- The stack that is lost, if one is (15 R380). -/
def lostStack (s : State) : Option Nat :=
  match s.mem.mode with
  | .degraded l => some l
  | _ => none

/-- The home agent of an HBM address, the proxy home for a lost stack (04 R104, 15 R381). -/
def homeAgent (s : State) (x : Nat) : Nat :=
  let st := stackOf (isPlain s) x
  let c := channelOf (isPlain s) x
  if lostStack s = some st then (st + 1) % 16 * 32 + c else st * 32 + c

/-- The die at which the watches on a local address are held (08 R238; log 59). -/
def watchDie (s : State) (x : Nat) : Nat :=
  match zoneOf (isPlain s) x with
  | .hbm => stackOf (isPlain s) x
  | .pool => (x - 0x20000000000) / 2 ^ 31 % 16
  | .die d => d
  | _ => 0

/-- The die whose L2 is the home cache of a local address: for HBM that of the home agent, or of the proxy home (04 R102, R104;
15 R381). -/
def homeDie (s : State) (x : Nat) : Nat :=
  match zoneOf (isPlain s) x with
  | .hbm => homeAgent s x / 32
  | _ => watchDie s x

/-- A line held modified in its home cache (04 R103); a write-through or uncached one is not (04 R102). -/
def markModified (s : State) (x : Nat) (direct : Bool) : State :=
  if direct || zoneOf (isPlain s) x != .hbm || s.mem.modified.contains (homeDie s x, x / 128) then s
  else { s with mem := { s.mem with modified := s.mem.modified ++ [(homeDie s x, x / 128)] } }

/-- The lines of `n` bytes held modified in their home caches (04 R103). -/
def markLines (s : State) (x n : Nat) (direct : Bool) : State :=
  (List.range ((x + n - 1) / 128 + 1 - x / 128)).foldl (fun s i => markModified s ((x / 128 + i) * 128) direct) s

/-- Whether writes to an address are covered by a parity unit in service (04 R106, 15 R383). -/
def hasParity (s : State) (x : Nat) : Bool :=
  zoneOf (isPlain s) x = .hbm &&
    (match s.mem.mode with
     | .parity => true
     | .degraded l => parityStack (stripeOf x) != l
     | _ => false)

/-- The key of the parity byte that covers an address. -/
def parityKey (x : Nat) : Nat := stripeOf x * 256 + x % 256

/-- A parity delta applied at the parity home (04 R106). -/
def applyDelta (s : State) (x : Nat) (delta : List Byte) : State :=
  if hasParity s x then
    let k := parityKey x
    { s with mem := { s.mem with
        parity := memWrite s.mem.parity k (xorBytes (memRead s.mem.parity k delta.length) delta) } }
  else s

/-! ### Poison (15 R374, R378) -/

/-- Whether a read of `n` bytes at a local address meets poison. -/
def poisonedAt (s : State) (x n : Nat) : Bool :=
  match zoneOf (isPlain s) x with
  | .die d =>
    s.failure.fencedDies.contains d ||
      s.mem.poisonedScratch.any (fun p => p.1 == 4 && decide (x / 32 ≤ p.2) && decide (p.2 ≤ (x + n - 1) / 32))
  | .hbm | .pool => s.mem.poisoned.any (fun u => decide (x / 256 ≤ u) && decide (u ≤ (x + n - 1) / 256))
  | _ => false

/-- Whether a word of a scratchpad of kind 1 (lane slice) or 2 (core scratchpad) is poisoned. -/
def scratchPoisoned (s : State) (kind x n : Nat) : Bool :=
  s.mem.poisonedScratch.any (fun p => p.1 == kind && decide (x / 32 ≤ p.2) && decide (p.2 ≤ (x + n - 1) / 32))

/-! ### Watches -/

/-- The compare of a watch (08 R237). -/
def watchHolds (cmp : WCmp) (w b : Nat) : Bool :=
  match cmp with
  | .eq => w == b
  | .ne => w != b
  | .geu => decide (b ≤ w)
  | .ltu => decide (w < b)

/-- The size of a watched word. -/
def watchSize (wide : Bool) : Nat := if wide then 8 else 4

/-- An operation's accesses changed. -/
def modOp (f : Op → Op) (id : Nat) (s : State) : State :=
  { s with mem := { s.mem with ops := modFirst (fun o => o.id == id) f s.mem.ops } }

/-- The outstanding operation of a number. -/
def findOp (s : State) (id : Nat) : Option Op := s.mem.ops.find? (fun o => o.id == id)

/-- An access of an operation changed. -/
def modAcc (op acc : Nat) (f : Access → Access) (s : State) : State :=
  modOp (fun o => { o with accs := modNth f acc o.accs }) op s

/-- A message sent out. -/
def send (m : OutMsg) (s : State) : State := { s with outbox := s.outbox ++ [m] }

/-- The key of a hub hart's slot in a die's watch page. -/
def hubKey (die hart : Nat) : Nat := die * 64 + hart

/-- A hub slot's reply, with its interrupt (11 R330). -/
def hubAnswer (die hart status : Nat) (s : State) : State :=
  let k := hubKey die hart
  let h := tget s.mem.hub .zero k
  let s := { s with mem := { s.mem with
    hub := tput s.mem.hub .zero k { h with hreply := BitVec.ofNat 64 (2 ^ 63 + status), asked := if status = 3 then h.asked else none } } }
  if h.hmsia = 0 then s else send (.interrupt h.hmsia h.hmsid) s

/-- The number of the home that serves a local address: the home agents, then the pool's and the dies' (04 R104, R107). -/
def homeNo (s : State) (x : Nat) : Nat :=
  match zoneOf (isPlain s) x with
  | .hbm => homeAgent s x
  | .pool => 512 + watchDie s x
  | .die d => 528 + d
  | _ => 544

/-! ### Links to other packages (01 R11; 10 R296; 11 R331; 15 R391–R395) -/

/-- Whether a port in service leads straight to a package: its peer is that package, or an external switch that is not refused (log
37). -/
def Port.leadsTo (s : State) (pkg i : Nat) (p : Port) : Bool :=
  p.up && !p.endpoint && (match p.peer with
    | some q => q == pkg
    | none => !s.links.refusedSwitches.contains i)

/-- Whether it leads to a package through another one, whose switch routes on (11 R331; log 37). -/
def Port.leadsOn (s : State) (pkg : Nat) (p : Port) : Bool :=
  p.up && !p.endpoint && (match p.peer with
    | some q => s.links.admitted.contains q && !s.links.lostPeers.contains q && Config.routesOn q pkg
    | none => false)

/-- The port by which the ordered stream to a package leaves, straight or through another package; a destination of 512 and more
names a port itself (10 R296; 11 R331; log 37). -/
def outPort (s : State) (dest : Nat) : Option Nat :=
  if 512 ≤ dest then (if (vget s.links.ports (dest - 512) .untrained).up then some (dest - 512) else none)
  else match (List.range 18).find? (fun i => (vget s.links.ports i .untrained).leadsTo s dest i) with
    | some i => some i
    | none => (List.range 18).find? (fun i => (vget s.links.ports i .untrained).leadsOn s dest)

/-- Whether no port leads to a package, or the replay buffer of the one that does is full: 256 of its flits are unacknowledged (01
R11; 15 R391). -/
def portFull (s : State) (dest : Nat) : Bool :=
  match outPort s dest with
  | some i => decide (256 ≤ (vget s.links.ports i .untrained).buffer.length)
  | none => true

/-- A message that is a request or a FENCE, and so is sent again if its port goes out of service before the link partner has it (15
R393). -/
def OutMsg.isRequest : OutMsg → Bool
  | .remoteReq .. | .hubWatch .. | .cellReq .. | .transit .. | .stageFetch .. | .engineWrite .. | .engineRead .. | .stageWrite ..
  | .codeRead .. => true
  | .fenceMsg payload => payload.head? == some 1
  | _ => false

/-- Whether nothing new can be sent to a package now: no port leads to it, the buffer of its port is full, earlier messages still
have to leave, or requests to it are still to be sent again from a port out of service (15 R391, R393; log 90). -/
def linkFull (s : State) (dest : Nat) : Bool :=
  portFull s dest || s.links.queued.any (fun m => m.1 == dest)
    || s.links.ports.toList.any (fun p => !p.up && p.buffer.any (fun m => m.1 == dest && m.2.isRequest))

/-- A message leaves as a flit of the port that leads to its destination (15 R391). -/
def sendFlit (dest : Nat) (m : OutMsg) (s : State) : State :=
  match outPort s dest with
  | some i =>
    let p := vget s.links.ports i .untrained
    send m { s with links := { s.links with ports := vset s.links.ports i { p with buffer := p.buffer ++ [(dest, m)] } } }
  | none => s

/-- A message to a package, or over a port, leaves as a flit, or waits its turn (15 R391); one to this package itself needs no
link. -/
def sendTo (dest : Nat) (m : OutMsg) (s : State) : State :=
  if dest = pkgNo s then send m s
  else if linkFull s dest then { s with links := { s.links with queued := s.links.queued ++ [(dest, m)] } }
  else sendFlit dest m s

/-- A message to every package of the pod. -/
def sendAll (m : OutMsg) (s : State) : State := s.links.admitted.foldl (fun s q => sendTo q m s) s

/-- The messages that waited leave as far as there is room, in order (15 R391). -/
def flushQueued (s : State) : State :=
  s.links.queued.foldl (fun s m => sendTo m.1 m.2 s) { s with links := { s.links with queued := [] } }

/-- The lender's address of a byte of a staging frame (11 R314, R322). -/
def lenderFab (s : State) (borrow fab : Nat) : Nat :=
  let b := tget s.lending.borrows .free borrow
  b.lender * 2 ^ 43 + 0x20000000000 + b.extent * 2 ^ 31 + (fabLocal fab - b.stage.toNat % 2 ^ 43)

/-- The key of a die's sequence numbers for the home of a fabric address; the home is counted as this package would (log
26). -/
def seqKey (s : State) (die fab : Nat) : Nat := (die * 1024 + fabPkg fab) * 1024 + homeNo s (fabLocal fab)

/-- The next request tag of a die for a home. -/
def nextTag (s : State) (die fab : Nat) : ReqTag := ⟨pkgNo s, die, tget s.links.sequence 0 (seqKey s die fab)⟩

/-- A tag taken. -/
def takeSeq (die fab : Nat) (s : State) : State :=
  { s with links := { s.links with
      sequence := tput s.links.sequence 0 (seqKey s die fab) (((nextTag s die fab).seq + 1) % 2 ^ 16) } }

/-- The address at which the request of an access of an operation is served: that of the lender for what a KIND 4 page has performed
there (08 R215; 11 R322). -/
def requestFab (s : State) (o : Op) (a : Access) : Nat :=
  if a.kind == 4 then (match o.what with
    | .atomic _ _ | .acqrel | .watch _ _ _ => lenderFab s a.index a.fab
    | _ => a.fab)
  else a.fab

/-- The fabric address of a unit of an extent at its lender. -/
def unitFab (s : State) (borrow unit : Nat) : Nat :=
  let b := tget s.lending.borrows .free borrow
  b.lender * 2 ^ 43 + 0x20000000000 + b.extent * 2 ^ 31 + 256 * unit

/-- The die in whose name a unit of a staging frame is fetched and written back: that of the frame's home (15 R394; log 26). -/
def unitDie (s : State) (borrow unit : Nat) : Nat :=
  watchDie s ((tget s.lending.borrows .free borrow).stage.toNat % 2 ^ 43 + 256 * unit)

/-- The tag of a request of the package's own agents, and the address that it asks for. -/
def OutMsg.asks (s : State) : OutMsg → Option (ReqTag × Nat)
  | .stageFetch t borrow unit _ | .stageWrite t borrow unit _ _ => some (t, unitFab s borrow unit)
  | .engineWrite t _ _ fab _ _ | .engineRead t _ _ fab _ _ => some (t, fab)
  | .cellReq _ t fab _ _ _ | .hubWatch _ _ t fab => some (t, fab)
  | _ => none

/-- Such a request under a tag. -/
def OutMsg.tagged (t : ReqTag) : OutMsg → OutMsg
  | .stageFetch _ b u l => .stageFetch t b u l
  | .stageWrite _ b u l bs => .stageWrite t b u l bs
  | .engineWrite _ c i f l bs => .engineWrite t c i f l bs
  | .engineRead _ c i f l n => .engineRead t c i f l n
  | .cellReq op _ f w g o => .cellReq op t f w g o
  | .hubWatch op h _ f => .hubWatch op h t f
  | m => m

/-- Whether a die has 256 tagged requests outstanding to the home of an address (15 R394). -/
def tagsUsed (s : State) (die fab : Nat) : Bool :=
  let k := seqKey s die fab
  decide (256 ≤ s.mem.ops.foldl (fun n o => if o.die == die then
      n + (o.accs.filter (fun a => a.state == .switched && !isLocal s (requestFab s o a)
        && seqKey s die (requestFab s o a) == k)).length
    else n) 0
    + (s.links.awaited.filter (fun a => !a.held && (match a.msg.asks s with
        | some (t, f) => t.die == die && seqKey s die f == k
        | none => false))).length)

/-- What a request of the package's own agents waits for: the unit of a staging frame, a write or read of a copy command, a request of
the elector, or the watch of a hub slot. -/
def OutMsg.key : OutMsg → Option (Nat × Nat × Nat)
  | .stageFetch _ borrow unit _ | .stageWrite _ borrow unit _ _ => some (0, borrow, unit)
  | .engineWrite _ cmd ix _ _ _ | .engineRead _ cmd ix _ _ _ => some (1, cmd, ix)
  | .cellReq op _ _ _ _ _ => some (2, op, 0)
  | .hubWatch op _ _ _ => some (3, op, 0)
  | _ => none

/-- A request of the package's own agents sent in the name of a die, to be sent again if no answer comes; while the die has 256
requests out to that home it is held (15 R394, R395). -/
def sendAwaited (pkg die fab : Nat) (m : OutMsg) (s : State) : State :=
  let m := m.tagged (nextTag s die fab)
  let wait := fun (held : Bool) (s : State) => { s with links := { s.links with
      awaited := s.links.awaited.filter (fun a => a.msg.key != m.key) ++ [⟨pkg, m, s.tick, 0, held⟩] } }
  if tagsUsed s die fab then wait true s else wait false (sendTo pkg m (takeSeq die fab s))

/-- Whether a duplicate filter's entry is that of a tag at a home (15 R394). -/
def FilterEntry.holds (tag : ReqTag) (home : Nat) (e : FilterEntry) : Bool :=
  e.home == home && e.tag.pkg == tag.pkg && e.tag.die == tag.die && e.tag.seq % 256 == tag.seq % 256

/-- A reply to a request of another package, kept in the duplicate filter (15 R394). -/
def replyPeer (tag : ReqTag) (home : Nat) (value : BitVec 128) (fault : Option Cause) (s : State) : State :=
  let s := sendTo tag.pkg (match fault with
    | some c => .remoteFault tag c
    | none => .remoteReply tag value) s
  { s with links := { s.links with filter := s.links.filter.map (fun e =>
      if e.holds tag home && e.tag == tag then
        { e with
          reply := value
          fault := fault
          replied := true }
      else e) } }

/-- A satisfied watch of a hub core is answered once the write is performed (11 R330). -/
def oweHub (w : Watcher) (x : Nat) (s : State) : State := { s with mem := { s.mem with hubOwed := s.mem.hubOwed ++ [(w, x)] } }

/-- A watch entry's reply: the entry is freed; for a strand out of residency it is kept with its status (02 R50). -/
def answerWatch (key status : Nat) (s : State) : State :=
  match tget? s.mem.watches key with
  | none => s
  | some e =>
    match e.who with
    | .hub die hart =>
      let s := { s with mem := { s.mem with watches := tset s.mem.watches key none } }
      if status = 0 then oweHub e.who (fabLocal e.addr) s else hubAnswer die hart status s
    | .peer tag hub _ =>
      let s := { s with mem := { s.mem with watches := tset s.mem.watches key none } }
      if hub && status == 0 then oweHub e.who (fabLocal e.addr) s
      else replyPeer tag (homeNo s (fabLocal e.addr)) (BitVec.ofNat 128 status) none s
    | .strand op _ _ =>
      match findOp s op with
      | some _ =>
        modOp (fun o => { o with accs := o.accs.map (fun a => { a with state := .done, result := BitVec.ofNat 128 status }) })
          op { s with mem := { s.mem with watches := tset s.mem.watches key none } }
      | none =>
        { s with mem := { s.mem with watches := tset s.mem.watches key (some { e with status := some status }) } }

/-- The watched word as it stands at its home. -/
def watchedWord (s : State) (e : WatchEntry) : Nat := memNat s.mem.bytes (fabLocal e.addr) (watchSize e.wide)

/-- Every armed watch on the lines of `n` bytes at `x` evaluated after a write (08 R239). -/
def reevalWatches (x n : Nat) (s : State) : State :=
  s.mem.watches.foldl (fun s p =>
    let e := p.2
    let l := fabLocal e.addr / 128
    if e.status = none && isLocal s e.addr && decide (x / 128 ≤ l) && decide (l ≤ (x + n - 1) / 128)
        && watchHolds e.cmp (watchedWord s e) e.cmpv.toNat
    then answerWatch p.1 0 s else s) s

/-! ### Lent extents (11 R316) -/

/-- Whether a lease is GRANTED and its EXPIRY has not come. -/
def Lease.granted (s : State) (x : Lease) : Bool := x.state == .granted && !x.scrubbing && decide (s.tick.toNat < x.expiry.toNat)

/-- Whether it is RECALLING and its DEADLINE has not come. -/
def Lease.recalling (s : State) (x : Lease) : Bool :=
  x.state == .recalling && !x.scrubbing && decide (s.tick.toNat < x.deadline.toNat)

/-- Whether a lender serves a request for an address of its pool: one for an extent that is lent must carry the
borrower's number and LEASEID (11 R316; log 69). -/
def lenderServes (s : State) (src leaseId x : Nat) : Bool :=
  match zoneOf (isPlain s) x with
  | .pool =>
    let e := (x - 0x20000000000) / 2 ^ 31
    let lent := s.lending.leases.filter (fun p => p.2.extent == e && (p.2.state == .granted || p.2.state == .recalling))
    if leaseId = 0 then lent.isEmpty
    else lent.any (fun p => p.2.borrower == src && p.2.leaseId == leaseId && (p.2.granted s || p.2.recalling s))
  | _ => leaseId = 0

/-- Whether this package serves an access of one of its strands: not to an extent that is lent (11 R316). -/
def ownServes (s : State) (x : Nat) : Bool := lenderServes s (pkgNo s) 0 x

/-- The 16 bytes of a fence-count message (11 R332). -/
def fenceBytes (m : FenceMsg) : List Byte :=
  leBytes 2 m.code ++ leBytes 2 (m.src % 512) ++ leBytes 2 m.hops ++ leBytes 2 m.tag ++ leBytes 8 0

/-- Whether a fabric address lies in the MMIO ranges of its package, which no other package reaches (04 R92). -/
def peerMmio (fab : Nat) : Bool :=
  match zoneOf true (fabLocal fab) with
  | .doorbell | .leases | .borrows | .watches | .power => true
  | _ => false

/-- Whether requests to another package reach it (04 R92; 15 R396). -/
def reaches (s : State) (pkg : Nat) : Bool :=
  s.links.admitted.contains pkg && s.links.noRoute.all (fun p => p.1 != pkg) && !s.links.lostPeers.contains pkg

/-! ### Writing and reading at the home -/

/-- The reservations of harts on the lines of `n` bytes that are written end (10 R311; log 84). -/
def dropReserved (x n : Nat) (l : List (Nat × Nat)) : List (Nat × Nat) :=
  l.filter (fun p => !(decide (x / 128 ≤ p.2) && decide (p.2 ≤ (x + n - 1) / 128)))

/-- Bytes written at their home: the coherence order takes them now (04 R105, 10 R295). The parity delta is the
caller's. -/
def writeHome (x : Nat) (bs : List Byte) (s : State) : State :=
  reevalWatches x bs.length { s with mem := { s.mem with
    bytes := memWrite s.mem.bytes x bs, reserved := dropReserved x bs.length s.mem.reserved } }

/-- An access and its operation, by number. -/
def findAcc (s : State) (op acc : Nat) : Option (Op × Access) :=
  match findOp s op with
  | none => none
  | some o => (o.accs[acc]?).map (fun a => (o, a))

/-- The parity delta of a write about to be made (04 R106). -/
def deltaOf (s : State) (x : Nat) (bs : List Byte) : List Byte := xorBytes (memRead s.mem.bytes x bs.length) bs

/-- Whether a local address lies on a lost stack whose settle point has not come (15 R381). -/
def unsettledAt (s : State) (x : Nat) : Bool :=
  !s.mem.settled && zoneOf (isPlain s) x == .hbm && lostStack s == some (stackOf (isPlain s) x)

/-- Whether the parity home refuses a delta: it comes from a lost stack, 2,000 ticks or more after the loss (15 R381). -/
def deltaRefused (s : State) (x : Nat) : Bool :=
  unsettledAt s x && (match s.mem.lostAt with
    | some t => decide (t.toNat + 2000 ≤ s.tick.toNat)
    | none => false)

/-- Whether the reply of an operation died with its home, although its write stands (15 R382). -/
def replyDied (o : Op) : Bool :=
  o.holds && (match o.what with
    | .atomic _ _ | .acqrel | .docReset => true
    | _ => false)

/-- A unit of a command changed. -/
def modNear (cmd unit : Nat) (f : NearUnit → NearUnit) (s : State) : State :=
  { s with engines := { s.engines with nears := s.engines.nears.map (fun c =>
      if c.id == cmd then { c with units := modNth f unit c.units } else c) } }

/-- The address of a write whose parity delta is still on its way, by the numbers of the delta. -/
def deltaAt (s : State) (d : Nat × Nat) : Option Nat :=
  match findAcc s d.1 d.2 with
  | some (_, a) => if a.state == .applied then some (fabLocal a.fab) else none
  | none =>
    match (s.engines.nears.find? (fun c => c.id == d.1)).bind (fun c => c.units[d.2]?) with
    | some u => if u.state == .applied then some u.tgt else none
    | none => none

/-- The unit of such a write. -/
def deltaUnit (s : State) (d : Nat × Nat) : Option Nat := (deltaAt s d).map (fun x => x / 256)

/-- Whether a write to the unit of an address has its delta on the way. -/
def unitPending (s : State) (x : Nat) : Bool := s.mem.deltas.any (fun d => deltaUnit s d == some (x / 256))

/-- A delta enters the path to its parity home; those that have arrived leave it (15 R377). -/
def queueDelta (op acc x : Nat) (s : State) : State :=
  if hasParity s x then { s with mem := { s.mem with
      deltas := s.mem.deltas.filter (fun d => (deltaUnit s d).isSome) ++ [(op, acc)] } }
  else s

/-- Whether an earlier delta of the same unit is still on the path: they are applied in home order (15 R377). -/
def deltaBehind (s : State) (op acc x : Nat) : Bool :=
  (s.mem.deltas.takeWhile (fun d => d != (op, acc))).any (fun d => deltaUnit s d == some (x / 256))

/-- A delta arrives at its parity home and is applied: its write is performed, but on a lost stack the reply of some requests has
died (04 R106; 15 R377, R382). -/
def deltaArrives (d : Nat × Nat) (s : State) : State :=
  match findAcc s d.1 d.2 with
  | some (o, a) =>
    let x := fabLocal a.fab
    let next : AccState := if unsettledAt s x && replyDied o then .failed .remoteFault else .done
    modAcc d.1 d.2 (fun a => { a with state := next }) (applyDelta s x a.delta)
  | none =>
    match (s.engines.nears.find? (fun c => c.id == d.1)).bind (fun c => c.units[d.2]?) with
    | none => s
    | some u =>
      let next : UnitState := if unsettledAt s u.tgt then .failed .remoteFault else .done
      modNear d.1 d.2 (fun u => { u with state := next }) (applyDelta s u.tgt u.delta)

/-- The deltas of a unit that are on the path arrive, in home order, before the one of a write that is performed at once (15 R377;
log 91). -/
def drainUnit (u : Nat) (s : State) : State :=
  s.mem.deltas.foldl (fun s d => if deltaUnit s d == some u && !deltaRefused s (u * 256) then deltaArrives d s else s) s

/-- Bytes from a local address on, cut at the bounds of units. -/
def unitPieces (x : Nat) (bs : List Byte) : List (Nat × List Byte) :=
  (List.range ((x % 256 + bs.length + 255) / 256)).map (fun i =>
    let lo := max x ((x / 256 + i) * 256)
    (lo, (bs.drop (lo - x)).take ((x / 256 + i + 1) * 256 - lo)))

/-- Bytes written at their home and performed at once: the write of an agent whose steps the spec does not divide. Each unit
has a delta of its own, which arrives behind those on the path (04 R106; 15 R377; log 91). -/
def poke (x : Nat) (bs : List Byte) (s : State) : State :=
  (unitPieces x (deltaOf s x bs)).foldl (fun s p => applyDelta (drainUnit (p.1 / 256) s) p.1 p.2) (writeHome x bs s)

/-- Bytes read at a home on an agent's own account; another package's are free values (log 2). -/
def peek (s : State) (fab n : Nat) : List Byte :=
  if isLocal s fab then memRead s.mem.bytes (fabLocal fab) n
  else (List.range n).map (fun i => Config.remoteByte (fab + i) s.fresh)

/-- A number read so. -/
def peekNat (s : State) (fab n : Nat) : Nat := leNat (peek s fab n)

/-- Whether such a read is refused: this package's own agents do not reach an extent that it has lent, nor a package without a
route, nor the MMIO ranges of another package (04 R92; 11 R316). -/
def peekRefused (s : State) (fab n : Nat) : Bool :=
  if isLocal s fab then !(ownServes s (fabLocal fab) && ownServes s (fabLocal fab + n - 1))
  else !reaches s (fabPkg fab) || peerMmio fab

/-- Whether such a read meets poison. -/
def peekPoisoned (s : State) (fab n : Nat) : Bool := isLocal s fab && poisonedAt s (fabLocal fab) n

/-! ### Commutative partials (08 R230, R231) -/

/-- The size of an element. -/
def cfmtSize : CFmt → Nat
  | .f32 | .i32 => 4
  | .bf16 | .f16 => 2

/-- One combine of two values (08 R230). -/
def combine (fmt : CFmt) (isMax : Bool) (a b : Nat) : Nat :=
  if isMax then fpMax fF32 false a b
  else match fmt with
    | .f32 => addNe fF32 a b
    | .bf16 => addNe fBF16 a b
    | .f16 => addNe fF16 a b
    | .i32 => (a + b) % 2 ^ 32

/-- The identity of a range (08 R230). -/
def identityOf (isMax : Bool) : Word := if isMax then 0xFF800000 else 0

/-- The elements of a line as one holder combines into them: each with its partial, or with the identity where nothing was
deposited (08 R230). `h` is a partial of the holder. -/
def combineHolder (line : Nat) (mine : List Partial) (h : Partial) (bytes : List Byte) : List Byte :=
  let n := cfmtSize h.fmt
  (List.range (128 / n)).flatMap (fun i =>
    let p := match mine.find? (fun p => p.addr == line + n * i && p.core == h.core && p.fmt == h.fmt && p.isMax == h.isMax) with
      | some p => p.value
      | none => identityOf h.isMax
    leBytes n (combine h.fmt h.isMax (leNat ((bytes.drop (n * i)).take n)) p.toNat))

/-- One partial for each holder that a list of partials names. -/
def holdersOf : List Partial → List Partial
  | [] => []
  | p :: r => p :: (holdersOf r).filter (fun q => !(q.core == p.core && q.fmt == p.fmt && q.isMax == p.isMax))

/-- A line's partials combined into its home value, holders in ascending order, and dropped (08 R231; log 58). -/
def combineLine (x : Nat) (s : State) : State :=
  let line := x / 128 * 128
  let mine := s.mem.partials.filter (fun p => p.addr / 128 == x / 128)
  if mine.isEmpty then s
  else
    let s := { s with mem := { s.mem with partials := s.mem.partials.filter (fun p => p.addr / 128 != x / 128) } }
    let s := markModified s line (mine.all (fun p => p.wt))
    poke line ((sortBy (fun p => p.core) (holdersOf mine)).foldl (fun b h => combineHolder line mine h b)
      (memRead s.mem.bytes line 128)) s

/-- The lines of `n` bytes at a local address combined with their partials (08 R231). -/
def combineLines (x n : Nat) (s : State) : State :=
  (List.range ((x + n - 1) / 128 + 1 - x / 128)).foldl (fun s i => combineLine ((x / 128 + i) * 128) s) s

/-- Whether a watch is armed on the line of a local address (08 R240). -/
def lineWatched (s : State) (x : Nat) : Bool :=
  s.mem.watches.any (fun p => p.2.status = none && isLocal s p.2.addr && fabLocal p.2.addr / 128 == x / 128)

/-! ### Near copies (04 R102, 10 R295, R310) -/

/-- The near copy a die holds of a line that may still serve (10 R310). -/
def nearCopy? (s : State) (die line : Nat) : Option NearCopy :=
  s.mem.copies.find? (fun c => c.die == die && c.line == line && decide (s.tick.toNat < c.tick.toNat + 32768))

/-- A near copy dropped. -/
def dropCopy (die line : Nat) (s : State) : State :=
  { s with mem := { s.mem with copies := s.mem.copies.filter (fun c => !(c.die == die && c.line == line)) } }

/-- `bs` laid over `base` from offset `off` on, inside it. -/
def overlay (base : List Byte) (off : Int) (bs : List Byte) : List Byte :=
  (List.range base.length).map (fun (i : Nat) =>
    let j : Int := (Int.ofNat i) - off
    if 0 ≤ j ∧ j.toNat < bs.length then bs.getD j.toNat 0 else base.getD i 0)

/-- A store accepted by a die updates the near copies it holds of the line (10, accepted stores). -/
def updateCopies (die fab : Nat) (bs : List Byte) (s : State) : State :=
  { s with mem := { s.mem with copies := s.mem.copies.map (fun c =>
      if c.die == die && c.line == fab / 128 then
        { c with bytes := overlay c.bytes ((fab : Int) - c.line * 128) bs } else c) } }

/-- Whether two ranges of bytes meet. -/
def meets (a n b m : Nat) : Bool := decide (a < b + m) && decide (b < a + n)

/-- Whether an operation is a store whose data its die serves from acceptance on. -/
def OpKind.isStore : OpKind → Bool
  | .store => true
  | _ => false

/-- Whether a fabric address lies in a die scratchpad, at which every access is performed (04 R89). -/
def dieSpace (s : State) (fab : Nat) : Bool :=
  match zoneOf (if isLocal s fab then isPlain s else true) (fabLocal fab) with
  | .die _ => true
  | _ => false

/-- Whether a store's access is accepted by its die and not yet applied, nor taken by the switch: it waits for its home, or for the
unit of a staging frame (10 R296). -/
def Access.accepted (a : Access) : Bool := a.state == .waiting || (a.kind == 4 && a.state == .switched)

/-- A strand's own held deposit seen by its loads: combined into the element that lies over `b`; the part of it outside is read at its
home (16 R414). -/
def overlayDeposit (s : State) (b : List Byte) (fab : Nat) (fmt : CFmt) (isMax : Bool) (a : Access) : List Byte :=
  let n := cfmtSize fmt
  let old := (peek s a.fab n).zipIdx.map (fun p => if fab ≤ a.fab + p.2 then b.getD (a.fab + p.2 - fab) p.1 else p.1)
  overlay b ((a.fab : Int) - fab) (leBytes n (combine fmt isMax (leNat old) (a.data.toNat % 2 ^ (8 * n))))

/-- Bytes as a strand on a die sees them: the die's accepted stores not yet applied lie over the home's bytes (10,
accepted stores) but for die scratchpads (04 R89), and the strand's own stores and deposits of an open paired window too (16 R414). -/
def withAccepted (s : State) (die : Nat) (owner : Option StrandId) (upTo fab : Nat) (base : List Byte) : List Byte :=
  s.mem.ops.foldl (fun b o => match o.what with
    | .cadd fmt isMax =>
      if o.windowed && some o.owner == owner && decide (o.id < upTo) then o.accs.foldl (fun b a =>
        if meets a.fab a.size fab b.length then overlayDeposit s b fab fmt isMax a else b) b
      else b
    | _ =>
    if o.die == die && decide (o.id < upTo) && o.what.isStore && (if o.windowed then some o.owner == owner else !dieSpace s fab) then
      o.accs.foldl (fun b a =>
        if a.accepted && meets a.fab a.size fab b.length
        then overlay b ((a.fab : Int) - fab) (leBytes a.size a.data.toNat) else b) b
    else b) base

/-- The key of the entry of an armed watch. -/
def watchKey (s : State) (op : Nat) : Option Nat :=
  (s.mem.watches.find? (fun p => match p.2.who with
    | .strand o _ _ => o == op
    | _ => false)).map (fun p => p.1)

/-- The number of the watch entry that a `wwait` has armed (08 R241): one of this package's, or one at the home of another
package, which the home has chosen (log 29). -/
def watchNumber (s : State) (op : Nat) : Nat :=
  match watchKey s op with
  | some k => pkgNo s * 65536 + k
  | none =>
    match (findOp s op).bind (fun o => o.accs[0]?) with
    | some a =>
      let pkg := if a.kind = 4 then (tget s.lending.borrows .free a.index).lender else fabPkg a.fab
      pkg * 65536 + Config.watchEntry op % 65536
    | none => 0

/-- Whether an operation is a watch that another package's home holds. -/
def Op.farWatch (s : State) (o : Op) : Bool :=
  (match o.what with
   | .watch _ _ _ => true
   | _ => false) && (watchKey s o.id).isNone && o.accs.any (fun a => a.state == .switched || a.state == .done)

/-! ### Waiting at a home (15 R376, R381) -/

/-- The 256-byte units that `n` bytes at a local address touch. -/
def unitsAt (x n : Nat) : List Nat := (List.range ((x + n - 1) / 256 + 1 - x / 256)).map (fun i => x / 256 + i)

/-- Whether an access waits for a rebuild, or for the proxy home of a lost stack (15 R376, R381). -/
def homeHeld (s : State) (x n : Nat) : Bool :=
  zoneOf (isPlain s) x = .hbm &&
    (s.mem.rebuilds.any (fun r => (unitsAt x n).contains r.unit)
      || unsettledAt s x)

/-- Whether a write waits: the stripe is frozen by a rebuild of another unit (15 R376). -/
def writeHeld (s : State) (x n : Nat) : Bool :=
  homeHeld s x n || (zoneOf (isPlain s) x = .hbm &&
    s.mem.rebuilds.any (fun r => (unitsAt x n).any (fun u => u / 15 == r.stripe)))

/-! ### Staging frames (11 R322, R323) -/

/-- The key of a unit of a borrow entry's staging frame. -/
def stageKey (borrow unit : Nat) : Nat := borrow * 2 ^ 23 + unit

/-- The state of a unit of a staging frame. -/
def stagedAt (s : State) (borrow unit : Nat) : Staged := tget s.mem.staged .absent (stageKey borrow unit)

/-- Its state replaced. -/
def setStaged (borrow unit : Nat) (x : Staged) (s : State) : State :=
  { s with mem := { s.mem with staged := tput s.mem.staged .absent (stageKey borrow unit) x } }

/-- The unit of a staging frame that a fabric address of it lies in. -/
def stageUnit (s : State) (borrow fab : Nat) : Nat :=
  (fabLocal fab - (tget s.lending.borrows .free borrow).stage.toNat % 2 ^ 43) / 256 % 2 ^ 23

/-- The local address of a unit of a staging frame. -/
def stageAddr (s : State) (borrow unit : Nat) : Nat :=
  (tget s.lending.borrows .free borrow).stage.toNat % 2 ^ 43 + 256 * unit

/-- Whether the write-back of a unit is on its way. -/
def Staged.leaving : Staged → Bool
  | .writing _ _ _ _ _ _ => true
  | _ => false

/-- Whether bytes that a unit took from its lender at a tick are too old to serve: 131,072 ticks, but not in LOST (10 R310; 11
R322). -/
def unitOld (s : State) (borrow : Nat) (t : DWord) : Bool :=
  decide (t.toNat + 131072 ≤ s.tick.toNat) && (tget s.lending.borrows .free borrow).state != .lost

/-- Whether an access has to wait for a unit: ABSENT, being fetched, too old, or dropped by an
acquire and still being written back (10 R306, R310; 11 R322). -/
def unitAway (s : State) (borrow unit : Nat) : Bool :=
  match stagedAt s borrow unit with
  | .absent | .fetching _ => true
  | .clean t | .dirty t _ _ _ => unitOld s borrow t
  | .writing _ _ t _ _ drop => drop || unitOld s borrow t

/-- A unit without bytes to write back dropped; what a fetch under way brings will not serve (10 R306; 11 R322, R323). -/
def dropUnit (borrow unit : Nat) (s : State) : State :=
  match stagedAt s borrow unit with
  | .clean _ => setStaged borrow unit .absent s
  | .fetching _ => setStaged borrow unit (.fetching true) s
  | _ => s

/-- The units that an access to a KIND 4 page has to wait for. -/
def absentUnits (s : State) (borrow fab n : Nat) : List Nat :=
  let u := stageUnit s borrow fab
  ((List.range ((fab + n - 1) / 256 + 1 - fab / 256)).map (fun i => u + i)).filter (fun u =>
    unitAway s borrow u)

/-- The write-back of a DIRTY unit begins with the bytes stored into it (11 R323). -/
def beginWriteback (borrow unit : Nat) (begun : Option StrandId) (drop : Bool) (s : State) : State :=
  match stagedAt s borrow unit with
  | .dirty t mask by_ _ =>
    let b := tget s.lending.borrows .free borrow
    let at_ := stageAddr s borrow unit
    sendAwaited b.lender (unitDie s borrow unit) (unitFab s borrow unit)
      (.stageWrite ⟨0, 0, 0⟩ borrow unit b.leaseId (mask.map (fun i => (i, memByte s.mem.bytes (at_ + i)))))
      (setStaged borrow unit (.writing mask [] t by_ begun drop) s)
  | .writing a b t by_ g d => setStaged borrow unit (.writing a b t by_ g (d || drop)) s
  | _ => s

/-- The fetch of a unit asked of its lender, unless it is under way; a unit whose bytes are too old is written back first if bytes
have been stored into it (10 R310; 11 R322). -/
def fetchUnit (borrow unit : Nat) (s : State) : State :=
  match stagedAt s borrow unit with
  | .absent | .clean _ =>
    let b := tget s.lending.borrows .free borrow
    sendAwaited b.lender (unitDie s borrow unit) (unitFab s borrow unit) (.stageFetch ⟨0, 0, 0⟩ borrow unit b.leaseId)
      (setStaged borrow unit (.fetching false) s)
  | .dirty t _ _ _ | .writing _ _ t _ _ _ => if unitOld s borrow t then beginWriteback borrow unit none true s else s
  | .fetching _ => s

/-- A list with more elements, none twice. -/
def merge {α : Type} [DecidableEq α] (a b : List α) : List α := a ++ b.filter (fun x => !a.contains x)

/-! ### The error log (15 R372, R373) -/

/-- The number of records not consumed. -/
def logUsed (s : State) : Nat :=
  let lrp := peekNat s (pkgNo s * 2 ^ 43 + s.failure.logBase + 8) 8
  (s.failure.logWp.toNat + 2 ^ 64 - lrp) % 2 ^ 64

/-- Whether the ring has room. -/
def logRoom (s : State) : Bool := decide (6 ≤ s.failure.logSize) && decide (logUsed s < 2 ^ s.failure.logSize)

/-- A record's 32 bytes. -/
def logBytes (r : LogRecord) : List Byte :=
  leBytes 2 r.event ++ leBytes 2 r.unit ++ leBytes 4 r.seq ++ leBytes 8 r.arg.toNat ++ leBytes 8 r.whereD.toNat
    ++ leBytes 8 r.tick.toNat

/-- A record written into the ring, then LWP. -/
def putRecord (r : LogRecord) (s : State) : State :=
  let k := s.failure.logWp.toNat % 2 ^ s.failure.logSize
  let wp := s.failure.logWp + 1
  let s := poke (s.failure.logBase + 64 + 32 * k) (logBytes r) s
  let s := poke s.failure.logBase (leBytes 8 wp.toNat) s
  { s with failure := { s.failure with logWp := wp } }

/-- A record taken up by the hub firmware under the next number: a copy goes to the management interface, and it enters the ring, or
is held (15 R372, R373). -/
def takeRecord (r : LogRecord) (s : State) : State :=
  let r := { r with seq := s.failure.logSeq % 2 ^ 32 }
  let s := send (.logCopy r) { s with failure := { s.failure with logSeq := s.failure.logSeq + 1 } }
  if logRoom s && s.failure.logHeld.isEmpty then putRecord r s
  else { s with failure := { s.failure with logHeld := s.failure.logHeld ++ [r] } }

/-- An event reported: taken up, or while the ring is full dropped, or, for lost ranges when 4,096 records are held, kept back at the
distributor (15 R372, R373). Before stage 2 there is no ring to show LDROP in. -/
def logEvent (event unit : Nat) (whereD arg : DWord) (s : State) : State :=
  let droppable := event == 1 || event == 7
  if droppable && !logRoom s then
    let n := if s.failure.logDrop < 2 ^ 32 - 1 then s.failure.logDrop + 1 else s.failure.logDrop
    let s := { s with failure := { s.failure with logDrop := n } }
    if 6 ≤ s.failure.logSize then poke (s.failure.logBase + 0x14) (leBytes 4 n) s else s
  else if event = 10 && decide (4096 ≤ s.failure.logHeld.length) then
    { s with failure := { s.failure with logLater := s.failure.logLater ++ [⟨event, unit, arg, whereD, s.tick, 0⟩] } }
  else takeRecord ⟨event, unit, arg, whereD, s.tick, 0⟩ s

/-- The fabric address of a local one. -/
def fabOf (s : State) (x : Nat) : DWord := BitVec.ofNat 64 (pkgNo s * 2 ^ 43 + x)

/-- The stack or device number under which the log names a unit (15 R372). -/
def logUnit (s : State) (x : Nat) : Nat :=
  match zoneOf (isPlain s) x with
  | .pool => 16 + (x - 0x20000000000) / 256 % 24
  | _ => stackOf (isPlain s) x

/-- A unit marked poisoned, with its record (15 R378). -/
def poisonUnit (u : Nat) (s : State) : State :=
  if s.mem.poisoned.contains u then s
  else logEvent 3 (logUnit s (u * 256)) (fabOf s (u * 256)) 0
    { s with mem := { s.mem with poisoned := s.mem.poisoned ++ [u] } }

end Sys2Proof.Machine
end

