-- ==== Sys2Proof/Machine/Ops.lean ====
section
/-! DEFINITION. Named operations over strands, fragments, the pc and the fault queue, and taking an exception and returning
from one (02 R22–R44; 14 R346–R364). -/

namespace Sys2Proof.Machine

/-! ### Places -/

/-- The die of a place (01 R14). -/
def Place.die : Place → Nat
  | .none => 0
  | .vec core _ _ => core / 16
  | .ctl quad _ => quad / 4

/-- The quad of a place. -/
def Place.quad : Place → Nat
  | .none => 0
  | .vec core _ _ => core / 4
  | .ctl quad _ => quad

/-- The core whose L2 slice serves a place; a control lane uses that of its quad's first core (log 13). -/
def Place.core : Place → Nat
  | .none => 0
  | .vec core _ _ => core
  | .ctl quad _ => quad * 4

/-- Whether it is a control lane. -/
def Place.isCtl : Place → Bool
  | .ctl _ _ => true
  | _ => false

/-- The key of a lane for its operand log: vector lanes first, then control lanes. -/
def Place.laneKey : Place → Nat
  | .none => 0
  | .vec core lane _ => core * 128 + lane
  | .ctl quad c => 32768 + quad * 4 + c

/-- The lane of a place. -/
def Place.lane : Place → LaneId
  | .none => .vec 0 0
  | .vec core lane _ => .vec core lane
  | .ctl quad c => .ctl quad c

/-! ### Strands and fragments -/

/-- Whether a strand is resident. -/
def Strand.here (st : Strand) : Bool := st.place != .none

/-- The resident strands. -/
def strandsOf (s : State) : List Strand := (if s.me.here then [s.me] else []) ++ s.others

/-- The resident strand of an id. -/
def findStrand (s : State) (id : StrandId) : Option Strand := (strandsOf s).find? (fun st => st.who.id == id)

/-- A strand changed. -/
def modStrand (id : StrandId) (f : Strand → Strand) (s : State) : State :=
  if s.me.here && s.me.who.id == id then { s with me := f s.me }
  else { s with others := modFirst (fun st => st.who.id == id) f s.others }

/-- The executing fragment changed. -/
def modCur (f : Fragment → Fragment) (s : State) : State := { s with me := { s.me with cur := f s.me.cur } }

/-- The strand that executes changed. -/
def modMe (f : Strand → Strand) (s : State) : State := { s with me := f s.me }

/-- All fragments of a strand in creation order; those that have ended are not among them. -/
def Strand.all (st : Strand) : List Fragment :=
  (insertBy (fun f => f.id) st.cur st.frags).filter (fun f => f.wait != .ended)

/-- Split-table entries that a strand has in use: one for each child fragment of a split (02 R39). -/
def Strand.entries (st : Strand) : Nat := (st.all.filter (fun f => f.parent.isSome && f.tabled)).length

/-- The fragment of a number. -/
def Strand.frag? (st : Strand) (id : Nat) : Option Fragment := st.all.find? (fun f => f.id == id)

/-- A fragment of a strand changed. -/
def Strand.modFrag (id : Nat) (f : Fragment → Fragment) (st : Strand) : Strand :=
  if st.cur.id == id then { st with cur := f st.cur } else { st with frags := modFirst (fun x => x.id == id) f st.frags }

/-- Whether a fragment is live: neither ended nor a suspended parent. -/
def Fragment.live (f : Fragment) : Bool := f.wait != .ended && f.wait != .suspended

/-- The live fragments of a strand. -/
def Strand.liveFrags (st : Strand) : List Fragment := st.all.filter Fragment.live

/-- Another fragment of the strand takes the issue slot. -/
def Strand.toFrag (id : Nat) (st : Strand) : Strand :=
  if st.cur.id == id then st
  else match st.frags.find? (fun f => f.id == id) with
    | none => st
    | some f =>
      let rest := st.frags.filter (fun x => x.id != id)
      { st with cur := f, frags := if st.cur.wait = .ended then rest else insertBy (fun x => x.id) st.cur rest }

/-- A strand and one of its fragments take the issue slot. -/
def focus (id : StrandId) (frag : Nat) (s : State) : State :=
  if s.me.here && s.me.who.id == id then { s with me := s.me.toFrag frag }
  else match s.others.find? (fun st => st.who.id == id) with
    | none => s
    | some st =>
      let rest := s.others.filter (fun x => x.who.id != id)
      { s with me := st.toFrag frag, others := if s.me.here then insertBy (fun x => x.age) s.me rest else rest }

/-- The drowsy banks of a lane wake up (02 R32). -/
def wakeLane (lane : LaneId) (s : State) : State :=
  { s with failure := { s.failure with drowsy := s.failure.drowsy.filter (fun d => d.1 != lane) } }

/-- A strand leaves residency. -/
def removeStrand (id : StrandId) (s : State) : State :=
  if s.me.here && s.me.who.id == id then { s with me := noStrand }
  else { s with others := s.others.filter (fun x => x.who.id != id) }

/-- The index of a fragment's record (02 R52): its place in creation order. -/
def Strand.fragIndex (st : Strand) (id : Nat) : Nat := (st.all.takeWhile (fun f => f.id != id)).length

/-- The index of a strand as reports name it: a secondary twin has the index of its primary (16 R411). -/
def reportIndex (id : StrandId) : Nat := id.index % 2 ^ 40

/-- The kind of a wait (02 R48). -/
def Wait.kind : Wait → Nat
  | .bar _ _ => 1
  | .gang _ _ => 2
  | .reconv | .join => 3
  | .pop _ => 4
  | .push _ => 5
  | .watch _ => 6
  | .nap _ => 7
  | .owner _ _ => 8
  | .reply _ | .limit | .window => 9
  | .header k => k
  | _ => 0

/-- Whether a strand is asked to reach a blocking point for an image (02 R50; 16 R418). -/
def Strand.imaging (st : Strand) : Bool := st.evicting || st.checkpointing

/-- Whether a fragment is suspended or waits at a blocking point: the header waits of counters alone, without a remote load
outstanding, are none (02 R48, 06 R145). -/
def Fragment.blocked (f : Fragment) : Bool :=
  match f.wait with
  | .ready | .ended => false
  | .header k => k != 0
  | _ => true

/-- Whether a strand is at a blocking point (02 R48). -/
def Strand.atBlockingPoint (st : Strand) : Bool := st.all.all Fragment.blocked

/-- Whether every other fragment of a strand is suspended or waits at a blocking point. -/
def Strand.restWaits (frag : Nat) (st : Strand) : Bool := st.all.all (fun f => f.id == frag || f.blocked)

/-- Whether a fragment of a strand may issue: the strand is not being killed, nor halted unless a STEP names the fragment
(14 R370). -/
def Strand.mayGo (st : Strand) (frag : Nat) : Bool := !st.killing && (!st.halted || st.stepping == some frag)

/-- A fragment gives up the issue slot. -/
def Fragment.unslot (f : Fragment) : Fragment := { f with slot := false }

/-! ### Launches, control contexts -/

/-- The running launch of a handle. -/
def findLaunch (s : State) (handle : Nat) : Option Launch := s.work.launches.find? (fun l => l.handle == handle)

/-- The key of a control context. -/
def ctlKey (quad context : Nat) : Nat := quad * 4 + context

/-- A control context. -/
def controlAt (s : State) (key : Nat) : Control := tget s.engines.controls .start key

/-- A control context replaced. -/
def setControl (key : Nat) (c : Control) (s : State) : State :=
  { s with engines := { s.engines with controls := tput s.engines.controls .start key c } }

/-- A launch's quad memory on a quad, for its primary or secondary twins. -/
def regionOf (s : State) (handle quad : Nat) (twin : Bool) : Option QuadRegion :=
  s.work.regions.find? (fun r => r.handle == handle && r.quad == quad && r.twin == twin)

/-- The control context whose tile table a strand names (09 R256). -/
def tableOf (s : State) (st : Strand) : Option Nat :=
  match st.place with
  | .ctl quad c => some (ctlKey quad c)
  | p => (regionOf s st.who.id.handle p.quad st.who.twin).bind (fun r => r.context.map (fun c => ctlKey p.quad c))

/-- The block of a strand; a control program has none (02 R430). -/
def blockOf (s : State) (st : Strand) : Option Block :=
  if st.place.isCtl then none
  else s.work.blocks.find? (fun b => b.handle == st.who.id.handle && b.idx == st.who.blockIdx && b.twin == st.who.twin)

/-- A block changed. -/
def modBlock (handle idx : Nat) (twin : Bool) (f : Block → Block) (s : State) : State :=
  { s with work := { s.work with
      blocks := modFirst (fun b => b.handle == handle && b.idx == idx && b.twin == twin) f s.work.blocks } }

/-- An address context. -/
def contextAt (s : State) (n : Nat) : AddrContext := tget s.kernel.contexts (.start n) n

/-- Whether a strand runs in a package-kernel context (09 R292). -/
def isKernel (s : State) (st : Strand) : Bool := (contextAt s st.who.context).kctx.getLsbD 0

/-- Whether a launch is paired (16 R411). -/
def isPaired (s : State) (st : Strand) : Bool :=
  match findLaunch s st.who.id.handle with
  | some l => l.record.pair
  | none => false

/-! ### Outstanding operations of a strand -/

/-- The strand's outstanding operations. -/
def opsOf (s : State) (id : StrandId) : List Op := s.mem.ops.filter (fun o => o.owner == id)

/-- Whether an operation counts as an outstanding load (06 R144). -/
def OpKind.countsLoad : OpKind → Bool
  | .load _ | .loadv _ | .acq | .acqrel | .atomic _ _ | .docProp | .docRead | .docReset | .docStat | .watch _ _ _
  | .service _ _ => true
  | .cadd _ _ => true
  | _ => false

/-- Whether it counts as an outstanding store. -/
def OpKind.countsStore : OpKind → Bool
  | .store | .rel | .acqrel | .fence | .atomic _ _ | .cadd _ _ | .docProp | .docReset => true
  | _ => false

/-- Whether its results are still to be written to registers. -/
def Op.owes (o : Op) : Bool := o.holds

/-- Outstanding loads (06 R144): `cadd` writes no register, so nothing of it is ever owed. -/
def outLoads (s : State) (id : StrandId) : Nat :=
  ((opsOf s id).filter (fun o => o.what.countsLoad && o.owes)).length

/-- Whether an access still keeps its instruction from being performed. -/
def Access.unperformed (a : Access) : Bool :=
  match a.state with
  | .waiting | .switched | .applied => true
  | _ => false

/-- Outstanding stores (06 R144). -/
def outStores (s : State) (id : StrandId) : Nat :=
  ((opsOf s id).filter (fun o => o.what.countsStore && (o.gate || o.accs.any Access.unperformed))).length
    + ((s.engines.nears.filter (fun c => c.owner == id)).length)

/-- Whether an operation is a load in the sense of 02 R47. -/
def OpKind.isLoad : OpKind → Bool
  | .load _ | .loadv _ | .acq => true
  | _ => false

/-- Whether an operation is a plain store or that of a release. -/
def OpKind.isPosted : OpKind → Bool
  | .store | .rel => true
  | _ => false

/-- Whether an operation is a remote load (02 R47), or an access that fetches a staged unit (11 R322). -/
def Op.remoteLoad (o : Op) : Bool :=
  (o.remote && o.owes && o.what.isLoad) || ((o.what.isLoad || o.what.isPosted) && o.accs.any (fun a => a.kind == 4 && a.state == .switched))

/-- The in-flight count (02 R47): copy commands, near-memory commands and remote loads. -/
def inFlight (s : State) (id : StrandId) : Nat :=
  (s.engines.copies.filter (fun c => c.owner == id && c.handed.isNone && !c.posted)).length
    + (s.engines.nears.filter (fun c => c.owner == id)).length
    + ((opsOf s id).filter Op.remoteLoad).length

/-- The registers an operation will write: its destination and how many (08 R212, R233). -/
def Op.writes (o : Op) : List Nat :=
  if !o.holds then []
  else
    let n := match o.what with
      | .load wd | .loadv wd => (match wd with
        | .d => 2
        | .q => 4
        | _ => 1)
      | .atomic fn wide => if fn = .badd || wide then 2 else 1
      | .docProp | .docRead | .docReset | .docStat => 4
      | .acq | .acqrel | .watch _ _ _ => 1
      | .service _ nw => if nw then 0 else 1
      | _ => 0
    (List.range n).map (fun i => o.dst.toNat + i)

/-- Whether a register still waits for a load (06 R156). -/
def regBusy (s : State) (id : StrandId) (r : Nat) : Bool := (opsOf s id).any (fun o => o.writes.contains r)

/-! ### The program counter -/

/-- The number of words of a clause (06 R142). -/
def clauseLen (head : Word) : Nat := head.toNat / 2 ^ 28

/-- TF of a header. -/
def tfOf (head : Word) : Bool := head.getLsbD 10

/-- A code position (09 R287). -/
def posWord (hdr : BitVec 52) (widx : Nat) : DWord := BitVec.ofNat 64 (widx * 2 ^ 52 + hdr.toNat)

/-- The address of a fragment's next word. -/
def Fragment.wordAddr (f : Fragment) : BitVec 52 := f.hdr + BitVec.ofNat 52 (4 * f.widx)

/-- The header after a clause. -/
def Fragment.nextHeader (f : Fragment) : BitVec 52 := f.hdr + BitVec.ofNat 52 (4 * (clauseLen f.head + 1))

/-- A fragment continues at a code position; all latches read as zero (02 R35, 09 R287). -/
def Fragment.goto (hdr : BitVec 52) (widx : Nat) (f : Fragment) : Fragment :=
  { f with hdr := hdr, widx := widx, inClause := false, k := 0, begun := .no, wait := .ready, tickCap := none,
           heldPops := [], slot := false, latches := Vector.replicate 4 (.u 0), owed := [] }

/-- A fragment past an instruction of these words that ends its clause: to the following header. The implicit `tfence` of a
TF clause is still to come there, in the same issue slot (06 R147, R149; 14 R360; log 34). -/
def Fragment.pastEnd (ws : List Word) (f : Fragment) : Fragment :=
  let g := ({ f with last := ws } : Fragment).goto f.nextHeader 0
  if tfOf f.head then { g with tf := some ⟨f.head, ws⟩, slot := f.slot } else { g with tf := none }

/-- A fragment past an instruction of these words: to the next word, or to the following header at the end of the clause
(06 R143). -/
def Fragment.past (ws : List Word) (f : Fragment) : Fragment :=
  if clauseLen f.head < f.widx + ws.length then f.pastEnd ws
  else { f with last := ws, widx := f.widx + ws.length, k := f.k + 1, begun := .no, wait := .ready, heldPops := [] }

/-- The latch window of a fragment ends, and with it the captured half of `tick`; the latch that the instruction itself has
written stays (02 R36, 06 R155). -/
def Fragment.endWindow (own : Option Nat) (f : Fragment) : Fragment :=
  { f with latches := Vector.ofFn (fun i : Fin 4 => if own = some i.val then f.latches[i] else .u 0), tickCap := none,
           owed := f.owed.filter (fun p => own == some p.1) }

/-! ### Exceptions -/

/-- The cause codes (14 R350). -/
def causeCode : Cause → Nat
  | .illegalEncoding => 0x01
  | .privilege => 0x02
  | .alignment => 0x03
  | .arith => 0x04
  | .brk => 0x05
  | .promiseMissed => 0x06
  | .queueMisuse => 0x07
  | .tileOwner => 0x08
  | .docMisuse => 0x09
  | .operandMisuse => 0x0A
  | .engineMisuse => 0x0B
  | .translation => 0x10
  | .protection => 0x11
  | .leaseExpired => 0x12
  | .leaseRecalled => 0x13
  | .lenderLost => 0x14
  | .remoteFault => 0x15
  | .poison => 0x16
  | .tornLaunch => 0x17
  | .signatureMismatch => 0x18
  | .syscall => 0x19

/-- Whether a cause goes to the user handler (14 R350). -/
def toHandler (c : Cause) : Bool := decide (causeCode c < 0x10) || c == .syscall

/-- What an exception reports: its cause and detail, the 64 bits of TADDR, the threads that met it, the bits of R353 and
ARG of a fault-queue entry. -/
structure Report where
  cause : Cause
  detail : Nat := 0
  addr : DWord := 0
  threads : Mask := 0
  after : Bool := false
  defer : Bool := false
  arg : DWord := 0
  deriving DecidableEq, Repr

/-- `tcause` of a report, with HACT set (14 R353). -/
def tcauseWord (r : Report) : Word :=
  BitVec.ofNat 32 (2 ^ 31 + 2 ^ 17 * flag r.after + 2 ^ 16 * flag r.defer + 256 * (r.detail % 256) + causeCode r.cause)

/-- Whether the handler is active (14 R353). -/
def handlerActive (st : Strand) : Bool := st.trap.tcause.getLsbD 31

/-- `tvec` as 64 bits. -/
def tvecOf (st : Strand) : DWord := pair st.trap.tvec st.trap.tvech

/-- The ADDR field of a code position. -/
def posAddr (p : DWord) : BitVec 52 := p.setWidth 52

/-- The WIDX field of a code position. -/
def posWidx (p : DWord) : Nat := p.toNat / 2 ^ 52 % 16

/-- `emimm` (14 R354): the words of an instruction and its major opcode. -/
def emImm (ws : List Word) : Word :=
  let w := ws.headD 0
  let major := w.toNat / 2 ^ 26
  if (0x06 ≤ major && major ≤ 0x0A) || major == 0x25 || major == 0x26 then (w.setWidth 12).signExtend 32
  else if major == 0x0B || major == 0x37 || major == 0x38 then ws.getD 1 0
  else 0

/-- The emulation registers from an instruction and its header (14 R354). -/
def emulation (ws : List Word) (head : Word) (t : TrapRegs) : TrapRegs :=
  let w := ws.headD 0
  let x := w.toNat
  { t with emword := w, emop := BitVec.ofNat 32 (x / 2 ^ 26), emfn := BitVec.ofNat 32 (x % 32),
           emd := BitVec.ofNat 32 (field x 25 20), ema := BitVec.ofNat 32 (field x 18 12),
           emb := BitVec.ofNat 32 (field x 11 5), emc := BitVec.ofNat 32 (x % 32), emimm := emImm ws, emclause := head }

/-- The emulation registers for an illegal header (14 R354). -/
def emulationHeader (head : Word) (t : TrapRegs) : TrapRegs :=
  { t with emword := head, emop := 0, emfn := 0, emd := 0, ema := 0, emb := 0, emc := 0, emimm := 0, emclause := head }

/-- A word that the spec leaves open, the `k`th of a step: a free value (log 10). -/
def freeWord (s : State) (k : Nat) : Word :=
  BitVec.ofNat 32 (leNat ((List.range 4).map (fun i => Config.undetermined s.fresh (k + i))))

/-- A fragment that enters a handler keeps what is to come after it: an implicit `tfence`, the captured half of `tick` for the
clause it was in, and what it makes once more (06 R147, R155; 14 R346). -/
def Fragment.keep (g f : Fragment) : Fragment :=
  { g with tf := none, redo := [], kept := ⟨f.tf, f.hdr, f.tickCap, f.redo⟩ }

/-- A fragment that returns from a handler to a code position takes up again what it kept; the half of `tick` counts on only in
the clause it was captured in. -/
def Fragment.unkeep (f : Fragment) : Fragment :=
  { f with tf := f.kept.tf, tickCap := if f.hdr = f.kept.hdr && f.widx != 0 then f.kept.tickCap else none,
           redo := f.kept.redo, kept := ⟨none, 0, none, []⟩ }

/-- Entry into the user handler (14 R352): tepc, tcause, taddr and the emulation registers are written, and the fragment
continues at `tvec`, word index 0; `xm`, registers and flags stay. -/
def enterHandler (r : Report) (epc : DWord) (em : TrapRegs → TrapRegs) (s : State) : State :=
  let st := s.me
  let t := em { st.trap with tepc := loW epc, tepch := hiW epc, tcause := tcauseWord r, taddr := loW r.addr,
                             taddrh := hiW r.addr }
  { s with me := { st with trap := t, handler := some st.cur.id, cur := (st.cur.goto (posAddr (tvecOf st)) 0).keep st.cur } }

/-- WHERE of a fault-queue entry (14 R363). -/
def whereWord (st : Strand) (frag : Nat) : Word :=
  let fi := st.fragIndex frag % 32
  match st.place with
  | .none => 0
  | .vec core lane slot => BitVec.ofNat 32 (core + 2 ^ 8 * lane + 2 ^ 16 * slot + 2 ^ 19 * fi)
  | .ctl quad c => BitVec.ofNat 32 (2 ^ 24 + quad + 2 ^ 8 * c + 2 ^ 19 * fi)

/-- An entry's 64 bytes (14 R363). -/
def faultBytes (stamp : Nat) (e : FaultEntry) : List Byte :=
  leBytes 4 stamp ++ leBytes 4 (e.cause + 256 * e.detail + e.flags.toNat) ++ leBytes 4 e.handle ++ leBytes 4 e.strand
    ++ leBytes 4 e.whereW.toNat ++ leBytes 4 e.tmask.toNat ++ leBytes 8 e.epc.toNat ++ leBytes 8 e.addr.toNat
    ++ leBytes 8 e.arg.toNat ++ leBytes 4 e.func.toNat ++ leBytes 12 0

/-- Whether there is a fault-queue ring (14 R362). -/
def hasRing (s : State) : Bool := decide (4 ≤ s.kernel.fqsize.toNat % 32)

/-- Whether the ring has room. -/
def ringRoom (s : State) : Bool :=
  decide ((s.kernel.fqprod - s.kernel.fqcons).toNat < 2 ^ (s.kernel.fqsize.toNat % 32))

/-- An entry written into its slot, then `fqprod` advances (14 R362). -/
def storeFault (e : FaultEntry) (s : State) : State :=
  let k := s.kernel
  let p := k.fqprod.toNat
  let at_ := (pair k.fqbl k.fqbh).toNat + 64 * (p % 2 ^ (k.fqsize.toNat % 32))
  let s := if isLocal s at_ then poke (fabLocal at_) (faultBytes ((p + 1) % 2 ^ 32) e) s else s
  { s with kernel := { s.kernel with fqprod := s.kernel.fqprod + 1, written := tset s.kernel.written p (some e) } }

/-- An entry for the package kernel: into the ring, or behind those that wait for room; without a ring nothing is
written (14 R362). -/
def writeFault (e : FaultEntry) (s : State) : State :=
  if !hasRing s then s
  else if ringRoom s && s.kernel.waitingFaults.isEmpty then storeFault e s
  else { s with kernel := { s.kernel with waitingFaults := s.kernel.waitingFaults ++ [e] } }

/-- The number of the next entry. -/
def nextFault (s : State) : Nat := (s.kernel.fqprod.toNat + s.kernel.waitingFaults.length) % 2 ^ 32

/-- The executing fragment parks for the package kernel (14 R362): an entry is written, and the fragment issues nothing
until it is disposed of; without a ring the strand is to be killed. `flags` are INFO bits 16 and up. -/
def park (r : Report) (flags : Nat) (epc : DWord) (em : TrapRegs → TrapRegs) (func : Word) (causeNo : Nat) (s : State) :
    State :=
  let st := s.me
  let fl := flags + 2 ^ 16 * flag r.defer + 2 ^ 17 * flag r.after + 2 ^ 22 * flag (st.halted || st.stepping.isSome)
  let e : FaultEntry :=
    { cause := causeNo, detail := r.detail % 256, flags := BitVec.ofNat 32 fl, handle := st.who.id.handle,
      strand := reportIndex st.who.id, whereW := whereWord st st.cur.id, tmask := r.threads, epc := epc, addr := r.addr,
      arg := r.arg, func := func, parks := some (st.who.id, st.cur.id), em := em .zero, disp := none }
  let n := nextFault s
  let s := modCur (fun f => { f with wait := .parked n, begun := .no, heldPops := [], slot := false,
                                     latches := Vector.replicate 4 (.u 0), owed := [] }) s
  if hasRing s then writeFault e s else modMe (fun st => { st with killing := true }) s

/-- A cause as it is recorded for a fragment (14 R371). -/
def recorded (frag : Nat) (r : Report) (epc : DWord) (em : TrapRegs → TrapRegs) : Recorded :=
  { frag := frag, cause := r.cause, detail := r.detail, addr := r.addr, threads := r.threads, after := r.after,
    defer := r.defer, epc := epc, em := em .zero }

/-- Emulation registers that were kept, laid over the trap registers (14 R354). -/
def keptEmulation (e t : TrapRegs) : TrapRegs :=
  { t with emword := e.emword, emop := e.emop, emfn := e.emfn, emd := e.emd, ema := e.ema, emb := e.emb, emc := e.emc
           emimm := e.emimm, emclause := e.emclause }

/-- A handler cause that the executing fragment meets while another fragment of its strand is in the handler: it is held before
its instruction (14 R356). -/
def causeHeld (s : State) : Bool :=
  handlerActive s.me && s.me.handler != some s.me.cur.id && !s.me.halted

/-- The fragment is held before its instruction until the handler returns. -/
def holdCause (s : State) : State :=
  modCur (fun f => { f with wait := .held, begun := .no, heldPops := [], slot := false }) s

/-- A cause taken at an exact point of the executing fragment (14 R346–R364). A handler cause enters the user handler;
with the handler active in this fragment, or without a handler, it goes to the kernel as NESTED; with the handler
active in another fragment the fragment is held (R356). A kernel cause parks. While the debugger holds the strand a handler
cause is only recorded (R371). -/
def takeCause (r : Report) (epc : DWord) (em : TrapRegs → TrapRegs) (s : State) : State :=
  let st := s.me
  if toHandler r.cause then
    if st.halted then
      modMe (fun st => { st with
        stepping := if st.stepping = some st.cur.id then none else st.stepping
        reports := st.reports ++ [recorded st.cur.id r epc em] }) s
    else if handlerActive st then
      if st.handler = some st.cur.id then park r (2 ^ 18) epc em 0 (causeCode r.cause) s
      else holdCause s
    else if posAddr (tvecOf st) = 0 then park r (2 ^ 18) epc em 0 (causeCode r.cause) s
    else enterHandler r epc em s
  else park r 0 epc em 0 (causeCode r.cause) s

/-- A cause at the before point of an instruction whose words these are: nothing else has happened (14 R346). -/
def raiseBefore (ws : List Word) (r : Report) (s : State) : State :=
  takeCause r (posWord s.me.cur.hdr s.me.cur.widx) (emulation ws s.me.cur.head) s

/-- A cause at the after point: the pc already names the next instruction (14 R346). `head` is the header of the clause
the instruction stood in. -/
def raiseAfter (ws : List Word) (head : Word) (r : Report) (s : State) : State :=
  takeCause r (posWord s.me.cur.hdr s.me.cur.widx) (emulation ws head) s

/-- Return from the user handler (09 R287, 14 R357): HACT is cleared, the fragment continues at `tepc` with its mask, and
fragments held under R356 become ready. -/
def returnFromHandler (s : State) : State :=
  let st := s.me
  let p := pair st.trap.tepc st.trap.tepch
  let free := fun (f : Fragment) => if f.wait = .held then { f with wait := .ready } else f
  { s with me := { st with trap := { st.trap with tcause := st.trap.tcause &&& 0x7FFFFFFF#32 }, handler := none,
                           frags := st.frags.map free, cur := (st.cur.goto (posAddr p) (posWidx p)).unkeep } }

/-- The deferred cause of `psf` (14 R358): the record goes into the report and is cleared. -/
def causeOfCode (n : Nat) : Cause :=
  if n = 0x12 then .leaseExpired else if n = 0x14 then .lenderLost else if n = 0x16 then .poison else .remoteFault

/-- Whether ARG of a fault-queue entry holds a borrow-table index (14 R363): causes 0x12 to 0x14. -/
def leaseFault (c : Cause) : Bool := c == .leaseExpired || c == .leaseRecalled || c == .lenderLost

/-- The deferred cause raised before a releasing instruction (14 R358, R363). -/
def raiseDeferred (ws : List Word) (s : State) : State :=
  let st := s.me
  let c := causeOfCode (field st.psf.toNat 23 16)
  let r : Report := { cause := c, addr := st.psfAddr, threads := st.cur.mask, defer := true,
                      arg := if leaseFault c then BitVec.ofNat 64 st.psfArg else 0 }
  raiseBefore ws r { s with me := { st with psf := 0, psfAddr := 0, psfArg := 0 } }

/-- A failed posted write recorded in a strand's `psf`, with the address and the borrow entry of the first (14 R358, R363). -/
def recordPsf (c : Cause) (fab : DWord) (index : Nat) (st : Strand) : Strand :=
  let n := st.psf.toNat % 2 ^ 16
  if st.psf.getLsbD 31 then
    { st with psf := BitVec.ofNat 32 (2 ^ 31 + 2 ^ 30 + st.psf.toNat / 2 ^ 16 % 256 * 2 ^ 16 + min (n + 1) 0xFFFF) }
  else { st with psf := BitVec.ofNat 32 (2 ^ 31 + causeCode c * 2 ^ 16 + 1), psfAddr := fab, psfArg := index }

/-- A failure of a strand that has ended goes to the fault queue with ORPHAN set (14 R359). -/
def orphanFault (id : StrandId) (c : Cause) (addr : DWord) (index : Nat) (s : State) : State :=
  writeFault { cause := causeCode c, detail := 0, flags := BitVec.ofNat 32 (2 ^ 20), handle := id.handle,
               strand := reportIndex id, whereW := 0, tmask := 0, epc := 0, addr := addr,
               arg := if leaseFault c then BitVec.ofNat 64 index else 0, func := 0,
               parks := none, em := .zero, disp := none } s

/-- A posted write of a strand through a borrow entry, or 0, failed (14 R358, R359). -/
def postedFailure (id : StrandId) (c : Cause) (fab : DWord) (index : Nat) (s : State) : State :=
  match findStrand s id with
  | some _ => modStrand id (recordPsf c fab index) s
  | none => orphanFault id c fab index s

end Sys2Proof.Machine
end

