-- ==== Sys2Proof/Machine/Operands.lean ====
section
/-! DEFINITION. Operand forms: selectors, shape tags, queue pops, destinations and latches, and what every instruction does
at issue before its own effect and at retirement after it (02 R25–R38; 06 R149–R157; 14 R351, R358). -/

namespace Sys2Proof.Machine

/-! ### Values and tags -/

/-- A value in one thread (02 R25). -/
def RegVal.at (v : RegVal) (t : Fin 32) : Word :=
  match v with
  | .u x => x
  | .a b s => b + BitVec.ofNat 32 t.val * s
  | .g xs => xs[t]

/-- Whether a value is tagged U. -/
def RegVal.isU : RegVal → Bool
  | .u _ => true
  | _ => false

/-- The number of a tag (07 R193). -/
def RegVal.tagNo : RegVal → Nat
  | .u _ => 0
  | .a _ _ => 1
  | .g _ => 2

/-- A G value by thread. -/
def gOf (f : Fin 32 → Word) : RegVal := .g (Vector.ofFn f)

/-- The last rows of 02 R28: U when every source is U, else G. -/
def byTags (srcs : List RegVal) (f : Fin 32 → Word) : RegVal := if srcs.all RegVal.isU then .u (f 0) else gOf f

/-- The value a destination holds after a write under a mask (02 R30): with the full mask the result, otherwise G, active
threads new and inactive threads kept. -/
def merged (mask : Mask) (old new : RegVal) : RegVal :=
  if mask = BitVec.allOnes 32 then new else gOf (fun t => if mask.getLsbD t.val then new.at t else old.at t)

/-! ### Registers -/

/-- A register of the executing strand. -/
def reg (s : State) (r : Reg) : RegVal := vget s.me.regs r.toNat (.u 0)

/-- The next register of a pair or quad; one above `v63` does not exist (`beyond`). -/
def nextReg (r : Reg) (n : Nat) : Reg := r + BitVec.ofNat 6 n

/-- The numbers above 63 among the `n` registers from `r` on: no strand has such a register (02 R31, 06 R154). -/
def beyond (r : Reg) (n : Nat) : List Nat :=
  ((List.range n).map (fun i => r.toNat + i)).filter (fun x => decide (64 ≤ x))

/-- A value as its tag and its bytes as a number. -/
def RegVal.stored : RegVal → Nat
  | .u v => v.toNat
  | .a b t => b.toNat + 2 ^ 32 * t.toNat
  | .g xs => xs.toList.foldr (fun x n => x.toNat + 2 ^ 32 * n) 0

/-- What stands at a register, a predicate or a latch of a fragment of a strand. -/
def siteValue (st : Strand) (f : Fragment) (site : RegSite) : RegVal :=
  match site with
  | .reg r => vget st.regs r.toNat (.u 0)
  | .pred p => .u (vget st.preds p.val 0)
  | .latch n => vget f.latches n.toNat (.u 0)

/-- The entry of the operand log for what has just been written (16 R405). -/
def logEntry (st : Strand) (f : Fragment) (site : RegSite) : LogEntry :=
  let v := siteValue st f site
  ⟨st.who.id, site, f.id, v, Config.checkBits v.tagNo v.stored⟩

/-- A write in the operand log of the lane: what has just been written (16 R405). -/
def logWrite (site : RegSite) (s : State) : State :=
  let k := s.me.place.laneKey
  { s with opLog := tput s.opLog [] k ((logEntry s.me s.me.cur site :: tget s.opLog [] k).take 32) }

/-- The G registers resident in the general store, the most recent first, after a register is used (02 R31). -/
def touched (budget : Nat) (r : Reg) (v : RegVal) (l : List Reg) : List Reg :=
  let rest := l.filter (fun x => x != r)
  match v with
  | .g _ => (r :: rest).take budget
  | _ => rest

/-- A strand with a register holding a value. -/
def Strand.setReg (r : Reg) (v : RegVal) (st : Strand) : Strand :=
  { st with regs := vset st.regs r.toNat v, resident := touched st.allotG r v st.resident }

/-- A register of the executing strand written whole. -/
def putReg (r : Reg) (v : RegVal) (s : State) : State := logWrite (.reg r) (modMe (Strand.setReg r v) s)

/-- A register written under the executing mask. -/
def writeReg (r : Reg) (v : RegVal) (s : State) : State := putReg r (merged s.me.cur.mask (reg s r) v) s

/-- A register read: a spilled one comes back into the general store (02 R31). -/
def useReg (r : Reg) (s : State) : State :=
  modMe (fun st => { st with resident := match vget st.regs r.toNat (.u 0) with
    | .g xs => touched st.allotG r (.g xs) st.resident
    | _ => st.resident }) s

/-- A predicate as a mask; number 7 is true (07 R181). -/
def predMask (s : State) (p : PredNo) : Mask := if p = 7 then BitVec.allOnes 32 else vget s.me.preds p.toNat 0

/-- Predicate bits of the active threads written (02 R33). -/
def writePred (p : PredNo) (m : Mask) (s : State) : State :=
  let x := s.me.cur.mask
  let old := predMask s p
  if h : p.toNat < 7 then
    logWrite (.pred ⟨p.toNat, h⟩)
      (modMe (fun st => { st with preds := vset st.preds p.toNat ((m &&& x) ||| (old &&& ~~~x)) }) s)
  else s

/-- The latch of the instruction in the clause: b(k mod 4) (02 R35). -/
def writeLatch (v : RegVal) (s : State) : State :=
  let n := s.me.cur.k % 4
  logWrite (.latch (BitVec.ofNat 2 n)) (modCur (fun f => { f with latches := vset f.latches n v, owed := f.owed.filter (fun p => p.1 != n) }) s)

/-- A vector result: the latch takes the value the destination holds after, and NW suppresses the register (02 R33,
R35). -/
def writeVec (d : Reg) (nw : Bool) (v : RegVal) (s : State) : State :=
  let m := merged s.me.cur.mask (reg s d) v
  let s := writeLatch m s
  if nw then s else putReg d m s

/-- A pair result; the latch takes the low register's value (06 R152). -/
def writePair (d : Reg) (nw : Bool) (lo hi : RegVal) (s : State) : State :=
  let m := merged s.me.cur.mask (reg s d) lo
  let n := merged s.me.cur.mask (reg s (nextReg d 1)) hi
  let s := writeLatch m s
  if nw then s else putReg (nextReg d 1) n (putReg d m s)

/-! ### Selectors (06 R153) -/

/-- The number selectors and identity registers of a place (01 R15; 02 R430). -/
def idLane (p : Place) : Word :=
  match p with
  | .vec _ lane _ => BitVec.ofNat 32 lane
  | .ctl _ c => BitVec.ofNat 32 c
  | _ => 0

/-- The core number; a control context reads 0xFFFF_FFFF (02 R430). -/
def idCore (p : Place) : Word :=
  match p with
  | .vec core _ _ => BitVec.ofNat 32 core
  | .ctl _ _ => 0xFFFFFFFF
  | _ => 0

/-- An FP32 constant selector. -/
def fltConst (n : BitVec 3) : Word :=
  let mag : Word := match n.toNat % 4 with
    | 0 => 0x3F000000
    | 1 => 0x3F800000
    | 2 => 0x40000000
    | _ => 0x40800000
  if n.toNat < 4 then mag else mag ||| 0x80000000

/-- The value of a selector that is no queue pop (06 R153; tags by 02 R28). -/
def selVal (s : State) (x : Sel) : RegVal :=
  match x with
  | .reg r => reg s r
  | .latch n => vget s.me.cur.latches n.toNat (.u 0)
  | .queue _ => .u 0
  | .tid => .a 0 1
  | .sid => .u (BitVec.ofNat 32 s.me.who.sid)
  | .blkX => .u s.me.who.blockX
  | .blkY => .u s.me.who.blockY
  | .blkZ => .u s.me.who.blockZ
  | .lane => .u (idLane s.me.place)
  | .core => .u (idCore s.me.place)
  | .quad => .u (BitVec.ofNat 32 s.me.place.quad)
  | .die => .u (BitVec.ofNat 32 s.me.place.die)
  | .pkg => .u (BitVec.ofNat 32 (pkgNo s))
  | .tick => .u (loW s.tick)
  | .tickh => .u (hiW s.tick)
  | .xm => .u s.me.cur.mask
  | .int n => .u (n.setWidth 32)
  | .neg n => .u (0 - 1 - n.setWidth 32)
  | .flt n => .u (fltConst n)

/-- The registers a list of selectors names. -/
def selRegs (l : List Sel) : List Reg := l.filterMap (fun x => match x with
  | .reg r => some r
  | _ => none)

/-- The queue registers a list of selectors pops, in the order a, b, c (02 R38). -/
def selPops (l : List Sel) : List QNo := l.filterMap (fun x => match x with
  | .queue q => some q
  | _ => none)

/-! ### Named queues in scratch (08 R247–R251) -/

/-- The binding of `q4`–`q15`. -/
def binding (st : Strand) (q : QNo) : Option Binding := (vget st.binds (q.toNat - 4) none)

/-- A binding replaced. -/
def setBinding (q : QNo) (b : Option Binding) (st : Strand) : Strand :=
  { st with binds := vset st.binds (q.toNat - 4) b }

/-- Where a core's scratchpad begins among the scratchpads; the regions on one core lie 4 MiB apart in it (log 17). -/
def coreBase (core : Nat) : Nat := core * 2 ^ 40

/-- Where byte `off` of the quad space lies in the core scratchpads (04 R88). -/
def quadByte (r : QuadRegion) (off : Nat) : Nat :=
  coreBase (r.quad * 4 + off / 256 % 4) + r.base + 256 * (off / 1024) + off % 256

/-- The address in the core scratchpads of a byte of a strand's core or quad space, if it lies in the region (04 R87). -/
def scratchAddr (s : State) (st : Strand) (quadSpace : Bool) (off : Nat) : Option Nat :=
  if quadSpace then
    match regionOf s st.who.id.handle st.place.quad st.who.twin with
    | some r => if off < r.size then some (quadByte r off) else none
    | none => none
  else
    match blockOf s st with
    | some b => if off < b.size then some (coreBase b.core + b.base + off) else none
    | none => none

/-- A word of a strand's core or quad space; a word outside the region reads zero. -/
def scratchWord (s : State) (st : Strand) (quadSpace : Bool) (off : Nat) : Nat :=
  match scratchAddr s st quadSpace off with
  | some a => memNat s.mem.scratch a 4
  | none => 0

/-- A word of it written; one outside the region is dropped (log 95). -/
def setScratchWord (st : Strand) (quadSpace : Bool) (off v : Nat) (s : State) : State :=
  match scratchAddr s st quadSpace off with
  | some a => { s with mem := { s.mem with scratch := memWrite s.mem.scratch a (leBytes 4 v) } }
  | none => s

/-- A field of a queue descriptor (08 R247): 0 HEAD, 4 TAIL, 8 ALLOW, 12 CFG, 16 RING, 20 BINDS. -/
def qField (s : State) (st : Strand) (b : Binding) (f : Nat) : Nat := scratchWord s st b.quadSpace (b.offset.toNat + f)

/-- A field written. -/
def setQField (st : Strand) (b : Binding) (f v : Nat) (s : State) : State :=
  setScratchWord st b.quadSpace (b.offset.toNat + f) v s

/-- The entries of a queue. -/
def qCount (s : State) (st : Strand) (b : Binding) : Nat := (qField s st b 4 + 2 ^ 32 - qField s st b 0) % 2 ^ 32

/-- The number of slots: bits 8:0 of CFG as they stand, 0 as 1 (log 95). -/
def qSlots (s : State) (st : Strand) (b : Binding) : Nat := max 1 (qField s st b 12 % 512)

/-- Whether the queue is marked abandoned. -/
def qAbandoned (s : State) (st : Strand) (b : Binding) : Bool := bit (qField s st b 12) 16

/-- The entry of an index. -/
def qEntry (s : State) (st : Strand) (b : Binding) (i : Nat) : Word :=
  BitVec.ofNat 32 (scratchWord s st b.quadSpace (qField s st b 16 + 4 * (i % qSlots s st b)))

/-- Whether a pop of an empty queue gives zero because its producers are gone (08 R251, 16 R410). -/
def qDead (s : State) (st : Strand) (b : Binding) : Bool :=
  qAbandoned s st b && qField s st b 20 % 2 ^ 16 == 0 && qCount s st b == 0

/-- Where the descriptor of a queue register's ring lies: two registers bound to one descriptor name one ring. -/
def ringOf (s : State) (st : Strand) (q : QNo) : Option (Option Nat) :=
  (binding st q).map (fun b => scratchAddr s st b.quadSpace b.offset.toNat)

/-- Whether the pop of a queue register of the executing fragment gives zero because its producers are gone: as they are when
the instruction is issued, which one that waits in its course goes by (08 R251). -/
def popDead (s : State) (q : QNo) (b : Binding) : Bool :=
  if s.me.cur.begun = .no then qDead s s.me b else s.me.cur.deadPops.contains q

/-- Those of some queue registers whose producers are gone. -/
def deadOnes (s : State) (pops : List QNo) : List QNo := pops.filter (fun q => match binding s.me q with
  | some b => popDead s q b
  | none => false)

/-- Whether another fragment holds entries of the same ring (02 R38). -/
def ringHeld (s : State) (b : Binding) : Bool :=
  let here := scratchAddr s s.me b.quadSpace b.offset.toNat
  (strandsOf s).any (fun st => st.all.any (fun f =>
    !(st.who.id == s.me.who.id && f.id == s.me.cur.id) &&
    f.heldPops.any (fun q => !f.deadPops.contains q && match binding st q with
      | some c => scratchAddr s st c.quadSpace c.offset.toNat == here
      | none => false)))

/-- What stands against popping these queue registers: nothing, a misuse, or a wait (02 R38; 14 R355). -/
inductive PopCheck where
  | fine
  | misuse (q : QNo) (detail : Nat)
  | wait (q : QNo)
  deriving DecidableEq, Repr

/-- The check of the pops of one instruction. -/
def popCheck (s : State) (pops : List QNo) : PopCheck :=
  match pops.find? (fun q => match binding s.me q with
      | some b => !b.consumer
      | none => true) with
  | some q => .misuse q (if (binding s.me q).isNone then 1 else 3)
  | none =>
    match pops.find? (fun q => match binding s.me q with
        | some b => !qDead s s.me b &&
            (decide (qCount s s.me b < (pops.filter (fun x => ringOf s s.me x == ringOf s s.me q)).length) || ringHeld s b)
        | none => false) with
    | some q => .wait q
    | none => .fine

/-- The value of the pop of field `n` of the fields' selectors: the oldest entry to the first field (02 R38). -/
def popValue (s : State) (before : List Sel) (q : QNo) : RegVal :=
  match binding s.me q with
  | some b =>
    if popDead s q b then .u 0
    else .u (qEntry s s.me b (qField s s.me b 0 + ((selPops before).filter (fun x => ringOf s s.me x == ringOf s s.me q)).length))
  | none => .u 0

/-- The values of an instruction's selectors, in order. -/
def selVals (s : State) : List Sel → List Sel → List RegVal
  | _, [] => []
  | before, x :: r => (match x with
      | .queue q => popValue s before q
      | y => selVal s y) :: selVals s (before ++ [x]) r

/-- One pop of a resident strand made: HEAD advances, or the AB bit of a queue that was found `dead` is set (02 R38, 08
R251). -/
def commitPopOf (id : StrandId) (dead : List QNo) (q : QNo) (s : State) : State :=
  match findStrand s id with
  | none => s
  | some st =>
    match binding st q with
    | some b =>
      if dead.contains q then
        modStrand id (fun st => { st with qstatus := st.qstatus ||| BitVec.ofNat 32 (2 ^ q.toNat) }) s
      else setQField st b 0 ((qField s st b 0 + 1) % 2 ^ 32) s
    | none => s

/-- One pop of the executing strand made: HEAD advances, or the AB bit of an abandoned queue is set (02 R38, 08 R251). -/
def commitPop (q : QNo) (s : State) : State :=
  match binding s.me q with
  | some b =>
    if popDead s q b then modMe (fun st => { st with qstatus := st.qstatus ||| BitVec.ofNat 32 (2 ^ q.toNat) }) s
    else setQField s.me b 0 ((qField s s.me b 0 + 1) % 2 ^ 32) s
  | none => s

/-! ### Issue -/

/-- What an instruction asks at issue. `regs` are the registers it names, `uses` those of them whose values it reads (02 R31),
and `sels` its selectors in field order; `words`
its encoding; `priv` the register or function number that the context may not use (06 R163, 09 R289); `beyond` the register numbers above 63
that a quad or pair reaches (06 R154); `misuse` the OPERAND_MISUSE that comes before a misused queue (14 R351). -/
structure Need where
  words : List Word
  regs : List Reg := []
  uses : List Reg := []
  sels : List Sel := []
  dst : Option Reg := none
  transfer : Bool := false
  onCtl : Bool := false
  releasing : Bool := false
  acts : Bool := false
  blocking : Bool := false
  tileOrder : Bool := false
  memory : Bool := false
  priv : Option Nat := none
  beyond : List Nat := []
  misuse : Option Report := none

/-- Whether a word at the executing position is an illegal encoding for where it stands (06 R143, R149, R157). -/
def misplaced (n : Need) (s : State) : Bool :=
  let f := s.me.cur
  let last := f.widx + n.words.length - 1
  decide (clauseLen f.head < last) || (n.transfer && last != clauseLen f.head) || (n.onCtl && !s.me.place.isCtl)

/-- The first named register that does not exist for the strand (02 R31; 14 R355). -/
def badReg (n : Need) (s : State) : Option Nat :=
  ((n.regs ++ selRegs n.sels).map (fun r => r.toNat) ++ n.beyond).find? (fun r => decide (s.me.allotV ≤ r))

/-- Whether an earlier `fence` or acquire of the strand holds a later memory instruction at issue (08 R220, R221). -/
def memoryHeld (s : State) : Bool :=
  (opsOf s s.me.who.id).any (fun o => match o.what with
    | .fence => true
    | .acq | .acqrel => o.holds
    | .atomic _ _ | .docProp | .docReset | .docRead | .docStat => o.scope != .lane && o.holds
    | _ => false)

/-- Whether a `tgive` of the strand has not flipped its tile (09 R259). -/
def givesPending (s : State) : Bool :=
  s.engines.controls.any (fun p => p.2.gives.any (fun g => g.2.2.1 == s.me.who.id))

/-- Whether an instruction reads a latch that a service call has still to write (02 R35). -/
def latchOwed (n : Need) (s : State) : Bool :=
  n.sels.any (fun x => match x with
    | .latch b => s.me.cur.owed.any (fun p => p.1 == b.toNat)
    | _ => false)

/-- Whether a register that the instruction names waits for a load, under whatever mask (06 R156). -/
def regsHeld (n : Need) (s : State) : Bool := (n.regs ++ selRegs n.sels).any (fun r => regBusy s s.me.who.id r.toNat)

/-- Whether the instruction is held at issue: the register interlock (06 R156) and the orders of 08 R220, R221 and
09 R259. -/
def heldAtIssue (n : Need) (s : State) : Bool :=
  regsHeld n s || latchOwed n s
    || (n.memory && memoryHeld s) || (n.tileOrder && givesPending s)

/-- Whether the fragment in the issue slot may issue at all; a fenced package stops every strand (15 R390). -/
def mayIssue (s : State) : Bool :=
  s.me.here && s.me.cur.wait == .ready && s.me.cur.inClause && s.me.cur.slot
    && s.me.mayGo s.me.cur.id && s.mem.mode != .fenced

/-- The implicit `tfence` of a TF clause before the transfer that ends it (06 R147, 14 R360): whether it still waits (log 47). -/
def tfWaits (s : State) : Bool :=
  outLoads s s.me.who.id != 0 ||
    (match s.me.place with
     | .ctl q c => !(controlAt s (ctlKey q c)).queue.isEmpty
     | _ => false)

/-- The fragment past an instruction that has retired: a blocking one, or one with a pop, ends the latch window but for the
latch it has written itself (02 R35, R36). -/
def Fragment.after (n : Need) (f : Fragment) : Fragment :=
  (if (selPops n.sels).isEmpty && !n.blocking then f else f.endWindow (n.dst.map (fun _ => f.k % 4))).past n.words

/-- A fragment past an instruction that has retired: its pops are made and the pc names the next word (02 R38). -/
def retire (n : Need) (s : State) : State :=
  let s := (selPops n.sels).foldl (fun s q => commitPop q s) s
  modCur (Fragment.after n) s

/-- The instruction under an empty mask: its latch is written with the kept value, it ends the latch window where its kind
does, and nothing else happens (02 R34–R36; log 55). -/
def emptyIssue (n : Need) (s : State) : State :=
  let s := match n.dst with
    | some d => writeLatch (merged s.me.cur.mask (reg s d) (reg s d)) s
    | none => s
  modCur (Fragment.after n) s

/-- What every instruction does at issue, in the order of 14 R351: illegal encodings, PRIVILEGE, the deferred cause
of a releasing instruction, the empty mask (after the register interlock alone), registers at or above V, the interlock, queue
pops; then its own effect `k` on the values of
its selectors. An instruction that has begun and waited goes on in its own effect. -/
def issue (n : Need) (s : State) (k : List RegVal → State → State) : State :=
  if !mayIssue s then s
  else if s.me.cur.begun != .no then k (selVals s [] n.sels) s
  else if misplaced n s then raiseBefore n.words { cause := .illegalEncoding, threads := s.me.cur.mask } s
  else if s.me.cur.mask != 0 && n.priv.isSome then
    raiseBefore n.words { cause := .privilege, addr := BitVec.ofNat 64 (n.priv.getD 0), threads := s.me.cur.mask } s
  else if n.releasing && s.me.psf.getLsbD 31 then raiseDeferred n.words s
  else if s.me.cur.mask = 0 then
    (if regsHeld n s then s else if n.acts then k (selVals s [] n.sels) s else emptyIssue n s)
  else match badReg n s with
    | some r => raiseBefore n.words { cause := .operandMisuse, detail := 1, addr := BitVec.ofNat 64 r,
                                      threads := s.me.cur.mask } s
    | none =>
      if heldAtIssue n s then s
      else
        let pops := selPops n.sels
        match popCheck s pops with
        | .misuse q d => raiseBefore n.words (n.misuse.getD { cause := .queueMisuse, detail := d,
                                                              addr := BitVec.ofNat 64 q.toNat, threads := s.me.cur.mask }) s
        | .wait q => modCur (fun f => { f with wait := .pop q, slot := false }) s
        | .fine =>
          let vals := selVals s [] n.sels
          let s := (n.uses ++ selRegs n.sels).foldl (fun s r => useReg r s) s
          k vals s

/-- The instruction waits at its place: entries it would pop stay in their rings for it (02 R36, R38). -/
def waitHere (n : Need) (w : Wait) (b : Begun) (s : State) : State :=
  modCur (fun f => { f with wait := w, begun := b, heldPops := selPops n.sels, deadPops := deadOnes s (selPops n.sels), slot := false }) s

/-- An instruction with a vector result and no other effect: its flags, its destination, its retirement. -/
def vecOp (i : Instr) (d : Reg) (nw : Bool) (sels : List Sel) (res : State → List RegVal → RegVal × FlagSet)
    (s : State) : State :=
  let n : Need := { words := encodeWords i, regs := [d], sels := sels, dst := some d }
  issue n s (fun vals s =>
    let r := res s vals
    retire n (raiseFlags r.2 (writeVec d nw r.1 s)))

/-- The flags of the active threads merged (05 R125). -/
def activeFlags (m : Mask) (f : Fin 32 → FlagSet) : FlagSet := (threads m).foldl (fun x t => x.join (f t)) noFlags

/-- A result taken thread by thread, without flags, tagged by the last rows of 02 R28. -/
def perThread (f : List Word → Word) : State → List RegVal → RegVal × FlagSet :=
  fun _ vals => (byTags vals (fun t => f (vals.map (fun v => v.at t))), noFlags)

/-- A result taken thread by thread with flags. -/
def perThreadF (f : State → List Word → Nat × FlagSet) : State → List RegVal → RegVal × FlagSet :=
  fun s vals =>
    let r := fun (t : Fin 32) => f s (vals.map (fun v => v.at t))
    (byTags vals (fun t => BitVec.ofNat 32 (r t).1), activeFlags s.me.cur.mask (fun t => (r t).2))

/-- An instruction with a pair result. -/
def pairOp (i : Instr) (d : Reg) (nw : Bool) (regs : List Reg) (sels : List Sel)
    (res : State → List RegVal → RegVal × RegVal × FlagSet) (s : State) : State :=
  let n : Need := { words := encodeWords i, regs := [d, nextReg d 1] ++ regs, uses := regs, sels := sels, dst := some d }
  issue n s (fun vals s =>
    let r := res s vals
    retire n (raiseFlags r.2.2 (writePair d nw r.1 r.2.1 s)))

/-- The 64-bit value of a register pair in one thread. -/
def pairAt (s : State) (r : Reg) (t : Fin 32) : DWord := pair ((reg s r).at t) ((reg s (nextReg r 1)).at t)

/-- An instruction that writes a predicate from a bit for each thread. -/
def predOp (i : Instr) (pd : PredNo) (regs : List Reg) (sels : List Sel)
    (res : State → List RegVal → Fin 32 → Bool) (s : State) : State :=
  let n : Need := { words := encodeWords i, regs := regs, uses := regs, sels := sels }
  issue n s (fun vals s =>
    retire n (writePred pd (maskOf (res s vals)) s))

/-- The combine of a compare with the predicate it writes (06 R159, 07 R179). -/
def combinePred (c : Combine) (old new : Bool) : Bool :=
  match c with
  | .set => new
  | .and => old && new
  | .or => old || new

/-- The value of operand `n` in thread `t`. -/
def opnd (vals : List RegVal) (n : Nat) (t : Fin 32) : Word := (vals.getD n (.u 0)).at t

/-- The value of operand `n` at the lowest active thread. -/
def low (s : State) (vals : List RegVal) (n : Nat) : Word := opnd vals n (lowest s.me.cur.mask)

end Sys2Proof.Machine
end

