-- ==== Sys2Proof/Machine/Alu.lean ====
section
/-! DEFINITION. Majors 0x01–0x0F: integer, immediate, address, compare, 64-bit and predicate instructions (07 R172–R182).
None of them sets a flag. -/

namespace Sys2Proof.Machine

/-- The answer of a meaning: always a next state (14: every cause is taken). -/
abbrev Out := Host.Outcome State Fault Refusal

/-! ### Functions of 07 R172–R175 -/

/-- `imulh` and `nmulh`: the high words of the products. -/
def mulhS (a b : Word) : Word := ((a.signExtend 64 * b.signExtend 64) >>> 32).setWidth 32

/-- `nmulh`. -/
def mulhU (a b : Word) : Word := ((a.setWidth 64 * b.setWidth 64) >>> 32).setWidth 32

/-- 1 for true. -/
def boolW (b : Bool) : Word := if b then 1 else 0

/-- Signed minimum and maximum. -/
def minS (a b : Word) : Word := if a.toInt ≤ b.toInt then a else b

/-- Signed maximum. -/
def maxS (a b : Word) : Word := if a.toInt ≤ b.toInt then b else a

/-- Unsigned minimum. -/
def minU (a b : Word) : Word := if a.toNat ≤ b.toNat then a else b

/-- Unsigned maximum. -/
def maxU (a b : Word) : Word := if a.toNat ≤ b.toNat then b else a

/-- `shl`: 0 for counts of 32 or more. -/
def shlW (a b : Word) : Word := if 32 ≤ b.toNat then 0 else a <<< b.toNat

/-- `shr`. -/
def shrW (a b : Word) : Word := if 32 ≤ b.toNat then 0 else a >>> b.toNat

/-- `sar`: the sign for counts of 32 or more. -/
def sarW (a b : Word) : Word :=
  if 32 ≤ b.toNat then (if a.getLsbD 31 then 0xFFFFFFFF else 0) else a.sshiftRight b.toNat

/-- `rotl`. -/
def rotlW (a b : Word) : Word := a.rotateLeft (b.toNat % 32)

/-- The position and effective length of a bit field (07 R173). -/
def fieldSpec (spec : Word) : Nat × Nat :=
  let p := spec.toNat % 32
  (p, min (spec.toNat / 256 % 64) (32 - p))

/-- `bfx`. -/
def bfxW (a spec : Word) : Word :=
  let (p, l) := fieldSpec spec
  BitVec.ofNat 32 (a.toNat / 2 ^ p % 2 ^ l)

/-- `bfxs`. -/
def bfxsW (a spec : Word) : Word :=
  let (p, l) := fieldSpec spec
  if l = 0 then 0 else BitVec.ofInt 32 (sgn l (a.toNat / 2 ^ p))

/-- `bfi`. -/
def bfiW (a b spec : Word) : Word :=
  let (p, l) := fieldSpec spec
  let m : Word := BitVec.ofNat 32 ((2 ^ l - 1) * 2 ^ p)
  (a &&& ~~~m) ||| ((b <<< p) &&& m)

/-- Byte `i` of a word. -/
def byteOf (a : Word) (i : Nat) : Byte := (a >>> (8 * i)).setWidth 8

/-- A word from its four bytes. -/
def ofFour (b0 b1 b2 b3 : Byte) : Word := b3 ++ b2 ++ b1 ++ b0

/-- One byte of `perm` (07 R174). -/
def permByte (a : Word) (sel : Nat) : Byte :=
  if sel < 4 then byteOf a sel
  else if sel < 8 then (if (byteOf a (sel - 4)).getLsbD 7 then 0xFF else 0)
  else 0

/-- `perm`. -/
def permW (a b : Word) : Word :=
  ofFour (permByte a (b.toNat % 16)) (permByte a (b.toNat / 16 % 16)) (permByte a (b.toNat / 256 % 16))
    (permByte a (b.toNat / 4096 % 16))

/-- `iabsd`. -/
def absdW (a b : Word) : Word := BitVec.ofNat 32 (a.toInt - b.toInt).natAbs

/-- `clz`: 32 for zero. -/
def clzW (a : Word) : Word := BitVec.ofNat 32 (if a = 0 then 32 else 31 - Nat.log2 a.toNat)

/-- `brev`. -/
def brevW (a : Word) : Word := a.reverse

/-- `ctz`: 32 for zero. -/
def ctzW (a : Word) : Word := clzW (brevW a)

/-- `bswap`. -/
def bswapW (a : Word) : Word := ofFour (byteOf a 3) (byteOf a 2) (byteOf a 1) (byteOf a 0)

/-- A condition on signed values (06 R159). -/
def condS (c : Cond) (a b : Word) : Bool :=
  match c with
  | .eq => a == b
  | .ne => a != b
  | .lt => decide (a.toInt < b.toInt)
  | .le => decide (a.toInt ≤ b.toInt)
  | .gt => decide (b.toInt < a.toInt)
  | .ge => decide (b.toInt ≤ a.toInt)

/-- A condition on unsigned values. -/
def condU (c : Cond) (a b : Word) : Bool :=
  match c with
  | .eq => a == b
  | .ne => a != b
  | .lt => decide (a.toNat < b.toNat)
  | .le => decide (a.toNat ≤ b.toNat)
  | .gt => decide (b.toNat < a.toNat)
  | .ge => decide (b.toNat ≤ a.toNat)

/-! ### Affine results (02 R28, R29) -/

/-- The first two operands of an instruction. -/
def two (vals : List RegVal) : RegVal × RegVal := (vals.getD 0 (.u 0), vals.getD 1 (.u 0))

/-- A sum: A with A, or A with U, is A. -/
def addVal (a b : RegVal) : RegVal :=
  match a, b with
  | .a x s, .a y t => .a (x + y) (s + t)
  | .a x s, .u y => .a (x + y) s
  | .u x, .a y t => .a (x + y) t
  | a, b => byTags [a, b] (fun t => a.at t + b.at t)

/-- A difference. -/
def subVal (a b : RegVal) : RegVal :=
  match a, b with
  | .a x s, .a y t => .a (x - y) (s - t)
  | .a x s, .u y => .a (x - y) s
  | .u x, .a y t => .a (x - y) (0 - t)
  | a, b => byTags [a, b] (fun t => a.at t - b.at t)

/-- A product: A with U is A. -/
def mulVal (a b : RegVal) : RegVal :=
  match a, b with
  | .a x s, .u y => .a (x * y) (s * y)
  | .u x, .a y t => .a (x * y) (x * t)
  | a, b => byTags [a, b] (fun t => a.at t * b.at t)

/-- A left shift: A by a U count is A. -/
def shlVal (a b : RegVal) : RegVal :=
  match a, b with
  | .a x s, .u k => .a (shlW x k) (shlW s k)
  | a, b => byTags [a, b] (fun t => shlW (a.at t) (b.at t))

/-- `lea`: U or A for both, not both U, is A. -/
def leaVal (sh : Nat) (a b : RegVal) : RegVal :=
  let k : Word := BitVec.ofNat 32 sh
  match a, b with
  | .u x, .u y => .u (x + shlW y k)
  | .g x, b => gOf (fun t => (RegVal.g x).at t + shlW (b.at t) k)
  | a, .g y => gOf (fun t => a.at t + shlW ((RegVal.g y).at t) k)
  | a, b => addVal a (shlVal b (.u k))

/-- A binary instruction without flags. -/
def bin (f : Word → Word → Word) : State → List RegVal → RegVal × FlagSet :=
  fun _ vals => (byTags vals (fun t => f (opnd vals 0 t) (opnd vals 1 t)), noFlags)

/-- A unary instruction without flags. -/
def un (f : Word → Word) : State → List RegVal → RegVal × FlagSet :=
  fun _ vals => (byTags vals (fun t => f (opnd vals 0 t)), noFlags)

/-- A binary instruction on tagged values. -/
def binVal (f : RegVal → RegVal → RegVal) : State → List RegVal → RegVal × FlagSet :=
  fun _ vals => (f (two vals).1 (two vals).2, noFlags)

/-! ### Majors 0x01 and 0x02 -/

/-- `iadd` (07 R172). -/
def execIadd (d : Reg) (nw : Bool) (a b : Sel) (s : State) : Out :=
  .next (vecOp (.iadd d nw a b) d nw [a, b] (binVal addVal) s)

/-- `isub` (07 R172). -/
def execIsub (d : Reg) (nw : Bool) (a b : Sel) (s : State) : Out :=
  .next (vecOp (.isub d nw a b) d nw [a, b] (binVal subVal) s)

/-- `imul` (07 R172). -/
def execImul (d : Reg) (nw : Bool) (a b : Sel) (s : State) : Out :=
  .next (vecOp (.imul d nw a b) d nw [a, b] (binVal mulVal) s)

/-- `imulh` (07 R172). -/
def execImulh (d : Reg) (nw : Bool) (a b : Sel) (s : State) : Out :=
  .next (vecOp (.imulh d nw a b) d nw [a, b] (bin mulhS) s)

/-- `nmulh` (07 R172). -/
def execNmulh (d : Reg) (nw : Bool) (a b : Sel) (s : State) : Out :=
  .next (vecOp (.nmulh d nw a b) d nw [a, b] (bin mulhU) s)

/-- `iaddc` (07 R172). -/
def execIaddc (d : Reg) (nw : Bool) (a b : Sel) (s : State) : Out :=
  .next (vecOp (.iaddc d nw a b) d nw [a, b] (bin (fun a b => boolW (decide (2 ^ 32 ≤ a.toNat + b.toNat)))) s)

/-- `isubb` (07 R172). -/
def execIsubb (d : Reg) (nw : Bool) (a b : Sel) (s : State) : Out :=
  .next (vecOp (.isubb d nw a b) d nw [a, b] (bin (fun a b => boolW (decide (a.toNat < b.toNat)))) s)

/-- `imin` (07 R172). -/
def execImin (d : Reg) (nw : Bool) (a b : Sel) (s : State) : Out :=
  .next (vecOp (.imin d nw a b) d nw [a, b] (bin minS) s)

/-- `imax` (07 R172). -/
def execImax (d : Reg) (nw : Bool) (a b : Sel) (s : State) : Out :=
  .next (vecOp (.imax d nw a b) d nw [a, b] (bin maxS) s)

/-- `nmin` (07 R172). -/
def execNmin (d : Reg) (nw : Bool) (a b : Sel) (s : State) : Out :=
  .next (vecOp (.nmin d nw a b) d nw [a, b] (bin minU) s)

/-- `nmax` (07 R172). -/
def execNmax (d : Reg) (nw : Bool) (a b : Sel) (s : State) : Out :=
  .next (vecOp (.nmax d nw a b) d nw [a, b] (bin maxU) s)

/-- `and` (07 R172). -/
def execAnd (d : Reg) (nw : Bool) (a b : Sel) (s : State) : Out :=
  .next (vecOp (.and d nw a b) d nw [a, b] (bin (fun a b => a &&& b)) s)

/-- `or` (07 R172). -/
def execOr (d : Reg) (nw : Bool) (a b : Sel) (s : State) : Out :=
  .next (vecOp (.or d nw a b) d nw [a, b] (bin (fun a b => a ||| b)) s)

/-- `xor` (07 R172). -/
def execXor (d : Reg) (nw : Bool) (a b : Sel) (s : State) : Out :=
  .next (vecOp (.xor d nw a b) d nw [a, b] (bin (fun a b => a ^^^ b)) s)

/-- `andn` (07 R172). -/
def execAndn (d : Reg) (nw : Bool) (a b : Sel) (s : State) : Out :=
  .next (vecOp (.andn d nw a b) d nw [a, b] (bin (fun a b => a &&& ~~~b)) s)

/-- `shl` (07 R172). -/
def execShl (d : Reg) (nw : Bool) (a b : Sel) (s : State) : Out :=
  .next (vecOp (.shl d nw a b) d nw [a, b] (binVal shlVal) s)

/-- `shr` (07 R172). -/
def execShr (d : Reg) (nw : Bool) (a b : Sel) (s : State) : Out :=
  .next (vecOp (.shr d nw a b) d nw [a, b] (bin shrW) s)

/-- `sar` (07 R172). -/
def execSar (d : Reg) (nw : Bool) (a b : Sel) (s : State) : Out :=
  .next (vecOp (.sar d nw a b) d nw [a, b] (bin sarW) s)

/-- `rotl` (07 R172). -/
def execRotl (d : Reg) (nw : Bool) (a b : Sel) (s : State) : Out :=
  .next (vecOp (.rotl d nw a b) d nw [a, b] (bin rotlW) s)

/-- `bfx` (07 R172). -/
def execBfx (d : Reg) (nw : Bool) (a b : Sel) (s : State) : Out :=
  .next (vecOp (.bfx d nw a b) d nw [a, b] (bin bfxW) s)

/-- `bfxs` (07 R172). -/
def execBfxs (d : Reg) (nw : Bool) (a b : Sel) (s : State) : Out :=
  .next (vecOp (.bfxs d nw a b) d nw [a, b] (bin bfxsW) s)

/-- `perm` (07 R172). -/
def execPerm (d : Reg) (nw : Bool) (a b : Sel) (s : State) : Out :=
  .next (vecOp (.perm d nw a b) d nw [a, b] (bin permW) s)

/-- `iabsd` (07 R172). -/
def execIabsd (d : Reg) (nw : Bool) (a b : Sel) (s : State) : Out :=
  .next (vecOp (.iabsd d nw a b) d nw [a, b] (bin absdW) s)

/-- `ineg` (07 R175). -/
def execIneg (d : Reg) (nw : Bool) (a : Sel) (s : State) : Out :=
  .next (vecOp (.ineg d nw a) d nw [a] (un (fun a => 0 - a)) s)

/-- `iabs` (07 R175). -/
def execIabs (d : Reg) (nw : Bool) (a : Sel) (s : State) : Out :=
  .next (vecOp (.iabs d nw a) d nw [a] (un (fun a => if a.getLsbD 31 then 0 - a else a)) s)

/-- `not` (07 R175). -/
def execNot (d : Reg) (nw : Bool) (a : Sel) (s : State) : Out :=
  .next (vecOp (.not d nw a) d nw [a] (un (fun a => ~~~a)) s)

/-- `popc` (07 R175). -/
def execPopc (d : Reg) (nw : Bool) (a : Sel) (s : State) : Out :=
  .next (vecOp (.popc d nw a) d nw [a] (un (fun a => BitVec.ofNat 32 (popc a))) s)

/-- `clz` (07 R175). -/
def execClz (d : Reg) (nw : Bool) (a : Sel) (s : State) : Out :=
  .next (vecOp (.clz d nw a) d nw [a] (un clzW) s)

/-- `ctz` (07 R175). -/
def execCtz (d : Reg) (nw : Bool) (a : Sel) (s : State) : Out :=
  .next (vecOp (.ctz d nw a) d nw [a] (un ctzW) s)

/-- `brev` (07 R175). -/
def execBrev (d : Reg) (nw : Bool) (a : Sel) (s : State) : Out :=
  .next (vecOp (.brev d nw a) d nw [a] (un brevW) s)

/-- `sext8` (07 R175). -/
def execSext8 (d : Reg) (nw : Bool) (a : Sel) (s : State) : Out :=
  .next (vecOp (.sext8 d nw a) d nw [a] (un (fun a => (a.setWidth 8).signExtend 32)) s)

/-- `sext16` (07 R175). -/
def execSext16 (d : Reg) (nw : Bool) (a : Sel) (s : State) : Out :=
  .next (vecOp (.sext16 d nw a) d nw [a] (un (fun a => (a.setWidth 16).signExtend 32)) s)

/-- `zext8` (07 R175). -/
def execZext8 (d : Reg) (nw : Bool) (a : Sel) (s : State) : Out :=
  .next (vecOp (.zext8 d nw a) d nw [a] (un (fun a => (a.setWidth 8).setWidth 32)) s)

/-- `zext16` (07 R175). -/
def execZext16 (d : Reg) (nw : Bool) (a : Sel) (s : State) : Out :=
  .next (vecOp (.zext16 d nw a) d nw [a] (un (fun a => (a.setWidth 16).setWidth 32)) s)

/-- `bswap` (07 R175). -/
def execBswap (d : Reg) (nw : Bool) (a : Sel) (s : State) : Out :=
  .next (vecOp (.bswap d nw a) d nw [a] (un bswapW) s)

/-! ### Majors 0x03–0x0C -/

/-- `imad` (07 R176). -/
def execImad (d : Reg) (nw : Bool) (a b c : Sel) (s : State) : Out :=
  .next (vecOp (.imad d nw a b c) d nw [a, b, c]
    (fun _ v => (byTags v (fun t => opnd v 0 t * opnd v 1 t + opnd v 2 t), noFlags)) s)

/-- `bfi` (07 R173). -/
def execBfi (d : Reg) (nw : Bool) (a b c : Sel) (s : State) : Out :=
  .next (vecOp (.bfi d nw a b c) d nw [a, b, c]
    (fun _ v => (byTags v (fun t => bfiW (opnd v 0 t) (opnd v 1 t) (opnd v 2 t)), noFlags)) s)

/-- `sel` (07 R176): with p = 7 the predicate is no source; otherwise it is a G source (R170). -/
def execSel (d : Reg) (nw : Bool) (a b : Sel) (p : PredNo) (s : State) : Out :=
  .next (vecOp (.sel d nw a b p) d nw [a, b]
    (fun s v => (if p = 7 then byTags v (fun t => opnd v 0 t)
                 else gOf (fun t => if (predMask s p).getLsbD t.val then opnd v 0 t else opnd v 1 t), noFlags)) s)

/-- `iaddi` (07 R177). -/
def execIaddi (d : Reg) (nw : Bool) (a : Sel) (imm : BitVec 12) (s : State) : Out :=
  .next (vecOp (.iaddi d nw a imm) d nw [a] (fun _ v => (addVal (v.getD 0 (.u 0)) (.u (imm.signExtend 32)), noFlags)) s)

/-- `andi` (07 R177). -/
def execAndi (d : Reg) (nw : Bool) (a : Sel) (imm : BitVec 12) (s : State) : Out :=
  .next (vecOp (.andi d nw a imm) d nw [a] (un (fun a => a &&& imm.signExtend 32)) s)

/-- `ori` (07 R177). -/
def execOri (d : Reg) (nw : Bool) (a : Sel) (imm : BitVec 12) (s : State) : Out :=
  .next (vecOp (.ori d nw a imm) d nw [a] (un (fun a => a ||| imm.signExtend 32)) s)

/-- `xori` (07 R177). -/
def execXori (d : Reg) (nw : Bool) (a : Sel) (imm : BitVec 12) (s : State) : Out :=
  .next (vecOp (.xori d nw a imm) d nw [a] (un (fun a => a ^^^ imm.signExtend 32)) s)

/-- `movi` (07 R177): U. -/
def execMovi (d : Reg) (nw : Bool) (imm : BitVec 12) (s : State) : Out :=
  .next (vecOp (.movi d nw imm) d nw [] (fun _ _ => (.u (imm.signExtend 32), noFlags)) s)

/-- `lit` (07 R177): the literal word, U. -/
def execLit (d : Reg) (nw : Bool) (value : Word) (s : State) : Out :=
  .next (vecOp (.lit d nw value) d nw [] (fun _ _ => (.u value, noFlags)) s)

/-- `lea` (07 R178). -/
def execLea (d : Reg) (nw : Bool) (a b : Sel) (sh : BitVec 3) (s : State) : Out :=
  .next (vecOp (.lea d nw a b sh) d nw [a, b] (binVal (leaVal sh.toNat)) s)

/-- A pair result thread by thread; `srcs` are the registers and values read, for the tag (07 R180). -/
def pairRes (srcs : List RegVal) (f : Fin 32 → DWord) : RegVal × RegVal × FlagSet :=
  (byTags srcs (fun t => loW (f t)), byTags srcs (fun t => hiW (f t)), noFlags)

/-- Both registers of a pair. -/
def bothRegs (s : State) (r : Reg) : List RegVal := [reg s r, reg s (nextReg r 1)]

/-- `lea.64` (07 R178). -/
def execLea64 (d : Reg) (nw : Bool) (a : Reg) (b : Sel) (sh : BitVec 3) (s : State) : Out :=
  .next (pairOp (.lea64 d nw a b sh) d nw [a, nextReg a 1] [b]
    (fun s v => pairRes (bothRegs s a ++ v) (fun t => pairAt s a t + ((opnd v 0 t).setWidth 64 <<< sh.toNat))) s)

/-! ### Majors 0x0D–0x0F -/

/-- `icmp` (07 R179). -/
def execIcmp (pd : PredNo) (cmb : Combine) (a b : Sel) (cond : Cond) (s : State) : Out :=
  .next (predOp (.icmp pd cmb a b cond) pd [] [a, b]
    (fun s v t => combinePred cmb ((predMask s pd).getLsbD t.val) (condS cond (opnd v 0 t) (opnd v 1 t))) s)

/-- `ncmp` (07 R179). -/
def execNcmp (pd : PredNo) (cmb : Combine) (a b : Sel) (cond : Cond) (s : State) : Out :=
  .next (predOp (.ncmp pd cmb a b cond) pd [] [a, b]
    (fun s v t => combinePred cmb ((predMask s pd).getLsbD t.val) (condU cond (opnd v 0 t) (opnd v 1 t))) s)

/-- An instruction of major 0x0E on both registers of two pairs. -/
def pairBin (i : Instr) (d : Reg) (nw : Bool) (a b : Reg) (f : DWord → DWord → DWord) (s : State) : State :=
  pairOp i d nw [a, nextReg a 1, b, nextReg b 1] []
    (fun s _ => pairRes (bothRegs s a ++ bothRegs s b) (fun t => f (pairAt s a t) (pairAt s b t))) s

/-- `iadd.64` (07 R180). -/
def execIadd64 (d : Reg) (nw : Bool) (a b : Reg) (s : State) : Out :=
  .next (pairBin (.iadd64 d nw a b) d nw a b (fun x y => x + y) s)

/-- `isub.64` (07 R180). -/
def execIsub64 (d : Reg) (nw : Bool) (a b : Reg) (s : State) : Out :=
  .next (pairBin (.isub64 d nw a b) d nw a b (fun x y => x - y) s)

/-- `shl.64` (07 R180). -/
def execShl64 (d : Reg) (nw : Bool) (a b : Reg) (s : State) : Out :=
  .next (pairBin (.shl64 d nw a b) d nw a b (fun x y => if 64 ≤ y.toNat then 0 else x <<< y.toNat) s)

/-- `shr.64` (07 R180). -/
def execShr64 (d : Reg) (nw : Bool) (a b : Reg) (s : State) : Out :=
  .next (pairBin (.shr64 d nw a b) d nw a b (fun x y => if 64 ≤ y.toNat then 0 else x >>> y.toNat) s)

/-- `sar.64` (07 R180). -/
def execSar64 (d : Reg) (nw : Bool) (a b : Reg) (s : State) : Out :=
  .next (pairBin (.sar64 d nw a b) d nw a b (fun x y => x.sshiftRight (min y.toNat 63)) s)

/-- `imul.64` (07 R180). -/
def execImul64 (d : Reg) (nw : Bool) (a b : Reg) (s : State) : Out :=
  .next (pairBin (.imul64 d nw a b) d nw a b (fun x y => x * y) s)

/-- `mulw` reads only the even register of each source pair (07 R180). -/
def execMulw (d : Reg) (nw : Bool) (a b : Reg) (s : State) : Out :=
  .next (pairOp (.mulw d nw a b) d nw [a, b] []
    (fun s _ => pairRes [reg s a, reg s b]
      (fun t => ((reg s a).at t).signExtend 64 * ((reg s b).at t).signExtend 64)) s)

/-- `nmulw` (07 R180). -/
def execNmulw (d : Reg) (nw : Bool) (a b : Reg) (s : State) : Out :=
  .next (pairOp (.nmulw d nw a b) d nw [a, b] []
    (fun s _ => pairRes [reg s a, reg s b]
      (fun t => ((reg s a).at t).setWidth 64 * ((reg s b).at t).setWidth 64)) s)

/-- `pand` (07 R182). -/
def execPand (pd pa pb : PredNo) (s : State) : Out :=
  .next (predOp (.pand pd pa pb) pd [] []
    (fun s _ t => let x := (predMask s pa).getLsbD t.val; let y := (predMask s pb).getLsbD t.val; x && y) s)

/-- `por` (07 R182). -/
def execPor (pd pa pb : PredNo) (s : State) : Out :=
  .next (predOp (.por pd pa pb) pd [] []
    (fun s _ t => let x := (predMask s pa).getLsbD t.val; let y := (predMask s pb).getLsbD t.val; x || y) s)

/-- `pxor` (07 R182). -/
def execPxor (pd pa pb : PredNo) (s : State) : Out :=
  .next (predOp (.pxor pd pa pb) pd [] []
    (fun s _ t => let x := (predMask s pa).getLsbD t.val; let y := (predMask s pb).getLsbD t.val; x != y) s)

/-- `pandn` (07 R182). -/
def execPandn (pd pa pb : PredNo) (s : State) : Out :=
  .next (predOp (.pandn pd pa pb) pd [] []
    (fun s _ t => let x := (predMask s pa).getLsbD t.val; let y := (predMask s pb).getLsbD t.val; x && !y) s)

/-- `pnot` (07 R182). -/
def execPnot (pd pa : PredNo) (s : State) : Out :=
  .next (predOp (.pnot pd pa) pd [] [] (fun s _ t => !(predMask s pa).getLsbD t.val) s)

/-- `ptest` (07 R182). -/
def execPtest (pd : PredNo) (a : Sel) (s : State) : Out :=
  .next (predOp (.ptest pd a) pd [] [a] (fun _ v t => opnd v 0 t != 0) s)

/-- `pget`: G (07 R182). -/
def execPget (d : Reg) (nw : Bool) (pa : PredNo) (s : State) : Out :=
  .next (vecOp (.pget d nw pa) d nw [] (fun s _ => (gOf (fun t => boolW ((predMask s pa).getLsbD t.val)), noFlags)) s)

end Sys2Proof.Machine
end

