-- ==== Sys2Proof/Machine/Translate.lean ====
section
/-! DEFINITION. Virtual addresses: the walk, rights, page kinds, leases, the die windows and the private spaces, and
instruction fetch (04 R86–R101; 09 R294; 11 R319). -/

namespace Sys2Proof.Machine

/-! ### Leaf entries (04 R96) -/

/-- KIND of a leaf. -/
def leafKind (l : DWord) : Nat := field l.toNat 8 6
/-- CLEVEL of a leaf. -/
def leafClevel (l : DWord) : Nat := field l.toNat 10 9
/-- INDEX of a leaf. -/
def leafIndex (l : DWord) : Nat := field l.toNat 63 52
/-- The frame's fabric address. -/
def leafFrame (l : DWord) : Nat := field l.toNat 51 16 * 2 ^ 16
/-- KERNEL of a leaf. -/
def leafKernel (l : DWord) : Bool := l.getLsbD 5

/-- The bytes a leaf of a level maps (04 R94). -/
def levelSize (level : Nat) : Nat := if level = 3 then 2 ^ 31 else if level = 2 then 2 ^ 21 else 2 ^ 16

/-- A borrow entry (11 R317). -/
def borrowAt (s : State) (i : Nat) : Borrow := tget s.lending.borrows .free i

/-- Whether a frame lies in an unbacked range: of this package under its mode, of another in every mode (04 R97). -/
def frameUnbacked (s : State) (fab : Nat) : Bool :=
  if isLocal s fab then zoneOf (isPlain s) (fabLocal fab) = .unbacked else zoneOf true (fabLocal fab) = .unbacked

/-- Whether a leaf breaks 04 R97. -/
def leafBad (s : State) (level : Nat) (l : DWord) : Bool :=
  let x := l.toNat
  let k := leafKind l
  level == 4 || leafFrame l % levelSize level != 0 || decide (6 ≤ k) || (bit x 3 && !bit x 2)
    || (leafIndex l != 0 && k != 2 && k != 3 && k != 4)
    || ((k == 3 || k == 4) && (borrowAt s (leafIndex l)).state == .free) || frameUnbacked s (leafFrame l)

/-- Whether a table entry that is no leaf breaks 04 R95 or R97; the next table's size gives its zero bits. -/
def nextBad (level : Nat) (e : DWord) : Bool :=
  let x := e.toNat
  let size := if level = 2 then 256 else 8192
  level == 1 || field x 63 52 != 0 || field x 7 2 != 0 || field x 51 8 * 256 % size != 0

/-- What a walk finds. -/
inductive Walk where
  | leaf (l : DWord) (level : Nat)
  | fault
  | poison (unit : Nat)
  deriving DecidableEq, Repr

/-- The index of a level in a virtual address (04 R94). -/
def levelIndex (level va : Nat) : Nat :=
  if level = 4 then field va 51 41 else if level = 3 then field va 40 31 else if level = 2 then field va 30 21
  else field va 20 16

/-- Bytes as an agent of a die reads them on its own account: those of the home, under the stores that the die has accepted (10,
accepted stores). -/
def agentBytes (s : State) (die fab n : Nat) : List Byte := withAccepted s die none s.mem.nextOp fab (peek s fab n)

/-- The walk from a table, over the levels still to come (04 R94–R97, R99); entries are read at their homes, as an agent of the
die sees them. A table that the agent may not read gives a translation fault (log 83). -/
def walkFrom (s : State) (die va : Nat) : List Nat → Nat → Walk
  | [], _ => .fault
  | level :: r, table =>
    let at_ := table + 8 * levelIndex level va
    if peekRefused s at_ 8 then .fault
    else if peekPoisoned s at_ 8 then .poison (at_ / 256 * 256)
    else
      let e : DWord := BitVec.ofNat 64 (leNat (agentBytes s die at_ 8))
      if !e.getLsbD 0 then .fault
      else if e.getLsbD 1 then (if leafBad s level e then .fault else .leaf e level)
      else if nextBad level e then .fault
      else walkFrom s die va r (field e.toNat 51 8 * 256)

/-- Whether a walk from a table meets a home that serves no read now: a unit that is being rebuilt, or the loss of a stack before it
is settled (15 R376, R381). -/
def walkHeldFrom (s : State) (die va : Nat) : List Nat → Nat → Bool
  | [], _ => false
  | level :: r, table =>
    let at_ := table + 8 * levelIndex level va
    if peekRefused s at_ 8 then false
    else if isLocal s at_ && homeHeld s (fabLocal at_) 8 then true
    else if peekPoisoned s at_ 8 then false
    else
      let e : DWord := BitVec.ofNat 64 (leNat (agentBytes s die at_ 8))
      if !e.getLsbD 0 || e.getLsbD 1 || nextBad level e then false
      else walkHeldFrom s die va r (field e.toNat 51 8 * 256)

/-- The walk of an address context, for an agent of a die (04 R93). -/
def walk (s : State) (die ctx va : Nat) : Walk :=
  let c := contextAt s ctx
  walkFrom s die va [4, 3, 2, 1] (pair c.rootl c.rooth).toNat

/-- The agent that a place translates as: its core, whose TLB its lanes share; a control lane uses that of its quad's first core
(04 R99; log 13). Agents 0–15 are the dies' caches, 16 the command processor, 32 and up the cores. -/
def Place.agent (p : Place) : Nat := 32 + p.core

/-- The die whose translation cache stands behind an agent. -/
def agentDie (agent : Nat) : Nat := if 32 ≤ agent then (agent - 32) / 16 else agent

/-- How many entries an agent's cache has (04 R99). -/
def tlbSize (agent : Nat) : Nat := if 32 ≤ agent then 2048 else 65536

/-- The cached translation that an agent finds for an address, in its own TLB or in its die's cache (04 R99). -/
def cached? (s : State) (agent ctx va : Nat) : Option TlbEntry :=
  let asn := (contextAt s ctx).asn.toNat % 4096
  let at_ := fun (n : Nat) => s.mem.tlb.find? (fun e => e.agent == n && (e.global || e.asn == asn)
    && decide (e.vpage ≤ va / 2 ^ 16) && decide (va / 2 ^ 16 < e.vpage + e.units))
  match at_ agent with
  | some e => some e
  | none => at_ (agentDie agent)

/-- Whether the walk for an address of a context, which no cached translation serves, has to wait; no home is asked where none is
held. -/
def walkHeld (s : State) (agent ctx va : Nat) : Bool :=
  let c := contextAt s ctx
  (!s.mem.rebuilds.isEmpty || ((lostStack s).isSome && !s.mem.settled)) && (cached? s agent ctx va).isNone
    && walkHeldFrom s (agentDie agent) va [4, 3, 2, 1] (pair c.rootl c.rooth).toNat

/-- The translation an access uses: that of the tables, or an older cached one, which may still serve until an
invalidation completes (04 R100, log 11). -/
def translation (s : State) (agent ctx va : Nat) : Walk :=
  let w := walk s (agentDie agent) ctx va
  match cached? s agent ctx va with
  | none => w
  | some e =>
    let level := if e.units = 1 then 1 else if e.units = 32 then 2 else 3
    if w = .leaf e.leaf level then w else if Config.useCached s.fresh then .leaf e.leaf level else w

/-- An entry put first into an agent's cache, which gives up its oldest beyond its size (04 R99; log 11). -/
def putTlb (e : TlbEntry) (l : List TlbEntry) : List TlbEntry :=
  if l.contains e then l
  else
    let rest := l.filter (fun x => !(x.agent == e.agent && x.asn == e.asn && x.vpage == e.vpage))
    let mine := rest.filter (fun x => x.agent == e.agent)
    e :: (if mine.length < tlbSize e.agent then rest
          else rest.filter (fun x => x.agent != e.agent || (mine.take (tlbSize e.agent - 1)).contains x))

/-- A translation put into an agent's TLB and its die's cache (04 R99). -/
def cacheIt (agent ctx va : Nat) (l : DWord) (level : Nat) (s : State) : State :=
  let units := levelSize level / 2 ^ 16
  let e := fun (n : Nat) => (⟨n, (contextAt s ctx).asn.toNat % 4096, va / 2 ^ 16 / units * units, units, l.getLsbD 15, l⟩ : TlbEntry)
  { s with mem := { s.mem with tlb := putTlb (e agent) (putTlb (e (agentDie agent)) s.mem.tlb) } }

/-! ### Checks -/

/-- What an access does, for the rights and the page kinds (04 R98, R101). -/
inductive AccClass where
  | load | store | atomic | cadd | doc | watch | near | nearSource | fetch | prefetch
  deriving DecidableEq, Repr

/-- What an address comes to: a fabric address with its leaf, or a cause with its detail, the address it reports when
that is not the virtual one, and ARG. -/
inductive Addr where
  | ok (fab : Nat) (leaf : DWord) (level : Nat)
  | bad (c : Cause) (detail : Nat) (addr : Option Nat) (arg : Nat)
  deriving DecidableEq, Repr

/-- The rights an access needs: R, W, X (04 R98; 08 R240; 09 R280; log 50). -/
def rightsOk (cls : AccClass) (l : DWord) : Bool :=
  let r := l.getLsbD 2
  let w := l.getLsbD 3
  match cls with
  | .load | .watch | .prefetch | .nearSource => r
  | .store => w
  | .atomic | .cadd | .doc | .near => r && w
  | .fetch => l.getLsbD 4

/-- Whether a page's KIND accepts an access (04 R101); `size` is the access's size in bytes. DESIGN CHOICE: an instruction fetch is
accepted from pages of KIND 0 to 4, which the table of R101 does not say (log 88). -/
def kindOk (cls : AccClass) (kind size : Nat) : Bool :=
  match kind with
  | 0 => cls != .cadd && cls != .doc
  | 1 => cls == .load || cls == .prefetch || cls == .doc || cls == .watch || cls == .fetch
  | 2 => cls != .doc && cls != .near && cls != .nearSource
  | 5 => (cls == .load || cls == .store || cls == .prefetch) && (size == 4 || size == 8)
  | _ => cls != .cadd && cls != .doc && cls != .near && cls != .nearSource

/-- Whether a frame breaks its kind's column (04 R101); the kinds whose column the spec states no cause for take a
translation fault too (log 15). A peer's MMIO range breaks no column of KIND 0 or 2: the serving package refuses the
access (04 R92). -/
def columnBad (s : State) (kind index fab : Nat) : Bool :=
  let loc := isLocal s fab
  let z := zoneOf (if loc then isPlain s else true) (fabLocal fab)
  let mem : Bool := match z with
    | .hbm | .pool | .die _ => true
    | _ => false
  let x := fabLocal fab
  let b := borrowAt s index
  match kind with
  | 0 => loc && !mem
  | 1 => !(z = .hbm || z = .pool)
  | 2 => z != .hbm && (loc || mem)
  | 3 => z != .pool || fabPkg fab != b.lender || (x - 0x20000000000) / 2 ^ 31 != b.extent
  | 4 => !(loc && z = .hbm && decide (b.stage.toNat % 2 ^ 43 ≤ x) && decide (x < b.stage.toNat % 2 ^ 43 + 2 ^ 31))
  | _ => !loc || mem || z = .unbacked

/-- The cause of a borrow entry's state (11 R319). -/
def leaseCause (st : BorrowState) : Option Cause :=
  match st with
  | .active | .renewing => none
  | .free | .requested => some .translation
  | .expired => some .leaseExpired
  | .recalled | .releasing => some .leaseRecalled
  | .lost => some .lenderLost

/-- A commutative-range descriptor (08 R228). -/
def rangeDesc (s : State) (index : Nat) : Nat := peekNat s ((pair s.kernel.crdl s.kernel.crdh).toNat + 8 * index) 8

/-- Whether it is invalid. -/
def rangeBad (d : Nat) : Bool := !bit d 0 || d / 16 != 0

/-- Whether its table may not be read (04 R92; 11 R316). -/
def rangeRefused (s : State) (index : Nat) : Bool := peekRefused s ((pair s.kernel.crdl s.kernel.crdh).toNat + 8 * index) 8

/-- A glob address of an address context resolved and checked for an access (04 R93–R101, 11 R319). DESIGN CHOICE: the
PROTECTION of a KIND 5 page whose context or leaf is not the kernel's has detail 2 (log 88). -/
def resolve (s : State) (agent ctx : Nat) (cls : AccClass) (size : Nat) (va : DWord) : Addr :=
  if va.toNat / 2 ^ 52 ≠ 0 then .bad .translation 0 none 0
  else match translation s agent ctx va.toNat with
    | .fault => .bad .translation 0 none 0
    | .poison u => .bad .poison 0 (some u) 0
    | .leaf l level =>
      let kind := leafKind l
      let kctx := (contextAt s ctx).kctx.getLsbD 0
      let fab := leafFrame l + va.toNat % levelSize level
      let index := leafIndex l
      if columnBad s kind index fab then .bad .translation 0 none 0
      else if kind = 2 && (rangeRefused s index || rangeBad (rangeDesc s index)) then .bad .translation 0 none 0
      else if (leafKernel l && !kctx) || (kind = 5 && !(kctx && leafKernel l)) then .bad .protection 2 none 0
      else if !rightsOk cls l || (kind = 5 && cls = .fetch) then .bad .protection 1 none 0
      else if cls = .doc && kind ≠ 1 then .bad .docMisuse 1 none 0
      else if !kindOk cls kind size then .bad .protection 3 none 0
      else if kind = 3 || kind = 4 then
        match leaseCause (borrowAt s index).state with
        | some c => .bad c 0 none (if c = .translation then 0 else index)
        | none => .ok fab l level
      else .ok fab l level

/-- A die-space address checked against the context's windows (04 R89, 09 R294). -/
def resolveDie (s : State) (ctx size : Nat) (write : Bool) (a : DWord) : Option Nat :=
  let x := a.toNat
  let c := contextAt s ctx
  let off := x % 2 ^ 26
  let die := field x 29 26
  let grants := fun (i : Nat) =>
    let wa := (vget c.winA i 0).toNat
    let len := (vget c.winB i 0).toNat % 2048
    let base := field wa 25 16
    bit wa 0 && (!write || bit wa 1) && field wa 29 26 == die && decide (base + len ≤ 1024)
      && decide (base * 65536 ≤ off) && decide (off + size ≤ (base + len) * 65536)
  if x / 2 ^ 30 ≠ 0 then none
  else if (List.range 8).any grants then some (pkgNo s * 2 ^ 43 + 0x70000000000 + die * 0x4000000 + off) else none

/-- Where a strand's lane memory lies in the slices: each resident strand of a lane has 8 KiB of its own there (log 17). -/
def laneAddr (st : Strand) (off : Nat) : Nat :=
  let slot := match st.place with
    | .vec _ _ n => n
    | _ => 0
  st.place.laneKey * 65536 + slot * 8192 + off

/-! ### Instruction fetch -/

/-- What a fetch finds. -/
inductive Fetched where
  | word (w : Word)
  /-- its home, or the link to it, takes no request now -/
  | held
  /-- the unit of a staging frame that has to be fetched first (11 R322) -/
  | absent (borrow unit : Nat)
  | bad (c : Cause) (detail : Nat) (addr : Option Nat) (arg : Nat)
  deriving DecidableEq, Repr

/-- The code word at a virtual address (04 R98; 06 R150; 11 R322; 14 R366; 15 R376, R381); one that may not be read there gives a
translation fault (log 83). -/
def fetchAt (s : State) (st : Strand) (va : BitVec 52) : Fetched :=
  if walkHeld s st.place.agent st.who.context va.toNat then .held
  else match resolve s st.place.agent st.who.context .fetch 4 (va.setWidth 64) with
  | .bad c d a g => .bad c d a g
  | .ok fab leaf _ =>
    let unit := stageUnit s (leafIndex leaf) fab
    if peekRefused s fab 4 then .bad .translation 0 none 0
    else if (if isLocal s fab then homeHeld s (fabLocal fab) 4 else tagsUsed s st.place.die fab || linkFull s (fabPkg fab)) then .held
    else if leafKind leaf = 4 && unitAway s (leafIndex leaf) unit then .absent (leafIndex leaf) unit
    else if peekPoisoned s fab 4 then .bad .poison 0 (some (fab / 256 * 256)) 0
    else .word (BitVec.ofNat 32 (leNat (agentBytes s st.place.die fab 4)))

/-- The request for a code word of another package as it leaves, with the LEASEID of a borrowed extent (11 R321); the word itself is
a free value (log 2). -/
def sendFetch (s : State) (st : Strand) (va : BitVec 52) : State :=
  match resolve s st.place.agent st.who.context .fetch 4 (va.setWidth 64) with
  | .bad _ _ _ _ => s
  | .ok fab leaf _ =>
    if isLocal s fab then s
    else sendTo (fabPkg fab) (.codeRead (nextTag s st.place.die fab) fab
      (if leafKind leaf = 3 then (borrowAt s (leafIndex leaf)).leaseId else 0)) (takeSeq st.place.die fab s)

end Sys2Proof.Machine
end

