-- ==== Sys2Proof/Machine/Strands.lean ====
section
/-! DEFINITION. Fragments that split, arrive and fuse; the end of a strand and of its block; gangs; waits that are over; the
beginning of a clause (02 R23, R39–R49, R56; 06 R142–R150; 08 R245; 16 R408, R409). -/

namespace Sys2Proof.Machine

/-! ### Fragments of a strand as a list -/

/-- A strand whose fragments are these, the executing one kept if it is among them, else the first ready one. -/
def Strand.withFrags (l : List Fragment) (st : Strand) : Strand :=
  let pick := match l.find? (fun f => f.id == st.cur.id) with
    | some f => if f.wait = .suspended then (l.find? (fun g => g.wait == .ready)).getD f else f
    | none => (l.find? (fun f => f.wait == .ready)).getD (l.headD { st.cur with mask := 0, wait := .ended })
  { st with cur := pick, frags := l.filter (fun f => f.id != pick.id) }

/-- A fragment left without threads: an open serial record of its own continues with the threads it still holds, else
the fragment ends (02 R42, R44). -/
def afterEmpty (f : Fragment) : List Serial → Option Fragment × List Serial
  | [] => (none, [])
  | r :: rest =>
    if r.owner != f.id then let q := afterEmpty f rest; (q.1, r :: q.2)
    else if !r.phase && r.mask != 0 then
      (some ({ f with mask := r.mask }.goto r.fall r.fallWidx), { r with mask := r.full &&& ~~~r.mask, phase := true } :: rest)
    else if r.full = 0 then afterEmpty f rest
    else (some ({ f with mask := r.full }.goto r.reconv 0), rest)

/-- One fusion, if the children of some suspended parent have all arrived or ended (02 R41): the parent, whose pc is the
reconvergence address, resumes with the threads of its mask that have not exited, those that `xmwr` cleared among them
(07 R194). Serial records stand newest
first. -/
def fuseOnce (l : List Fragment) (ser : List Serial) : Option (List Fragment × List Serial) :=
  match l.find? (fun p => p.wait == .suspended && (l.filter (fun c => c.parent == some p.id)).all (fun c => c.wait == .reconv)) with
  | none => none
  | some p =>
    let rest := l.filter (fun c => c.parent != some p.id && c.id != p.id)
    if p.mask = 0 then
      let q := afterEmpty p ser
      some (match q.1 with
        | some f => (insertBy (fun f => f.id) f rest, q.2)
        | none => (rest, q.2))
    else
      some (insertBy (fun f => f.id) (p.goto p.hdr 0) rest, ser)

/-- All fusions that are due. -/
def fuseAll : Nat → List Fragment → List Serial → List Fragment × List Serial
  | 0, l, ser => (l, ser)
  | n + 1, l, ser => match fuseOnce l ser with
    | some q => fuseAll n q.1 q.2
    | none => (l, ser)

/-- The fusions of a strand (02 R41). -/
def Strand.fuse (st : Strand) : Strand :=
  let q := fuseAll 64 st.all st.serials
  { st.withFrags q.1 with serials := q.2 }

/-- Threads that exit leave every fragment's mask and every serial record (02 R44). -/
def Strand.dropThreads (m : Mask) (st : Strand) : Strand :=
  { st with cur := { st.cur with mask := st.cur.mask &&& ~~~m },
            frags := st.frags.map (fun f => { f with mask := f.mask &&& ~~~m }),
            serials := st.serials.map (fun r => { r with mask := r.mask &&& ~~~m, full := r.full &&& ~~~m }) }

/-- The threads of a strand that have not exited. -/
def Strand.liveMask (st : Strand) : Mask :=
  st.all.foldl (fun m f => m ||| f.mask) 0 ||| st.serials.foldl (fun m r => m ||| r.full) 0

/-- The executing fragment has no thread left (02 R44). -/
def Strand.curEmpty (st : Strand) : Strand :=
  let q := afterEmpty st.cur st.serials
  match q.1 with
  | some f => { st with cur := f, serials := q.2 }
  | none => Strand.fuse { st with cur := { st.cur with wait := .ended }, serials := q.2 }

/-! ### `join` (02 R43) -/

/-- A serial record taken apart into the two children that split execution would have, so that the side that has not run comes
to the `join` (02 R42, R43; log 57); they take no entry of the split table. The fragments under its owner go under the child
that stands for the side it was on. -/
def Strand.unserial (r : Serial) (st : Strand) : Strand :=
  let rest := dropFirst (fun (x : Serial) => x == r) st.serials
  match st.all.find? (fun f => f.id == r.owner) with
  | none => { st with serials := rest }
  | some f =>
    let n := st.nextFrag
    let kid : Fragment := { f with id := n, parent := some f.id, reconv := r.reconv, tabled := false }
    let held : Fragment := { kid with id := n + 1, mask := r.mask }
    let other := if r.phase then { held.goto r.reconv 0 with wait := .reconv } else held.goto r.fall r.fallWidx
    let up : Fragment := { f with mask := r.full, wait := .suspended, hdr := r.reconv, widx := 0, inClause := false, slot := false }
    let under := fun (g : Fragment) => if g.parent = some f.id then { g with parent := some n } else g
    let cur := if st.cur.id = f.id then kid else under st.cur
    let l := up :: kid :: (if r.mask = 0 then [] else [other]) ++ (st.all.filter (fun g => g.id != f.id)).map under
    { st with nextFrag := n + 2, cur := cur,
              frags := (l.filter (fun g => g.id != cur.id)).foldl (fun q g => insertBy (fun f => f.id) g q) [],
              serials := rest.map (fun x => if x.owner == f.id then { x with owner := n } else x) }

/-- All serial records of a strand taken apart, the oldest first. -/
def Strand.unserialAll (st : Strand) : Strand :=
  (List.range st.serials.length).foldl (fun st _ =>
    match st.serials.getLast? with
    | some r => st.unserial r
    | none => st) st

/-- Every live fragment waits at a `join` (02 R43). At one address they fuse, and all split-table entries and serial records are
freed, once the threads that a serial record has still to run have come there too; at several addresses, and where there
is a single one, each goes on and the records stay. -/
def Strand.joinAll (st : Strand) : Strand :=
  let past := fun (g : Fragment) => (g.endWindow none).past (encodeWords .join)
  match st.liveFrags with
  | [] => st
  | f :: rest =>
    if rest.isEmpty || !rest.all (fun g => g.hdr == f.hdr && g.widx == f.widx) then
      let go := fun (g : Fragment) => if g.wait = .join then past g else g
      { st with cur := go st.cur, frags := st.frags.map go }
    else if st.serials.any (fun r => !r.phase && r.mask != 0) then st.unserialAll
    else
      { st with cur := past { f with mask := st.liveMask, parent := none, reconv := 0, tabled := false }, frags := [],
                serials := [] }

/-- A strand whose live fragments may all wait at a `join` now. -/
def Strand.joins (st : Strand) : Strand := if st.liveFrags.all (fun f => f.wait == .join) then st.joinAll else st

/-- Split-table entries in use on a lane (02 R39). -/
def entriesUsed (s : State) (p : Place) : Nat :=
  ((strandsOf s).filter (fun st => st.place.laneKey == p.laneKey && st.place.isCtl == p.isCtl)).foldl
    (fun n st => n + st.entries) 0

/-- The executing fragment splits: T to the target, F to its own position (02 R39); with too few entries a serial
record (R42). `fall` and `fallWidx` are where F continues. -/
def split (ws : List Word) (t f : Mask) (target reconv fall : BitVec 52) (fallWidx : Nat) (aux : BitVec 8) (s : State) :
    State :=
  let st := s.me
  let c := { st.cur with last := ws }
  if entriesUsed s st.place + 2 ≤ 64 then
    let child := fun (id : Nat) (m : Mask) (dest : BitVec 52) (w : Nat) =>
      ({ c with id := id, mask := m, parent := some c.id, reconv := reconv, tabled := true }).goto dest w
    let kid := child st.nextFrag t target 0
    let other := child (st.nextFrag + 1) f fall fallWidx
    modMe (fun st => { st with
      nextFrag := st.nextFrag + 2, cur := kid,
      frags := insertBy (fun f => f.id) other (insertBy (fun f => f.id)
        { c with wait := .suspended, hdr := reconv, widx := 0, inClause := false, slot := false } st.frags) }) s
  else
    let r : Serial := { fall := fall, fallWidx := fallWidx, reconv := reconv, aux := aux, mask := f, full := c.mask,
                        phase := false, owner := c.id }
    modMe (fun st => { st with serials := r :: st.serials, cur := ({ c with mask := t }).goto target 0 }) s

/-! ### Yield points (02 R49) -/

/-- Whether a request is pending on a strand; on a halted one it acts only after RESUME (14 R371). -/
def Strand.requested (st : Strand) : Bool := (st.timeSlice || st.evicting || st.checkpointing) && !st.halted

/-- A yield point: with a request pending the fragment waits with kind 0, and a time slice has taken effect. -/
def yieldPoint (s : State) : State :=
  if s.me.requested && s.me.cur.wait = .ready then
    modMe (fun st => { st with timeSlice := false, cur := { st.cur with wait := .yield, slot := false } }) s
  else s

/-- The executing fragment jumps; a taken backward branch is a yield point (02 R49). -/
def jump (ws : List Word) (target : BitVec 52) (s : State) : State :=
  let from_ := s.me.cur.wordAddr
  let s := modCur (fun f => ({ f with last := ws }).goto target 0) s
  if target.toNat < from_.toNat then yieldPoint s else s

/-! ### Gangs (08 R245) -/

/-- The index of a block's gang at a scope. -/
def gangIndex (r : Record) (scope : Scope) (blk : Nat) : Nat :=
  match scope with
  | .quad => blk / max 1 r.gq
  | .die => blk / max 1 r.gd
  | _ => 0

/-- Whether a launch has a gang of a scope. -/
def hasGang (r : Record) (scope : Scope) : Bool :=
  match scope with
  | .quad => r.gq != 0
  | .die => r.gd != 0
  | .pkg => r.gp
  | .pod => r.gpod
  | _ => false

/-- The strands of a gang that are live, resident or not. -/
def gangStrands (s : State) (l : Launch) (scope : Scope) (ix : Nat) : List StrandId :=
  ((strandsOf s).filter (fun st => st.who.id.handle == l.handle && !st.place.isCtl && !st.liveFrags.isEmpty
    && gangIndex l.record scope st.who.blockIdx == ix)).map (fun st => st.who.id)
    ++ (s.work.evicted.filter (fun e => e.handle == l.handle && gangIndex l.record scope e.idx == ix)).flatMap
      (fun e => e.strands)

/-- Whether some block of the gang is still to be placed. -/
def gangUnplaced (l : Launch) (scope : Scope) (ix : Nat) : Bool :=
  let spans := l.free ++ l.runs.map (fun r => (r.lo, r.hi))
  let g := match scope with
    | .quad => l.record.gq
    | .die => l.record.gd
    | _ => 2 ^ 33
  spans.any (fun p => decide (p.1 < p.2) && meets p.1 (p.2 - p.1) (ix * g) g)

/-- The number of packages of a pod gang. -/
def podPackages (r : Record) : Nat := (r.words.getD 10 0).toNat / 2 ^ 22 % 512 + 1

/-- A gang's phase completes when every live strand has arrived (08 R245; log 63). -/
def gangCheck (handle : Nat) (scope : Scope) (ix : Nat) (s : State) : State :=
  match findLaunch s handle with
  | none => s
  | some l =>
    { s with work := { s.work with gangs := s.work.gangs.map (fun g =>
        if g.handle == handle && g.scope == scope && g.index == ix
            && (gangStrands s l scope ix).all (fun id => g.arrived.contains id) && !gangUnplaced l scope ix
            && (!g.arrived.isEmpty || g.tainted)
            && (scope != .pod || podPackages l.record == 1 || Config.peersArrived l.record.podId g.phase s.fresh)
        then { g with phase := g.phase + 1, arrived := [], tainted := false, lastTainted := g.tainted } else g) } }

/-- The gang's record, made at its first use. -/
def gangOf (s : State) (handle : Nat) (scope : Scope) (ix : Nat) : Gang :=
  (s.work.gangs.find? (fun g => g.handle == handle && g.scope == scope && g.index == ix)).getD
    ⟨handle, scope, ix, 0, [], false, false⟩

/-- The gang's record replaced. -/
def setGang (g : Gang) (s : State) : State :=
  { s with work := { s.work with
      gangs := s.work.gangs.filter (fun x => !(x.handle == g.handle && x.scope == g.scope && x.index == g.index)) ++ [g] } }

/-- The gangs of a launch after one of its strands has ended; a killed one taints the current phase (16 R409). -/
def leaveGangs (id : StrandId) (blk : Nat) (killed : Bool) (s : State) : State :=
  match findLaunch s id.handle with
  | none => s
  | some l =>
    [Scope.quad, Scope.die, Scope.pkg, Scope.pod].foldl (fun s sc =>
      if hasGang l.record sc then
        let ix := gangIndex l.record sc blk
        let g := gangOf s id.handle sc ix
        let s := if killed || s.work.gangs.contains g then
            setGang { g with arrived := g.arrived.filter (fun x => x != id), tainted := g.tainted || killed } s
          else s
        gangCheck id.handle sc ix s
      else s) s

/-! ### The end of a strand (02 R22, R44; 16 R408) -/

/-- A binding of a strand taken off its descriptor: the allowance it had drawn goes back, and it is no longer counted (08 R249); a kill
also sets ABANDON (16 R408). -/
def unbindAt (st : Strand) (b : Binding) (kill : Bool) (s : State) : State :=
  let allow := min 256 (qField s st b 8 % 512 + b.drawn)
  let binds := qField s st b 20
  let binds' := if b.consumer then binds - min (binds / 2 ^ 16) 1 * 2 ^ 16 else binds - min (binds % 2 ^ 16) 1
  let s := setQField st b 8 allow s
  let s := setQField st b 20 binds' s
  let cfg := qField s st b 12
  if kill && !bit cfg 16 then setQField st b 12 (cfg + 2 ^ 16) s else s

/-- `qunbind` of a register of a strand (08 R249); a kill also sets ABANDON (16 R408). -/
def unbind (q : QNo) (kill : Bool) (id : StrandId) (s : State) : State :=
  match findStrand s id with
  | none => s
  | some st =>
    match binding st q with
    | none => s
    | some b =>
      modStrand id (fun st => setBinding q none { st with qstatus := st.qstatus &&& ~~~(BitVec.ofNat 32 (2 ^ q.toNat)) })
        (unbindAt st b kill s)

/-- All queue registers unbound. -/
def unbindAll (kill : Bool) (id : StrandId) (s : State) : State :=
  (List.range 12).foldl (fun s i => unbind (BitVec.ofNat 4 (i + 4)) kill id s) s

/-- A block's strand has left it: with the last one the block ends (02 R22, 16 R408). -/
def leaveBlock (st : Strand) (s : State) : State :=
  if st.place.isCtl then
    (match st.place with
     | .ctl quad c =>
       let k := ctlKey quad c
       setControl k { controlAt s k with running := none } s
     | _ => s)
  else
    let s := modBlock st.who.id.handle st.who.blockIdx st.who.twin (fun b => { b with strands := b.strands - 1 }) s
    let done := s.work.blocks.filter (fun b => b.handle == st.who.id.handle && b.idx == st.who.blockIdx
                                                && b.twin == st.who.twin && b.strands == 0)
    let s := { s with work := { s.work with
      blocks := s.work.blocks.filter (fun b => !(done.contains b)),
      launches := s.work.launches.map (fun l =>
        if l.handle == st.who.id.handle && !st.who.twin then { l with ended := l.ended + done.length } else l) } }
    s

/-- A strand that has ended leaves residency: its queues are unbound, it leaves its gangs and its block. -/
def endStrand (kill : Bool) (id : StrandId) (s : State) : State :=
  match findStrand s id with
  | none => s
  | some st =>
    let s := unbindAll kill id s
    let s := leaveBlock st s
    let s := removeStrand id s
    let s := { s with engines := { s.engines with
      missed := s.engines.missed.filter (fun x => x.1 != id), undecided := s.engines.undecided.filter (fun x => x.1 != id),
      eventWait := s.engines.eventWait.filter (fun x => x.1 != id) } }
    leaveGangs id st.who.blockIdx kill s

/-- A strand without threads ends once nothing of it is in flight (02 R22). -/
def reap (id : StrandId) (s : State) : State :=
  match findStrand s id with
  | none => s
  | some st => if st.all.isEmpty && inFlight s id = 0 then endStrand false id s else s

/-! ### Header waits and the beginning of a clause (06 R142–R150) -/

/-- OWNER of a tile (09 R254). -/
def tileOwner (t : Tile) : Bool := t.desc.getLsbD 43

/-- A tile of a control context. -/
def tileAt (s : State) (key : Nat) (t : TileNo) : Tile := vget (controlAt s key).tiles t.toNat ⟨0, false⟩

/-- The words waiting in `q0`–`q3` of a strand. -/
def waiting (st : Strand) (q : Nat) : List Word :=
  match q with
  | 0 => st.promises
  | 1 => st.completions
  | 2 => st.acks
  | 3 => st.events
  | _ => []

/-- Whether a header's waits hold now (06 R145). -/
def headerHolds (s : State) (st : Strand) (h : Word) : Bool :=
  let x := h.toNat
  let ldw := field x 25 21
  let stw := field x 20 16
  (ldw == 31 || decide (outLoads s st.who.id ≤ ldw)) && (stw == 31 || decide (outStores s st.who.id ≤ stw))
    && (List.range 4).all (fun q => !bit x (12 + q) || !(waiting st q).isEmpty)
    && (!(field x 27 26 == 2 && bit x 9) ||
        (match tableOf s st with
         | some k => tileOwner (tileAt s k (BitVec.ofNat 5 (field x 7 3))) == bit x 8
         | none => true))

/-- The kind under which a header wait that does not hold is a blocking point: 4 for an empty queue of QW, 8 for the owner
wait, 9 for LDW with a remote load outstanding, else none (02 R48, 06 R145); the order among them is the model's (log 92). -/
def headerWaitKind (s : State) (st : Strand) (h : Word) : Nat :=
  let x := h.toNat
  if (List.range 4).any (fun q => bit x (12 + q) && (waiting st q).isEmpty) then 4
  else if field x 27 26 == 2 && bit x 9 && (match tableOf s st with
      | some k => tileOwner (tileAt s k (BitVec.ofNat 5 (field x 7 3))) != bit x 8
      | none => false) then 8
  else if field x 25 21 != 31 && decide (field x 25 21 < outLoads s st.who.id) && (opsOf s st.who.id).any Op.remoteLoad then 9
  else 0

/-- Whether a header is an illegal encoding (06 R142, R143, R146). -/
def headerBad (h : Word) : Bool :=
  let x := h.toNat
  clauseLen h == 0 ||
    (if field x 27 26 == 2 then
       (if bit x 9 then field x 2 0 != 0 else field x 8 0 != 0)
     else field x 9 0 != 0)

/-- A clause is about to begin at a reconvergence address: a serial record changes phase or is popped, or a child
arrives (02 R41, R42). Nothing when the address is neither. -/
def arrive (s : State) : Option State :=
  let st := s.me
  let f := st.cur
  match st.serials.find? (fun r => r.owner == f.id) with
  | some r =>
    if r.reconv = f.hdr then
      let rest := dropFirst (fun (r : Serial) => r.owner == f.id) st.serials
      if r.phase || r.mask = 0 then
        some (modMe (fun st => { st with serials := rest, cur := { f with mask := r.full } }) s)
      else
        some (modMe (fun st => { st with serials := { r with mask := r.full &&& ~~~r.mask, phase := true } :: rest,
                                         cur := ({ f with mask := r.mask }).goto r.fall r.fallWidx }) s)
    else none
  | none =>
    if f.parent.isSome && f.reconv = f.hdr then
      some (modMe (fun st => Strand.fuse { st with cur := { f with wait := .reconv } }) s)
    else none

/-- A cause of the header itself; the pc names it, or the position inside its clause that the fragment was to continue at (06
R150, R157; 14 R366). The word of a header that could not be fetched is a free value (log 44); a legal header that raises
ENGINE_MISUSE is reported like an illegal one (log 81). -/
def raiseHeader (h : Option Word) (r : Report) (s : State) : State :=
  let em := match h with
    | some w => emulationHeader w
    | none => emulationHeader (freeWord s 0)
  takeCause r (posWord s.me.cur.hdr s.me.cur.widx) em s

/-- The report of a fetch that failed. -/
def fetchReport (s : State) (va : BitVec 52) (c : Cause) (d : Nat) (a : Option Nat) (g : Nat) : Report :=
  { cause := c, detail := d, addr := BitVec.ofNat 64 (a.getD va.toNat), threads := s.me.cur.mask,
    arg := BitVec.ofNat 64 g }

/-- What the words before a word index show: the number of the instruction there, or that the index names none, or a word
that cannot be fetched. -/
inductive Ordinal where
  | number (k : Nat)
  | nothing
  | held
  | absent (borrow unit : Nat)
  | bad (va : BitVec 52) (c : Cause) (detail : Nat) (addr : Option Nat) (arg : Nat)
  deriving DecidableEq, Repr

/-- The number of the instruction at a word index: the words before it are decoded, a two-word instruction counting
once (02 R35, 09 R287); a word that has to be decoded for it is fetched with its own causes (14 R366). -/
def ordinal (s : State) (st : Strand) (hdr : BitVec 52) : Nat → Nat → Nat → Nat → Ordinal
  | 0, _, _, _ => .nothing
  | n + 1, at_, k, target =>
    if at_ = target then .number k
    else if target < at_ then .nothing
    else
      let va := hdr + BitVec.ofNat 52 (4 * at_)
      match fetchAt s st va with
      | .word w => ordinal s st hdr n (at_ + (if isTwoWord w then 2 else 1)) (k + 1) target
      | .held => .held
      | .absent b u => .absent b u
      | .bad c d a g => .bad va c d a g

/-- The implicit `tfence` after the last instruction of a TF clause: it holds until its waits are over, and is a yield point; with
an enabled flag ARITH is raised, and the pc names the following header (06 R147; 14 R360; log 51). -/
def endTf (x : TfTest) (s : State) : State :=
  if tfWaits s then s
  else if trapFlags s.me != 0 && causeHeld s then holdCause s
  else
    let go := modCur (fun f => { f with tf := none, slot := false }) s
    if trapFlags s.me = 0 then yieldPoint go
    else raiseAfter x.last x.head { cause := .arith, addr := (trapFlags s.me).setWidth 64, threads := s.me.cur.mask } go

/-- A clause begins (06 R142–R150): arrival, the yield point of YP, the header and its waits, then the first word; a
position inside a clause (09 R287) evaluates no wait. An arrival takes no clause slot; a clause begins only with the lane's
choice (02 R24, 03 R82). -/
def beginClause (s : State) : State :=
  let st := s.me
  let f := st.cur
  if !(st.here && f.wait == .ready && st.mayGo f.id && s.mem.mode != .fenced) then s
  else if f.inClause then s
  else if let some x := f.tf then (if f.slot then endTf x s else s)
  else match (if f.widx = 0 && f.hdr.toNat % 4 = 0 then arrive s else none) with
    | some s' => s'
    | none =>
      if !f.slot then s
      else if f.hdr.toNat % 4 ≠ 0 then
        raiseHeader none { cause := .alignment, detail := 2, addr := f.hdr.setWidth 64, threads := f.mask } s
      else match fetchAt s st f.hdr with
      | .held => s
      | .absent b u => fetchUnit b u s
      | .bad c d a g => raiseHeader none (fetchReport s f.hdr c d a g) s
      | .word h =>
        let s := sendFetch s st f.hdr
        if headerBad h then raiseHeader (some h) { cause := .illegalEncoding, threads := f.mask } s
        else if f.widx ≠ 0 then
          if clauseLen h < f.widx then raiseHeader (some h) { cause := .illegalEncoding, threads := f.mask } s
          else match ordinal s st f.hdr 16 1 0 f.widx with
            | .number k => modCur (fun f => { f with inClause := true, head := h, k := k }) s
            | .nothing => raiseHeader (some h) { cause := .illegalEncoding, threads := f.mask } s
            | .held => s
            | .absent b u => fetchUnit b u s
            | .bad va c d a g => raiseHeader (some h) (fetchReport s va c d a g) s
        else if field h.toNat 27 26 == 2 && bit h.toNat 9 && (tableOf s st).isNone then
          raiseHeader (some h) { cause := .engineMisuse, detail := 6, addr := BitVec.ofNat 64 (field h.toNat 7 3),
                                 threads := f.mask } s
        else if h.getLsbD 11 && st.requested then yieldPoint s
        else if headerHolds s st h then
          modCur (fun f => { f with inClause := true, head := h, widx := 1, k := 0, tickCap := none,
                                    latches := Vector.replicate 4 (.u 0) }) s
        else modCur (fun f => { f with wait := .header (headerWaitKind s st h), head := h, slot := false }) s

/-! ### Waits that are over (02 R48, R56) -/

/-- Whether a waiting `qput` may go on: to a binding, or to one of `q0`–`q2` (08 R250, 16 R410). A push
that waits for `ALLOW` waits for room as well (log 95). -/
def pushReady (s : State) (st : Strand) (q : QNo) : Bool :=
  match (if q.toNat < 4 then none else binding st q) with
  | none => !(decide (q.toNat < 3) && bit s.engines.noRoom q.toNat)
  | some b =>
    (qAbandoned s st b && qField s st b 20 / 2 ^ 16 == 0)
      || ((b.drawn != 0 || qField s st b 8 % 512 != 0) && decide (qCount s st b < qSlots s st b))

/-- Whether what a fragment waits for has come about. Waits for an operation end with its reply. -/
def waitOver (s : State) (st : Strand) (f : Fragment) : Bool :=
  match f.wait with
  | .header _ => headerHolds s st f.head
  | .bar n ph => (match blockOf s st with
    | some b => b.abandoned || (vget b.bars n ⟨0, 0, false, false⟩).phase != ph
    | none => true)
  | .gang sc ph => (match findLaunch s st.who.id.handle with
    | none => true
    | some l => s.work.gangs.any (fun g => g.handle == l.handle && g.scope == sc
        && g.index == gangIndex l.record sc st.who.blockIdx && g.phase != ph))
  | .pop q => (match binding st q with
    | some b => decide (0 < qCount s st b) || qDead s st b
    | none => true)
  | .push q => pushReady s st q
  | .nap t => decide (t.toNat ≤ s.tick.toNat)
  | .owner t v => (match tableOf s st with
    | some k => tileOwner (tileAt s k t) == v
    | none => true)
  | .limit => decide (inFlight s st.who.id < 63)
  | .yield => !st.evicting && !st.checkpointing
  | _ => false

end Sys2Proof.Machine
end

