-- ==== Sys2Proof/Machine/Access.lean ====
section
/-! DEFINITION. Outstanding operations: their issue, what a release waits for, paired windows, staged units, what an acquire
drops, and the delivery of answers (06 R144; 08 R219–R221, R236; 10 R296–R306; 11 R322, R323; 14 R347–R349; 16
R412–R414). -/

namespace Sys2Proof.Machine

/-! ### Issue of an operation -/

/-- The operation of the executing instruction, with no access yet. -/
def opHere (n : Need) (s : State) (what : OpKind) (dst : Reg) (scope : Scope) : Op :=
  { id := s.mem.nextOp, owner := s.me.who.id, frag := s.me.cur.id, die := s.me.place.die, core := s.me.place.core,
    what := what, dst := dst, scope := scope, gate := false, holds := false, uniform := false,
    full := s.me.cur.mask == BitVec.allOnes 32, remote := false, switchHeld := false, windowed := false, shared := none,
    pc := s.me.cur.hdr, widx := s.me.cur.widx, head := s.me.cur.head, word := n.words.headD 0,
    mode := (contextAt s s.me.who.context).aplace.toNat % 4, accs := [] }

/-- An access about to be made. -/
def newAccess (m : Mask) (va : DWord) (fab size : Nat) (leaf : DWord) (data : BitVec 128) (din : DWord) : Access :=
  { threads := m, va := va, fab := fab, size := size, kind := leafKind leaf, clevel := leafClevel leaf,
    index := leafIndex leaf, wt := leaf.getLsbD 11, stream := field leaf.toNat 14 13 == 3, seq := 0, sent := 0, data := data, din := din, state := .waiting, result := 0, ok := false, delta := [] }

/-- An operation becomes outstanding. -/
def pushOp (o : Op) (s : State) : State :=
  { s with mem := { s.mem with ops := s.mem.ops ++ [o], nextOp := s.mem.nextOp + 1 } }

/-- An operation taken out. -/
def dropOp (id : Nat) (s : State) : State :=
  { s with mem := { s.mem with ops := s.mem.ops.filter (fun o => o.id != id) } }

/-- Whether one more operation would pass 63 in a counter of R144. -/
def countersFull (s : State) (what : OpKind) : Bool :=
  (what.countsLoad && decide (63 ≤ outLoads s s.me.who.id)) || (what.countsStore && decide (63 ≤ outStores s s.me.who.id))

/-! ### Staged units (11 R322, R323) -/

/-- The strands that still owe the write-back of a unit. -/
def Staged.owers : Staged → List StrandId
  | .dirty _ _ by_ _ => by_
  | .writing _ _ _ by_ _ _ => by_
  | _ => []

/-- What stands among the owers of a unit for every strand of a launch that may observe the hand-back of a PUT of a control context:
such a strand carries the PUT's writes (10 R308; log 93). -/
def tableOwer (handle key : Nat) : StrandId := ⟨handle, 2 ^ 41 + key⟩

/-- Whether a strand owes the write-back of a unit: by its own stores, or by the PUTs of its tile table. -/
def owesUnit (s : State) (id : StrandId) (u : Staged) : Bool :=
  u.owers.contains id || (match (findStrand s id).bind (tableOf s) with
    | some k => u.owers.contains (tableOwer id.handle k)
    | none => false)

/-- Whether a strand has stores in staging frames that the lender has not acknowledged. -/
def stagedOwed (s : State) (id : StrandId) : Bool := s.mem.staged.any (fun p => owesUnit s id p.2)

/-- The write-back of a strand's DIRTY units begins at once for its release or exit (11 R323). -/
def writeBackFor (id : StrandId) (s : State) : State :=
  s.mem.staged.foldl (fun s p => match p.2 with
    | .dirty _ _ _ _ =>
      if owesUnit s id p.2 && (tget s.lending.borrows .free (p.1 / 2 ^ 23)).state != .lost then
        beginWriteback (p.1 / 2 ^ 23) (p.1 % 2 ^ 23) (some id) false s
      else s
    | _ => s) s

/-! ### Performed at a scope (10 R296) -/

/-- Whether an access that is a plain store is performed at a scope. -/
def storePerformed (s : State) (o : Op) (scope : Scope) (a : Access) : Bool :=
  match scope with
  | .lane => true
  | .core | .quad | .die =>
    if o.windowed then false
    else if isLocal s a.fab then
      (match zoneOf (isPlain s) (fabLocal a.fab) with
       | .hbm | .pool => true
       | _ => !(a.state == .waiting))
    else true
  | .pkg =>
    (match a.state with
     | .waiting => false
     | .switched => a.kind != 4
     | .applied => (zoneOf (isPlain s) (fabLocal a.fab)) != .hbm
     | _ => true)
  | _ => !a.unperformed

/-- Whether an operation stands in the way of a later release of its strand at a scope (08 R219). -/
def Op.delays (s : State) (scope : Scope) (o : Op) : Bool :=
  (o.what.countsLoad && o.holds) ||
    (o.what.countsStore && (o.gate || (match o.what with
      | .store => !(o.accs.all (storePerformed s o scope))
      | _ => o.windowed || o.accs.any Access.unperformed)))

/-- Whether all earlier accesses of a strand are complete or performed as a release at a scope needs (08 R219). `upTo` is
the number of the operation that waits. -/
def releaseReady (s : State) (id : StrandId) (upTo : Nat) (scope : Scope) : Bool :=
  scope == .lane ||
    ((opsOf s id).all (fun o => decide (upTo ≤ o.id) || !(o.delays s scope))
      && s.engines.nears.all (fun c => c.owner != id || decide (upTo ≤ c.id))
      && (!(scope == .pod || scope == .sys) || !stagedOwed s id))

/-- Whether a release made at issue may go on: barrier arrivals, pushes and `tgive` (08 R246, R250). -/
def releaseNow (s : State) (scope : Scope) : Bool := releaseReady s s.me.who.id s.mem.nextOp scope

/-! ### Paired windows (16 R412–R414) -/

/-- A record of the window (16 R413). -/
def recordOf (data : BitVec 128) (kind size space addr : Nat) : BitVec 128 :=
  BitVec.ofNat 128 (data.toNat % 2 ^ 64 * 2 ^ 64 + kind * 2 ^ 58 + Nat.log2 size * 2 ^ 55 + space * 2 ^ 52
    + addr % 2 ^ 52)

/-- The records of one access: a 16-byte one has two (16 R413). -/
def recordsOf (data : BitVec 128) (kind size space addr : Nat) : List (BitVec 128) :=
  if size = 16 then [recordOf data kind 8 space addr, recordOf (data >>> 64) kind 8 space (addr + 8)]
  else [recordOf (BitVec.ofNat 128 (data.toNat % 2 ^ (8 * size))) kind size space addr]

/-- A window's signature. -/
def windowSignature (l : List (BitVec 128)) : DWord :=
  l.foldl (fun x r => x + crc64 (leBytes 16 r.toNat)) 0

/-- Records added to the executing strand's window, in a paired launch. With 4,096 the window closes: its signature is on its way, and
what is over begins the next one; the held writes from the operation `upTo` on belong to that (16 R412; log 77). -/
def addRecords (l : List (BitVec 128)) (upTo : Nat) (s : State) : State :=
  if !isPaired s s.me then s
  else
    let w := s.me.window ++ l
    if w.length < 4096 then modMe (fun st => { st with window := w }) s
    else modMe (fun st => { st with
      window := w.drop 4096, windowSig := some (windowSignature (w.take 4096)), windowAt := s.tick, windowEnd := upTo }) s

/-- An instruction that closes the window of a paired strand waits until the twins' signatures have been compared; then
its own effect `k` follows (16 R414; log 77). -/
def closeWindow (n : Need) (s : State) (k : State → State) : State :=
  if !isPaired s s.me || s.me.cur.begun == .matched then k s
  else if s.me.windowSig.isSome then waitHere n .window .no s
  else waitHere n .window .no (modMe (fun st => { st with
    window := [], windowSig := some (windowSignature st.window), windowAt := s.tick, windowEnd := s.mem.nextOp }) s)

/-- A write whose strand's last window is still to be compared waits for that first (16 R412). -/
def windowRoom (n : Need) (s : State) (k : State → State) : State :=
  if s.me.windowSig.isNone then k s else closeWindow n s k

/-- A held write becomes outstanding: one operation, or two where its window closes inside it (`per` records for each access). With it
goes the number of the first operation that belongs to the next window (16 R412, R414). -/
def pushHeld (o : Op) (per : Nat) (s : State) : State × Nat :=
  let room := (4096 - s.me.window.length) / per
  if !o.windowed || o.accs.length ≤ room then
    let s := pushOp o s
    (s, s.mem.nextOp)
  else if room = 0 then (pushOp o s, o.id)
  else
    let s := pushOp { o with accs := o.accs.take room } s
    (pushOp { o with id := s.mem.nextOp, accs := o.accs.drop room } s, s.mem.nextOp)

/-- The other twin of a paired strand (16 R411): a secondary's index is its primary's + 2^40. -/
def twinOf (id : StrandId) : StrandId :=
  if id.index < 2 ^ 40 then ⟨id.handle, id.index + 2 ^ 40⟩ else ⟨id.handle, id.index - 2 ^ 40⟩

/-! ### Acquires (10 R306) -/

/-- Whether a line lies in a region bound to an object in a context (10 R301); every region is bound to the universal
object (10 R305). -/
def lineBound (s : State) (die ctx : Nat) (object : Option Nat) (line : Nat) : Bool :=
  match object with
  | none => true
  | some o => (contextAt s ctx).bindings.any (fun e => e.object == o / 8 &&
      (List.range e.units).any (fun i =>
        let va := (e.region + i) * 65536
        match walk s die ctx va with
        | .leaf l level => decide ((leafFrame l + va % levelSize level) / 65536 = line * 128 / 65536)
        | _ => false))

/-- The staged units of bound regions dropped: CLEAN ones at once, others after their write-back (10 R306). -/
def dropStaged (die ctx : Nat) (object : Option Nat) (s : State) : State :=
  s.mem.staged.foldl (fun s p =>
    let borrow := p.1 / 2 ^ 23
    let unit := p.1 % 2 ^ 23
    if (tget s.lending.borrows .free borrow).state != .lost
        && lineBound s die ctx object ((pkgNo s * 2 ^ 43 + stageAddr s borrow unit) / 128) then
      match p.2 with
      | .clean _ | .fetching _ => dropUnit borrow unit s
      | _ => beginWriteback borrow unit none true s
    else s) s

/-- The far accesses of a die in flight on lines that meet a condition: what their replies bring is no copy any more, since it may
be older than what the die has seen or written since (10 R295, R306, R308). -/
def lateLoads (die : Nat) (hit : Nat → Bool) (s : State) : State :=
  { s with mem := { s.mem with late := merge s.mem.late ((s.mem.ops.filter (fun o => o.die == die)).flatMap (fun o =>
      o.accs.zipIdx.filterMap (fun p =>
        if p.1.state == .switched && !isLocal s p.1.fab && hit (p.1.fab / 128) then some (o.id, p.2) else none))) } }

/-- What the N16 drops when an acquire's value returns (10 R306): copies, and those that far loads in flight would make. -/
def acquireDrops (die ctx : Nat) (object : Option Nat) (scope : Scope) (s : State) : State :=
  match scope with
  | .pkg =>
    { s with mem := { s.mem with copies := s.mem.copies.filter (fun c =>
        !(c.die == die && isLocal s (c.line * 128) && lineBound s die ctx object c.line)) } }
  | .pod | .sys =>
    let s := { s with mem := { s.mem with copies := s.mem.copies.filter (fun c =>
        !(c.die == die && lineBound s die ctx object c.line)) } }
    dropStaged die ctx object (lateLoads die (lineBound s die ctx object) s)
  | _ => s

/-! ### Answers -/

/-- The access that serves a thread. -/
def Op.accOf (o : Op) (t : Fin 32) : Option Access := o.accs.find? (fun a => a.threads.getLsbD t.val)

/-- Whether an access has its answer: a decision is answered only once performed (08 R234). -/
def Op.answered (o : Op) (a : Access) : Bool :=
  match a.state with
  | .done | .failed _ => true
  | .applied => (match o.what with
    | .docProp | .docReset => false
    | _ => true)
  | _ => false

/-- The sign extension of a narrow load (08 R212). -/
def loadValue (wd : Width) (x : BitVec 128) : List Word :=
  let w := fun (i : Nat) => BitVec.ofNat 32 (x.toNat / 2 ^ (32 * i))
  match wd with
  | .b => [(x.setWidth 8).setWidth 32]
  | .bs => [(x.setWidth 8).signExtend 32]
  | .h => [(x.setWidth 16).setWidth 32]
  | .hs => [(x.setWidth 16).signExtend 32]
  | .w => [w 0]
  | .d => [w 0, w 1]
  | .q => [w 0, w 1, w 2, w 3]

/-- The register values of an answer. -/
def Op.words (o : Op) (a : Access) : List Word :=
  let x := a.result
  let w := fun (i : Nat) => BitVec.ofNat 32 (x.toNat / 2 ^ (32 * i))
  match o.what with
  | .load wd | .loadv wd => loadValue wd x
  | .atomic fn wide => if fn = .badd then [w 0, BitVec.ofNat 32 (flag a.ok)] else if wide then [w 0, w 1] else [w 0]
  | .docProp | .docRead | .docReset | .docStat => [w 0, w 1, w 2, w 3]
  | .acq | .acqrel | .watch _ _ _ | .service _ _ => [w 0]
  | _ => []

/-- A strand with a register written for the threads whose accesses succeeded; threads outside `good` keep theirs. -/
def deliverReg (r : Reg) (v : RegVal) (good : Mask) (st : Strand) : Strand :=
  let old := vget st.regs r.toNat (.u 0)
  st.setReg r (merged good old v)

/-- A write in the operand log of a strand's lane: what has just been written, a latch in a fragment (16 R405). -/
def logAt (id : StrandId) (frag : Nat) (site : RegSite) (s : State) : State :=
  match findStrand s id with
  | some st =>
    let k := st.place.laneKey
    { s with opLog := tput s.opLog [] k ((logEntry st ((st.frag? frag).getD st.cur) site :: tget s.opLog [] k).take 32) }
  | none => s

/-- The results of an operation written to the registers of its strand (08 R213, R225; 14 R349). -/
def deliver (o : Op) (good : Mask) (s : State) : State :=
  let n := o.writes.length
  (List.range n).foldl (fun s i =>
    let r := nextReg o.dst i
    let val := fun (t : Fin 32) => match o.accOf t with
      | some a => (o.words a).getD i 0
      | none => 0
    let v : RegVal := if o.uniform then .u (match o.accs with
      | a :: _ => (o.words a).getD i 0
      | [] => 0) else gOf val
    logAt o.owner o.frag (.reg r) (modStrand o.owner (deliverReg r v good) s)) s

/-- The latch of a service call that its instruction still owes takes the status of the call (02 R35, 09 R289). -/
def deliverLatch (o : Op) (s : State) : State :=
  match o.what, o.accs with
  | .service _ _, a :: _ =>
    (match (findStrand s o.owner).bind (fun st => (st.frag? o.frag).bind (fun f => f.owed.find? (fun p => p.2 == o.id))) with
     | some p =>
       logAt o.owner o.frag (.latch (BitVec.ofNat 2 p.1)) (modStrand o.owner (fun st => st.modFrag o.frag (fun f =>
         { f with
           latches := vset f.latches p.1 (merged a.threads (vget st.regs o.dst.toNat (.u 0)) (.u ((o.words a).getD 0 0)))
           owed := f.owed.filter (fun q => q.2 != o.id) })) s)
     | none => s)
  | _, _ => s

/-- The operation is over once nothing is owed and every access has ended. -/
def sweepOp (id : Nat) (s : State) : State :=
  match findOp s id with
  | none => s
  | some o => if !o.holds && !o.gate && !o.windowed && !o.accs.any Access.unperformed then dropOp id s else s

/-- Accesses of a strand's operation change its counters; a strand without threads may then end (02 R22). -/
def settleOp (id : Nat) (s : State) : State :=
  match findOp s id with
  | none => s
  | some o => reap o.owner (sweepOp id s)

/-- The lowest thread of the accesses that failed with a cause, and its access. -/
def Op.failedWith (o : Op) (c : Cause) : List Access := o.accs.filter (fun a => a.state == .failed c)

/-- The cause of an operation with refused accesses: the first of 14 R351. -/
def Op.cause (o : Op) : Option Cause :=
  [Cause.docMisuse, .leaseRecalled, .lenderLost, .poison, .leaseExpired, .remoteFault].find? (fun c =>
    o.accs.any (fun a => a.state == .failed c))

/-- The threads of accesses. -/
def threadsOf (l : List Access) : Mask := l.foldl (fun m a => m ||| a.threads) 0

/-- The report of a refused access: POISON and REMOTE_FAULT name the fabric address, lease causes the virtual one (14
R350). -/
def replyReport (o : Op) (c : Cause) (after : Bool) : Report :=
  let bad := o.failedWith c
  let a := (minBy (fun (a : Access) => (lowest a.threads).val) bad)
  let where_ := match a with
    | some a => if c = .poison then BitVec.ofNat 64 (a.fab / 256 * 256)
                else if c = .remoteFault then BitVec.ofNat 64 a.fab else a.va
    | none => 0
  let arg := match a with
    | some a => if c = .leaseExpired || c = .leaseRecalled || c = .lenderLost then a.index else 0
    | none => 0
  { cause := c, detail := if c = .docMisuse then 2 else 0, addr := where_, threads := threadsOf bad, after := after, arg := BitVec.ofNat 64 arg }

/-- The words of an operation's instruction. -/
def Op.ws (o : Op) : List Word := [o.word]

/-- Whether a refused part of an instruction leaves its other threads' results standing (14 R349). -/
def OpKind.perThreadFail : OpKind → Bool
  | .atomic _ _ | .docProp | .docRead | .docReset | .docStat => true
  | _ => false

/-- A fragment's waiting instruction retires: its pops are made, its latch window ends, and the pc names the next word (02 R36,
R38). -/
def pastWait (o : Op) (f : Fragment) (s : State) : State :=
  let s := f.heldPops.foldl (fun s q => commitPopOf o.owner f.deadPops q s) s
  modStrand o.owner (fun st => st.modFrag f.id (fun f => (f.endWindow none).past o.ws)) s

/-- The instruction of an outstanding operation retires: its waiting fragment goes on. -/
def retireWait (o : Op) (s : State) : State :=
  match (findStrand s o.owner).bind (fun st => (st.frag? o.frag).map (fun f => (st, f))) with
  | none => s
  | some (st, f) =>
    if f.begun != .sent o.id then s
    else
      let s := pastWait o f s
      if st.imaging && st.restWaits o.frag then
        modStrand o.owner (fun st => st.modFrag o.frag (fun f => { f with wait := .yield, slot := false })) s
      else s

/-- Whether the fragment of an operation waits for it (14 R348). -/
def opAwaited (s : State) (o : Op) : Bool :=
  match findStrand s o.owner with
  | some st => (match st.frag? o.frag with
    | some f => f.begun = .sent o.id
    | none => false)
  | none => false

/-- The fragment in which a cause from a reply is raised: the one that issued the instruction, or, when it has split or fused
since, the live one that holds the lowest of the threads (14 R347; log 35). -/
def replyFrag (st : Strand) (o : Op) (m : Mask) : Option Fragment :=
  match st.frag? o.frag with
  | some f => if f.live then some f else st.liveFrags.find? (fun f => f.mask.getLsbD (lowest m).val)
  | none => st.liveFrags.find? (fun f => f.mask.getLsbD (lowest m).val)

/-- The position after an operation's instruction (14 R346). -/
def Op.next (o : Op) : BitVec 52 × Nat :=
  if clauseLen o.head < o.widx + 1 then (o.pc + BitVec.ofNat 52 (4 * (clauseLen o.head + 1)), 0) else (o.pc, o.widx + 1)

/-- Whether a cause from the reply of an operation can be raised now: the fragment waits for the reply, or stands between two
instructions; else it comes when the fragment's own instruction has retired (14 R346; log 35). -/
def raisable (st : Strand) (o : Op) (r : Report) : Bool :=
  match replyFrag st o r.threads with
  | none => true
  | some f => f.begun == .sent o.id || (f.wait == .ready && f.begun == .no)

/-- A fragment that has gone on past an instruction which is refused makes that one instruction once more, or stands after it
for threads that succeeded; then it takes up again where it had come to, so that nothing else is made twice (14 R346, R369;
log 35). -/
def Fragment.redone (o : Op) (after : Bool) (f : Fragment) : Fragment :=
  let p := if after then o.next else (o.pc, o.widx)
  { f.goto p.1 p.2 with
    tf := none, redo := ⟨(o.pc, o.widx), o.next, (f.hdr, f.widx), f.tf, f.tickCap⟩ :: f.redo }

/-- A cause from the reply of an operation (14 R346–R349): before the instruction, or after it for the threads that
succeeded. -/
def raiseReply (o : Op) (r : Report) (s : State) : State :=
  match (findStrand s o.owner).bind (fun st => replyFrag st o r.threads) with
  | none => s
  | some f =>
    let s := focus o.owner f.id s
    let waits := f.begun == .sent o.id
    if r.after then
      raiseAfter o.ws o.head r (if waits then pastWait o f s else modCur (Fragment.redone o true) s)
    else
      takeCause r (posWord o.pc o.widx) (emulation o.ws o.head) (modCur (fun f =>
        if waits then
          { f with hdr := o.pc, widx := o.widx, inClause := false, begun := .no, wait := .ready, heldPops := [] }
        else f.redone o false) s)

/-- An acquire of an operation completes (08 R220, R227, R236). -/
def acquireOf (o : Op) (s : State) : State :=
  let ctx := match findStrand s o.owner with
    | some st => st.who.context
    | none => 0
  let acquires := match o.what with
    | .acq | .acqrel => true
    | .atomic _ _ | .docProp | .docRead | .docReset | .docStat => o.scope != Scope.lane
    | _ => false
  if acquires then
    o.accs.foldl (fun s (a : Access) => acquireDrops o.die ctx (some (a.fab / 8 * 8)) o.scope s) s
  else s

/-- All answers of an operation are there: its registers are written, or its cause is raised; then it is swept (14
R348, R349). A handler cause that comes while the strand is halted is recorded, and delivered after RESUME (14 R371). -/
def answerOp (id : Nat) (s : State) : State :=
  match findOp s id with
  | none => s
  | some o =>
    if !o.holds || o.gate || o.accs.isEmpty || !(o.accs.all o.answered) then settleOp id s
    else
      let free := modOp (fun o => { o with holds := false }) id
      match o.cause with
      | none =>
        settleOp id (retireWait o (acquireOf o (free (deliver o (if o.uniform then
          (match o.accs with
           | a :: _ => a.threads
           | [] => 0) else threadsOf o.accs) (deliverLatch o s)))))
      | some c =>
        let good := o.accs.filter (fun a => match a.state with
          | .failed _ => false
          | _ => true)
        if !((findStrand s o.owner).all (fun st => raisable st o (replyReport o c false))) then s
        else if good.isEmpty || c = .docMisuse || !o.what.perThreadFail then
          settleOp id (raiseReply o (replyReport o c false) (free s))
        else
          settleOp id (raiseReply o (replyReport o c true) (acquireOf o (free (deliver o (threadsOf good) s))))

/-- Whether an access has not yet taken its place in the coherence order. -/
def Access.unordered (a : Access) : Bool := a.state == .waiting || a.state == .switched

/-- The die's copy of a line as it is filled or replaced: the bytes supplied, with the die's accepted stores over them. -/
def putCopy (die line : Nat) (bytes : List Byte) (s : State) : State :=
  let s' := dropCopy die line s
  let bs := withAccepted s' die none s'.mem.nextOp (line * 128) bytes
  { s' with fresh := s'.fresh + 1, mem := { s'.mem with copies := s'.mem.copies ++ [⟨die, line, bs, s'.tick⟩] } }

/-- Whether the die has taken a store to the line that the home may not have applied yet (10, accepted stores). -/
def linePending (s : State) (die line : Nat) : Bool :=
  s.mem.ops.any (fun o => o.die == die && o.what.isStore && o.accs.any (fun a => a.unordered && a.fab / 128 == line))

/-- The die's copy of another package's line as a reply brings it, with the tick at which the home supplied it. While a store
of the die to the line is on its way, or where the reply is late, no copy is kept, so that none is older than what the die has
written or seen (10 R295, R310; log 25). -/
def keepFar (late : Bool) (die line : Nat) (bytes : List Byte) (tick : DWord) (s : State) : State :=
  let s' := dropCopy die line s
  if late || linePending s die line then s'
  else { s' with fresh := s'.fresh + 1, mem := { s'.mem with copies := s'.mem.copies ++ [⟨die, line, bytes, tick⟩] } }

/-- The copy of the line of an address filled from its home. -/
def fillLine (die fab : Nat) (s : State) : State :=
  putCopy die (fab / 128) (peek s (fab / 128 * 128) 128) s

end Sys2Proof.Machine
end

