-- ==== Sys2Proof/Machine/Flow.lean ====
section
/-! DEFINITION. Majors 0x20–0x24 and the beginning of a clause: branches, calls, jumps, `exit`, `nap`, `tfence`, traps,
`role` and `sysc` (06 R142–R150; 07 R200–R208; 09 R284–R289). -/

namespace Sys2Proof.Machine

/-! ### Transfers -/

/-- What an instruction asks at issue under an empty mask that it acts under: no operand; the registers it names still wait for
their loads (02 R34, 06 R156). -/
def Need.underMask (n : Need) (s : State) : Need :=
  if s.me.cur.mask = 0 then { n with acts := true, sels := [], regs := n.regs ++ selRegs n.sels, uses := [] } else n

/-- A transfer that is not taken: the fragment continues at the following header (06 R149, 07 R205). -/
def notTaken (n : Need) (s : State) : State :=
  modCur (fun f => ({ f with last := n.words } : Fragment).goto f.nextHeader 0) s

/-- The `tfence` that a TF clause has before the transfer that ends it, then that transfer `k` (06 R147, 14 R360): its waits, its
test, and its yield point before the transfer, in the order of every tfence here (log 51). -/
def beforeTransfer (n : Need) (s : State) (k : State → State) : State :=
  if !tfOf s.me.cur.head then k s
  else if tfWaits s then s
  else if trapFlags s.me != 0 then
    raiseBefore n.words { cause := .arith, addr := (trapFlags s.me).setWidth 64, threads := s.me.cur.mask } s
  else if s.me.requested then yieldPoint s
  else k s

/-- A transfer instruction (06 R149): the last of its clause; under an empty mask not taken (07 R205). -/
def transferOp (n : Need) (s : State) (k : List RegVal → State → State) : State :=
  let n := { n.underMask s with transfer := true }
  issue n s (fun vals s => beforeTransfer n s (fun s => if s.me.cur.mask = 0 then notTaken n s else k vals s))

/-- The active threads whose condition holds (07 R200). -/
def branchMask (s : State) (p : PredNo) (ng : Bool) : Mask :=
  (if ng then ~~~(predMask s p) else predMask s p) &&& s.me.cur.mask

/-- The target of a B-format word: a signed word offset from the branch (06 R151). -/
def branchTarget (s : State) (tgt : BitVec 14) : BitVec 52 := s.me.cur.wordAddr + 4 * tgt.signExtend 52

/-- `br` (07 R200): taken by the whole fragment when the condition holds in some active thread. -/
def execBr (p : PredNo) (ng : Bool) (tgt : BitVec 14) (s : State) : Out :=
  let n : Need := { words := encodeWords (.br p ng tgt) }
  .next (transferOp n s (fun _ s =>
    if branchMask s p ng = 0 then notTaken n s else jump n.words (branchTarget s tgt) s))

/-- `br.all` (07 R200): taken when it holds in every active thread. -/
def execBrAll (p : PredNo) (ng : Bool) (tgt : BitVec 14) (s : State) : Out :=
  let n : Need := { words := encodeWords (.brAll p ng tgt) }
  .next (transferOp n s (fun _ s =>
    if branchMask s p ng = s.me.cur.mask then jump n.words (branchTarget s tgt) s else notTaken n s))

/-- A split, whose taken side is a yield point when it leads backward (02 R39, R49). -/
def splitTo (ws : List Word) (t f : Mask) (target reconv fall : BitVec 52) (fallWidx : Nat) (aux : BitVec 8) (s : State) :
    State :=
  let here := s.me.cur.wordAddr
  let s := split ws t f target reconv fall fallWidx aux s
  if target.toNat < here.toNat then yieldPoint s else s

/-- `brd` (07 R201; 02 R39, R42): T goes to the target, F to the following clause. -/
def execBrd (p : PredNo) (ng : Bool) (tgt : BitVec 14) (aux : BitVec 8) (s : State) : Out :=
  let n : Need := { words := encodeWords (.brd p ng tgt aux) }
  let w := n.words
  .next (transferOp n s (fun _ s =>
    let t := branchMask s p ng
    let f := s.me.cur.mask &&& ~~~t
    if t = 0 then notTaken n s
    else if f = 0 then jump w (branchTarget s tgt) s
    else splitTo w t f (branchTarget s tgt) (s.me.cur.wordAddr + 4 * aux.setWidth 52) s.me.cur.nextHeader 0 aux s))

/-- `call` (07 R202): `lr` takes the low bits of the following address. -/
def execCall (tgt : BitVec 14) (s : State) : Out :=
  let n : Need := { words := encodeWords (.call tgt) }
  .next (transferOp n s (fun _ s =>
    jump n.words (branchTarget s tgt)
      (modMe (fun st => { st with lr := (s.me.cur.wordAddr + 4).setWidth 32 }) s)))

/-- A cause of a jump's target, before the jump: ALIGNMENT 2 or TRANSLATION (07 R203; 14 R350, R366). -/
def badTarget (n : Need) (c : Cause) (d : Nat) (addr : DWord) (m : Mask) (s : State) : State :=
  raiseBefore n.words { cause := c, detail := d, addr := addr, threads := m } s

/-- `ret` (07 R202): to the address in `lr` within the same 4 GiB (log 62). -/
def execRet (s : State) : Out :=
  let n : Need := { words := encodeWords .ret }
  .next (transferOp n s (fun _ s =>
    let t : BitVec 52 := (s.me.cur.wordAddr >>> 32 <<< 32) + s.me.lr.setWidth 52
    if t.toNat % 4 ≠ 0 then badTarget n .alignment 2 (t.setWidth 64) s.me.cur.mask s
    else jump n.words t s))

/-- `jr` (07 R203): the whole fragment goes to the address at the lowest active thread. -/
def execJr (a : Reg) (s : State) : Out :=
  let n : Need := { words := encodeWords (.jr a), regs := [a, nextReg a 1], uses := [a, nextReg a 1] }
  .next (transferOp n s (fun _ s =>
    let t := pairAt s a (lowest s.me.cur.mask)
    if t.toNat % 4 ≠ 0 then badTarget n .alignment 2 t s.me.cur.mask s
    else if t.toNat / 2 ^ 52 ≠ 0 then badTarget n .translation 0 t s.me.cur.mask s
    else jump n.words (posAddr t) s))

/-- `jrd` (07 R204): each active thread goes to its own address; F of a split resumes at the `jrd` itself (log 54). -/
def execJrd (a b : Reg) (s : State) : Out :=
  let n : Need := { words := encodeWords (.jrd a b), regs := [a, nextReg a 1, b, nextReg b 1],
                    uses := [a, nextReg a 1, b, nextReg b 1] }
  let w := n.words
  .next (transferOp n s (fun _ s =>
    let m := s.me.cur.mask
    let r := pairAt s b (lowest m)
    let odd := m &&& maskOf (fun t => (pairAt s a t).toNat % 4 != 0)
    let far := m &&& maskOf (fun t => (pairAt s a t).toNat / 2 ^ 52 != 0)
    let x := pairAt s a (lowest m)
    if odd ≠ 0 then badTarget n .alignment 2 (pairAt s a (lowest odd)) odd s
    else if r.toNat % 4 ≠ 0 then badTarget n .alignment 2 r m s
    else if far ≠ 0 then badTarget n .translation 0 (pairAt s a (lowest far)) far s
    else if r.toNat / 2 ^ 52 ≠ 0 then badTarget n .translation 0 r m s
    else
      let t := m &&& maskOf (fun t => pairAt s a t == x)
      if t = m then jump w (posAddr x) s
      else splitTo w t (m &&& ~~~t) (posAddr x) (posAddr r) s.me.cur.hdr s.me.cur.widx 0 s))

/-! ### Major 0x24 -/

/-- `nop` (07 R206). -/
def execNop (s : State) : Out :=
  let n : Need := { words := encodeWords .nop }
  .next (issue n s (fun _ s => retire n s))

/-- `exit` (07 R207; 02 R44): the active threads of the fragment end, once the strand's staged stores are written back
(11 R323). -/
def execExit (s : State) : Out :=
  let n : Need := { words := encodeWords .exit, releasing := true }
  .next (transferOp n s (fun _ s => closeWindow n s (fun s =>
    if stagedOwed s s.me.who.id then writeBackFor s.me.who.id s
    else
      let id := s.me.who.id
      let m := s.me.cur.mask
      reap id (modMe (fun st => (st.dropThreads m).curEmpty.joins) s))))

/-- `yield` (07 R206): a yield point. -/
def execYield (s : State) : Out :=
  let n : Need := { words := encodeWords .yield }
  .next (issue n s (fun _ s => yieldPoint (retire n s)))

/-- `tfence` (09 R285): waits for what is outstanding, then tests the flags; a yield point. -/
def execTfence (s : State) : Out :=
  let n : Need := { words := encodeWords .tfence, acts := true }
  .next (issue n s (fun _ s =>
    if tfWaits s then s
    else
      let head := s.me.cur.head
      let m := s.me.cur.mask
      if trapFlags s.me != 0 && causeHeld s then holdCause s
      else
      let s := retire n s
      if trapFlags s.me = 0 then yieldPoint s
      else raiseAfter n.words head { cause := .arith, addr := (trapFlags s.me).setWidth 64, threads := m } s))

/-- A fragment past an instruction that ends its clause, its pops made; in a TF clause the implicit `tfence` follows (06 R147, 09
R284). -/
def retireClause (n : Need) (s : State) : State :=
  modCur (Fragment.pastEnd n.words) ((selPops n.sels).foldl (fun s q => commitPop q s) s)

/-- BREAK after an instruction that ends its clause (09 R286); held before it while another fragment is in the handler (14
R356). -/
def raiseBreak (n : Need) (addr : DWord) (s : State) : State :=
  let head := s.me.cur.head
  let m := s.me.cur.mask
  if causeHeld s then holdCause s
  else raiseAfter n.words head { cause := .brk, addr := addr, threads := m } (retireClause n s)

/-- `trap` (09 R286): BREAK with the code of a at the lowest active thread; 0 under an empty mask. -/
def execTrap (a : Sel) (s : State) : Out :=
  let n : Need := ({ words := encodeWords (.trap a), sels := [a], acts := true } : Need).underMask s
  .next (issue n s (fun v s => raiseBreak n (if s.me.cur.mask = 0 then 0 else (low s v 0).setWidth 64) s))

/-- `brkpt` (09 R286; 14 R370, R371): halts the strand on an armed lane, else BREAK. -/
def execBrkpt (s : State) : Out :=
  let n : Need := { words := encodeWords .brkpt, acts := true }
  .next (issue n s (fun _ s =>
    if s.boot.armed.contains s.me.place.lane then
      modMe (fun st => { st with halted := true, stepping := none }) (retireClause n s)
    else raiseBreak n (BitVec.ofNat 64 (2 ^ 32)) s))

/-- `eret` (09 R287, 14 R357): leaves the handler; a yield point. Outside a handler a misuse. -/
def execEret (s : State) : Out :=
  let n : Need := { words := encodeWords .eret }
  .next (transferOp n s (fun _ s =>
    if !handlerActive s.me then
      raiseBefore n.words { cause := .operandMisuse, detail := 8, threads := s.me.cur.mask } s
    else yieldPoint (returnFromHandler s)))

/-- The target of `nap`: the tick whose low word is k, above now − 2^31 and at most now + 2^31 (07 R208). A tick before 0
is long past, and one beyond the counter is never reached. -/
def napTarget (now : DWord) (k : Word) : DWord :=
  let d := k - loW now
  let t : Int := Int.ofNat now.toNat + (if d = 0x80000000 then 2 ^ 31 else d.toInt)
  if t < 0 then 0 else if 2 ^ 64 ≤ t then BitVec.allOnes 64 else BitVec.ofInt 64 t

/-- Whether the engine has still to decide a promise of the strand that lies at or before a target (15 R400). -/
def undecidedBefore (s : State) (t : DWord) : Bool :=
  s.engines.undecided.any (fun u => u.1 == s.me.who.id && decide (u.2.1.toNat ≤ t.toNat))

/-- A `nap` completes: a missed promise at or before its target is raised after it, once (14 R361); while another fragment is in the handler the nap is held, and made again (14 R356). -/
def endNap (n : Need) (t : DWord) (s : State) : State :=
  let head := s.me.cur.head
  let m := s.me.cur.mask
  let hit := fun (x : StrandId × TileNo × DWord × Nat) => x.1 == s.me.who.id && decide (x.2.2.1.toNat ≤ t.toNat)
  match s.engines.missed.find? hit with
  | none => retire n s
  | some x =>
    if causeHeld s then holdCause s
    else
    let s := retire n { s with engines := { s.engines with missed := dropFirst hit s.engines.missed } }
    raiseAfter n.words head { cause := .promiseMissed, addr := pair (BitVec.ofNat 32 x.2.1.toNat) (loW x.2.2.1),
                              threads := m } s

/-- `nap` (07 R208): waits until the tick counter reaches its target. -/
def execNap (a : Sel) (s : State) : Out :=
  let n : Need := { words := encodeWords (.nap a), sels := [a], blocking := true }
  .next (issue n s (fun v s =>
    let t := match s.me.cur.begun with
      | .napping t => t
      | _ => napTarget s.tick (low s v 0)
    if s.tick.toNat < t.toNat then waitHere n (.nap t) (.napping t) s
    else if undecidedBefore s t then modCur (fun f => { f with begun := .napping t }) s
    else endNap n t s))

/-- Whether a role's figures lie within the reservation of its launch (03 R62). -/
def roleFits (r : Record) (x : RoleRec) : Bool :=
  decide (x.v ≤ r.vmax) && decide (x.g ≤ r.gmax) && decide (x.v - x.g ≤ r.spill)

/-- The switch to a role (02 R46). -/
def switchRole (n : Nat) (x : RoleRec) (st : Strand) : Strand :=
  { st with
    role := BitVec.ofNat 32 n, prio := BitVec.ofNat 32 x.cls, allotV := x.v, allotG := x.g,
    regs := Vector.ofFn (fun (i : Fin 64) => if i.val < min st.allotV x.v then st.regs[i] else .u 0),
    resident := (st.resident.filter (fun r => decide (r.toNat < x.v))).take x.g,
    cur := st.cur.goto x.entry 0 }

/-- The misuse of a `role` that its operand's value has no part in (14 R351, R355). -/
def roleMisuse (s : State) : Option Report :=
  if s.me.place.isCtl then some { cause := .operandMisuse, detail := 5, threads := s.me.cur.mask }
  else if s.me.all.length != 1 then some { cause := .operandMisuse, detail := 6, threads := s.me.cur.mask }
  else none

/-- `role` (09 R288; 02 R46): a switch that lowers V waits for the in-flight count to be zero. The implicit `tfence` of a TF
clause follows it, at the role's entry (14 R360; log 34). Under an empty mask it does nothing (log 34). -/
def execRole (a : Sel) (s : State) : Out :=
  let n : Need := { words := encodeWords (.role a), sels := [a], misuse := roleMisuse s }
  .next (issue n s (fun v s =>
    let x := low s v 0
    let misuse := fun (d : Nat) => raiseBefore n.words { cause := .operandMisuse, detail := d, addr := x.setWidth 64,
                                                          threads := s.me.cur.mask } s
    if s.me.place.isCtl then misuse 5
    else match findLaunch s s.me.who.id.handle with
      | none => misuse 5
      | some l =>
        match (if x.toNat ≤ l.record.nrole then l.roles[x.toNat]? else none) with
        | none => misuse 5
        | some r =>
          if !roleFits l.record r then misuse 5
          else if s.me.all.length != 1 then misuse 6
          else if decide (r.v < s.me.allotV) && (inFlight s s.me.who.id != 0 || outLoads s s.me.who.id != 0) then s
          else modMe (switchRole x.toNat r) (retireClause n s)))

/-- The function that a `sysc` asks for, when its operand is at hand (09 R289). -/
def syscFunction (s : State) (a : Sel) : Option Nat :=
  match a with
  | .queue _ => none
  | .reg r => if s.me.allotV ≤ r.toNat || regBusy s s.me.who.id r.toNat then none
              else some ((reg s r).at (lowest s.me.cur.mask)).toNat
  | x => some ((selVal s x).at (lowest s.me.cur.mask)).toNat

/-- The service of a function number (09 R290). -/
def svcOf (fn : Nat) : Option SvcKind :=
  match fn with
  | 0x100 => some .inval
  | 0x101 => some .bindload
  | 0x102 => some .evict
  | 0x103 => some .checkpoint
  | 0x104 => some .restore
  | 0x105 => some .kill
  | _ => none

/-- Whether a function number is a service function that a context may not call (log 60). -/
def svcBarred (s : State) (fn : Nat) : Bool := decide (0x100 ≤ fn) && decide (fn ≤ 0x1FF) && !isKernel s s.me

/-- `sysc` of a user function: the fragment parks with SYSC set (09 R289; 14 R362, R363; log 52). -/
def parkSysc (n : Need) (fn : Nat) (arg : DWord) (s : State) : State :=
  let s := park { cause := .syscall, threads := s.me.cur.mask, arg := arg } (2 ^ 19)
    (posWord s.me.cur.hdr s.me.cur.widx) (emulation n.words s.me.cur.head) (BitVec.ofNat 32 fn) 0 s
  modCur (fun f => { f with heldPops := selPops n.sels, deadPops := deadOnes s (selPops n.sels) }) s

/-- `sysc` (09 R289, R290). -/
def execSysc (d : Reg) (nw : Bool) (a : Sel) (b : Reg) (s : State) : Out :=
  let fnOf := fun (x : Nat) => x % 4096
  let priv := match syscFunction s a with
    | some x => if svcBarred s (fnOf x) then some (fnOf x) else none
    | none => none
  let n : Need := { words := encodeWords (.sysc d nw a b), regs := [d, b, nextReg b 1], uses := [b, nextReg b 1], sels := [a], dst := some d,
                    priv := priv }
  .next (issue n s (fun v s =>
    let fn := fnOf (low s v 0).toNat
    let arg := pairAt s b (lowest s.me.cur.mask)
    match s.me.cur.begun with
    | .answered x => retire n (writeVec d nw (.u x) s)
    | _ =>
      if fn < 0x100 then parkSysc n fn arg s
      else if svcBarred s fn then
        raiseBefore n.words { cause := .privilege, addr := BitVec.ofNat 64 fn, threads := s.me.cur.mask } s
      else match svcOf fn with
        | none => retire n (writeVec d nw (.u 0xFFFFFFFF) s)
        | some kind =>
          if 63 ≤ outLoads s s.me.who.id then s
          else
            let id := s.nextSvc
            let a := newAccess s.me.cur.mask 0 (pkgNo s * 2 ^ 43) 0 0 0 0
            let o := { opHere n s (.service id nw) d .pkg with
              gate := true
              holds := true
              uniform := true
              accs := [a] }
            let svc : Service := { id := id, kind := kind, arg := arg, op := o.id, begun := false, before := [], frames := [] }
            retire n (modCur (fun f => { f with owed := f.owed.filter (fun p => p.1 != f.k % 4) ++ [(f.k % 4, o.id)] })
              (pushOp o { s with services := s.services ++ [svc], nextSvc := id + 1 }))))

/-! ### The beginning of a clause -/

/-- `CLAUSE_BEGIN` (06 R145): the fragment with the issue slot begins its clause, once its header's waits hold. -/
def execClauseBegin (s : State) : Out := .next (beginClause s)

end Sys2Proof.Machine
end

