-- ==== Sys2Proof/Machine/Special.lean ====
section
/-! DEFINITION. Majors 0x25 and 0x26: reading and writing special registers (06 R155, R162, R163; 09 R288, R291–R294). -/

namespace Sys2Proof.Machine

/-- The number of a special register (06 R162, 09 R292). -/
def sregNumber (r : SReg) : Nat := (encodeSReg r).toNat

/-- Whether it is a package-kernel register (06 R162). -/
def isKernelReg (r : SReg) : Bool := decide (0x100 ≤ sregNumber r)

/-- Whether it exists in control contexts only (06 R163). -/
def isControlReg (r : SReg) : Bool := decide (0x60 ≤ sregNumber r) && decide (sregNumber r ≤ 0x6A)

/-- The control context in which the executing program runs. -/
def ownControl (s : State) : Nat :=
  match s.me.place with
  | .ctl q c => ctlKey q c
  | _ => 0

/-- The address context that PKSEL selects (09 R292). -/
def selected (s : State) : Nat := s.kernel.pksel.toNat % 256

/-- `allot` (09 R288). -/
def allotWord (st : Strand) : Word := BitVec.ofNat 32 (st.allotG * 256 + st.allotV)

/-- The value a special register reads as (06 R162; 09 R288, R292). -/
def readSReg (s : State) (r : SReg) : Word :=
  let st := s.me
  let c := contextAt s (selected s)
  let cc := controlAt s (ownControl s)
  let k := s.kernel
  match r with
  | .fcr => st.fcr
  | .fflags => st.fflags
  | .ftrapen => st.ftrapen
  | .xm => st.cur.mask
  | .lr => st.lr
  | .role => st.role
  | .prio => st.prio
  | .allot => allotWord st
  | .qstatus => st.qstatus
  | .wdl => st.wdl
  | .wdlh => st.wdlh
  | .psf => st.psf
  | .tick => loW s.tick
  | .tickh => st.cur.tickCap.getD (hiW s.tick)
  | .tvec => st.trap.tvec
  | .tvech => st.trap.tvech
  | .tcause => st.trap.tcause
  | .taddr => st.trap.taddr
  | .taddrh => st.trap.taddrh
  | .tepc => st.trap.tepc
  | .tepch => st.trap.tepch
  | .emword => st.trap.emword
  | .emop => st.trap.emop
  | .emfn => st.trap.emfn
  | .emd => st.trap.emd
  | .ema => st.trap.ema
  | .emb => st.trap.emb
  | .emc => st.trap.emc
  | .emimm => st.trap.emimm
  | .emclause => st.trap.emclause
  | .hoff n => vget cc.hoff n.toNat 0
  | .mcnan => cc.mcnan
  | .mcovf => cc.mcovf
  | .mcsat => cc.mcsat
  | .pkgno => BitVec.ofNat 32 (pkgNo s)
  | .dieno => BitVec.ofNat 32 st.place.die
  | .quadno => BitVec.ofNat 32 st.place.quad
  | .coreno => idCore st.place
  | .laneno => idLane st.place
  | .strandno => BitVec.ofNat 32 st.who.sid
  | .blkx => st.who.blockX
  | .blky => st.who.blockY
  | .blkz => st.who.blockZ
  | .gridx => st.who.gridX
  | .gridy => st.who.gridY
  | .gridz => st.who.gridZ
  | .nstrands => st.who.nstrands
  | .blkidx => BitVec.ofNat 32 st.who.blockIdx
  | .lhandle => BitVec.ofNat 32 st.who.id.handle
  | .params => loW st.who.params
  | .paramsh => hiW st.who.params
  | .pksel => k.pksel
  | .rootl => c.rootl
  | .rooth => c.rooth
  | .asn => c.asn
  | .aplace => c.aplace
  | .bindl => c.bindl
  | .bindh => c.bindh
  | .bindn => c.bindn
  | .winA n => vget c.winA n.toNat 0
  | .winB n => vget c.winB n.toNat 0
  | .kctx => c.kctx
  | .crdl => k.crdl
  | .crdh => k.crdh
  | .qctx q => vget k.qctx q.toNat 0
  | .fqbl => k.fqbl
  | .fqbh => k.fqbh
  | .fqsize => k.fqsize
  | .fqprod => k.fqprod
  | .fqcons => k.fqcons

/-- The selected address context changed. -/
def modSelected (f : AddrContext → AddrContext) (s : State) : State :=
  { s with kernel := { s.kernel with
      contexts := tput s.kernel.contexts (.start (selected s)) (selected s) (f (contextAt s (selected s))) } }

/-- The control context of the executing program changed. -/
def modOwnControl (f : Control → Control) (s : State) : State :=
  setControl (ownControl s) (f (controlAt s (ownControl s))) s

/-- The trap registers changed. -/
def modTrap (f : TrapRegs → TrapRegs) (s : State) : State := modMe (fun st => { st with trap := f st.trap }) s

/-- `fqcons` written: DISP and STATUS of each entry that it passes are read (14 R364). -/
def passEntries (v : Word) (s : State) : State :=
  let k := s.kernel
  let dispOf := fun (n : Nat) (e : FaultEntry) =>
    if e.disp.isSome || 2 ^ 31 ≤ (v - 1 - BitVec.ofNat 32 n).toNat then e
    else
      let at_ := (pair k.fqbl k.fqbh).toNat + 64 * (n % 2 ^ (k.fqsize.toNat % 32))
      { e with disp := some (BitVec.ofNat 32 (peekNat s (at_ + 0x34) 4), BitVec.ofNat 32 (peekNat s (at_ + 0x38) 4)) }
  { s with fresh := s.fresh + 1, kernel := { k with
      fqcons := v, written := k.written.map (fun p => (p.1, dispOf p.1 p.2)) } }

/-- A special register written; reserved bits are dropped, and a register without write access keeps its value (00 R4;
05 R124; 06 R162; 09 R287, R292, R294). -/
def writeSReg (r : SReg) (v : Word) (s : State) : State :=
  match r with
  | .fcr => modMe (fun st => { st with fcr := v &&& 7 }) s
  | .fflags => modMe (fun st => { st with fflags := v &&& 0x3F }) s
  | .ftrapen => modMe (fun st => { st with ftrapen := v &&& 0x3F }) s
  | .lr => modMe (fun st => { st with lr := v }) s
  | .wdl => modMe (fun st => { st with wdl := v }) s
  | .wdlh => modMe (fun st => { st with wdlh := v }) s
  | .tvec => modTrap (fun t => { t with tvec := v }) s
  | .tvech => modTrap (fun t => { t with tvech := v &&& 0xFFFFFF }) s
  | .tepc => modTrap (fun t => { t with tepc := v }) s
  | .tepch => modTrap (fun t => { t with tepch := v &&& 0xFFFFFF }) s
  | .hoff n => modOwnControl (fun c => { c with hoff := vset c.hoff n.toNat v }) s
  | .mcnan => modOwnControl (fun c => { c with mcnan := v }) s
  | .mcovf => modOwnControl (fun c => { c with mcovf := v }) s
  | .mcsat => modOwnControl (fun c => { c with mcsat := v }) s
  | .pksel => { s with kernel := { s.kernel with pksel := v &&& 0xFF } }
  | .rootl => modSelected (fun c => { c with rootl := v &&& 0xFFFFC000 }) s
  | .rooth => modSelected (fun c => { c with rooth := v &&& 0xFFFFF }) s
  | .asn => modSelected (fun c => { c with asn := v &&& 0xFFF }) s
  | .aplace => modSelected (fun c => { c with aplace := if v &&& 3 = 3 then 0 else v &&& 3 }) s
  | .bindl => modSelected (fun c => { c with bindl := v &&& 0xFFFFC000 }) s
  | .bindh => modSelected (fun c => { c with bindh := v &&& 0xFFFFF }) s
  | .bindn => modSelected (fun c => { c with bindn := v &&& 0x7FF }) s
  | .winA n => modSelected (fun c => { c with winA := vset c.winA n.toNat (v &&& 0x3FFF0003) }) s
  | .winB n => modSelected (fun c => { c with winB := vset c.winB n.toNat (v &&& 0x7FF) }) s
  | .kctx => modSelected (fun c => { c with kctx := v &&& 1 }) s
  | .crdl => { s with kernel := { s.kernel with crdl := v &&& 0xFFFF8000 } }
  | .crdh => { s with kernel := { s.kernel with crdh := v &&& 0xFFFFF } }
  | .qctx q => { s with kernel := { s.kernel with qctx := vset s.kernel.qctx q.toNat (v &&& 0xFF) } }
  | .fqbl => { s with kernel := { s.kernel with fqbl := v &&& 0xFFFFFFC0 } }
  | .fqbh => { s with kernel := { s.kernel with fqbh := v &&& 0xFFFFF } }
  | .fqsize => { s with kernel := { s.kernel with fqsize := v &&& 0x1F } }
  | .fqcons => passEntries v s
  | .xm | .role | .prio | .allot | .qstatus | .psf | .tick | .tickh | .tcause | .taddr | .taddrh
  | .emword | .emop | .emfn | .emd | .ema | .emb | .emc | .emimm | .emclause
  | .pkgno | .dieno | .quadno | .coreno | .laneno | .strandno | .blkx | .blky | .blkz | .gridx | .gridy | .gridz
  | .nstrands | .blkidx | .lhandle | .params | .paramsh | .fqprod => s

/-- What `rdsr` and `wrsr` ask at issue: the control context of a control register, the rights of a package-kernel
register (06 R163). -/
def sregNeed (s : State) (ws : List Word) (r : SReg) : Need :=
  { words := ws, onCtl := isControlReg r,
    priv := if isKernelReg r && !isKernel s s.me then some (sregNumber r) else none }

/-- `rdsr` (09 R291): the register to d, U; a read of `tick` also captures the counter's high half (06 R155). -/
def execRdsr (d : Reg) (nw : Bool) (sr : SReg) (s : State) : Out :=
  let n : Need := { sregNeed s (encodeWords (.rdsr d nw sr)) sr with regs := [d], dst := some d }
  .next (issue n s (fun _ s =>
    let s' := writeVec d nw (.u (readSReg s sr)) s
    let s' := if sr = .tick then modCur (fun f => { f with tickCap := some (hiW s.tick) }) s' else s'
    retire n s'))

/-- `wrsr` (09 R291): a at the lowest active thread to the register. -/
def execWrsr (a : Sel) (sr : SReg) (s : State) : Out :=
  let n : Need := { sregNeed s (encodeWords (.wrsr a sr)) sr with sels := [a] }
  .next (issue n s (fun v s => retire n (writeSReg sr (low s v 0) s)))

end Sys2Proof.Machine
end

