-- ==== Sys2Proof/Machine/Memory.lean ====
section
/-! DEFINITION. Majors 0x28–0x2B: loads, stores and prefetch, and what every memory instruction does at issue: addresses,
checks in the order of 14 R351, and the accesses that become outstanding (04 R86–R101; 08 R210–R217). -/

namespace Sys2Proof.Machine

/-! ### Causes of several threads (14 R351) -/

/-- The place of a cause in the order of R351. -/
def causeOrder : Cause → Nat
  | .illegalEncoding => 1
  | .privilege => 2
  | .operandMisuse => 4
  | .queueMisuse => 5
  | .engineMisuse => 6
  | .tileOwner => 7
  | .alignment => 8
  | .translation => 9
  | .protection => 10
  | .docMisuse => 11
  | .leaseRecalled => 12
  | .lenderLost => 13
  | .leaseExpired => 14
  | _ => 15

/-- The report of the first cause among those that threads met, threads in ascending order: the address of the lowest
thread that met it, and the mask of all of them; one request may stand for several threads. -/
def firstCause (l : List (Fin 32 × Report)) : Option Report :=
  match minBy (fun (x : Fin 32 × Report) => causeOrder x.2.cause) l with
  | none => none
  | some x =>
    let same := l.filter (fun y => y.2.cause == x.2.cause)
    some { x.2 with threads := same.foldl (fun m y => m ||| oneThread y.1 ||| y.2.threads) 0 }

/-- The first cause among those that the rows or units of one command met; of one cause, the first row's (14 R351). -/
def firstReport (l : List Report) : Option Report := minBy (fun r => causeOrder r.cause) l

/-- The report of a resolution that failed. -/
def badReport (va : DWord) (c : Cause) (d : Nat) (addr : Option Nat) (arg : Nat) : Report :=
  { cause := c, detail := d, addr := match addr with
      | some x => BitVec.ofNat 64 x
      | none => va, arg := BitVec.ofNat 64 arg }

/-! ### Accesses -/

/-- What one thread asks of memory. -/
structure Ask where
  thread : Fin 32
  threads : Mask
  va : DWord
  data : BitVec 128
  din : DWord

/-- A glob address of one request, checked: natural alignment, then R97–R101 (08 R211, R222). -/
def askGlob (s : State) (cls : AccClass) (size : Nat) (x : Ask) : Access ⊕ (Fin 32 × Report) :=
  if x.va.toNat % size ≠ 0 then .inr (x.thread, { cause := .alignment, detail := 1, addr := x.va, threads := x.threads })
  else match resolve s s.me.place.agent s.me.who.context cls size x.va with
    | .bad c d addr arg => .inr (x.thread, { badReport x.va c d addr arg with threads := x.threads })
    | .ok fab leaf _ => .inl (newAccess x.threads x.va fab size leaf x.data x.din)

/-- A die-space address of one request, checked (04 R89). -/
def askDie (s : State) (write : Bool) (size : Nat) (x : Ask) : Access ⊕ (Fin 32 × Report) :=
  if x.va.toNat % size ≠ 0 then .inr (x.thread, { cause := .alignment, detail := 1, addr := x.va, threads := x.threads })
  else match resolveDie s s.me.who.context size write x.va with
    | none => .inr (x.thread, { cause := .protection, detail := 5, addr := x.va, threads := x.threads })
    | some fab => .inl (newAccess x.threads x.va fab size 0 x.data x.din)

/-- An instruction whose addresses have to be walked through a home that serves no read now is not issued yet (15 R376, R381). -/
def onceWalked (l : List Ask) (s k : State) : State :=
  if l.any (fun x => walkHeld s s.me.place.agent s.me.who.context x.va.toNat) then s else k

/-- The accesses that passed. -/
def passed (l : List (Access ⊕ (Fin 32 × Report))) : List Access := l.filterMap (fun x => match x with
  | .inl a => some a
  | .inr _ => none)

/-- The causes met. -/
def refusedOnes (l : List (Access ⊕ (Fin 32 × Report))) : List (Fin 32 × Report) := l.filterMap (fun x => match x with
  | .inl _ => none
  | .inr r => some r)

/-- The translations of accesses put into the core's TLB and the die's cache (04 R99); an access to the die space has none. -/
def cacheAll (l : List Access) (s : State) : State :=
  l.foldl (fun s a => match translation s s.me.place.agent s.me.who.context a.va.toNat with
    | .leaf lf level =>
      if a.va.toNat / 2 ^ 52 = 0 && leafFrame lf + a.va.toNat % levelSize level = a.fab
      then cacheIt s.me.place.agent s.me.who.context a.va.toNat lf level s else s
    | _ => s) s

/-- Whether an access is served by another package: a frame there, an absent staged unit, or a staged access that is made
at the lender (04 R109; 08 R215, R226; 11 R322). -/
def servedAway (s : State) (atLender : Bool) (a : Access) : Bool :=
  !isLocal s a.fab || (a.kind == 4 && (atLender || unitAway s a.index (stageUnit s a.index a.fab)))

/-- Whether a fragment awaits the reply of an access: another package serves it or, on a KIND 4 page, may come to serve it (14
R348; log 35); or its home would refuse it now, so that the cause is raised at the instruction (14 R347). -/
def awaited (s : State) (atLender : Bool) (a : Access) : Bool :=
  servedAway s atLender a || a.kind == 4
    || (isLocal s a.fab && (poisonedAt s (fabLocal a.fab) a.size || !lenderServes s (pkgNo s) 0 (fabLocal a.fab)))

/-- An operation that owes results becomes outstanding: the fragment goes on, or waits at its place for the reply (14 R348),
and at the limit of 63 (02 R47). -/
def launchOp (n : Need) (o : Op) (atLender : Bool) (s : State) : State :=
  let remote := o.accs.any (servedAway s atLender)
  if countersFull s o.what then s
  else if remote && o.what.isLoad && decide (63 ≤ inFlight s s.me.who.id) then waitHere n .limit s.me.cur.begun s
  else
    let s := cacheAll o.accs (pushOp { o with remote := remote } s)
    if o.accs.any (awaited s atLender) then waitHere n (.reply o.id) (.sent o.id) s else retire n s

/-- The requests of an instruction: one for the strand when its sources are all U, else one for each active thread (08
R213, R225). -/
def asks (s : State) (uniform : Bool) (va : Fin 32 → DWord) (data : Fin 32 → BitVec 128) (din : Fin 32 → DWord) :
    List Ask :=
  let m := s.me.cur.mask
  if uniform then [⟨lowest m, m, va (lowest m), data (lowest m), din (lowest m)⟩]
  else (threads m).map (fun t => ⟨t, oneThread t, va t, data t, din t⟩)

/-- Whether a pair's registers are both U. -/
def pairU (s : State) (r : Reg) : Bool := (reg s r).isU && (reg s (nextReg r 1)).isU

/-! ### Major 0x28–0x2B -/

/-- Bytes of a transfer (06 R151). -/
def widthBytes : Width → Nat
  | .b | .bs => 1
  | .h | .hs => 2
  | .w => 4
  | .d => 8
  | .q => 16

/-- The registers of a transfer (08 R210). -/
def widthRegs (wd : Width) (r : Reg) : List Reg :=
  match wd with
  | .d => [r, nextReg r 1]
  | .q => [r, nextReg r 1, nextReg r 2, nextReg r 3]
  | _ => [r]

/-- The registers of an address operand. -/
def addrRegs : MemAddr → List Reg
  | .glob a | .die a => [a, nextReg a 1]
  | _ => []

/-- Its selectors. -/
def addrSels : MemAddr → List Sel
  | .lane a | .core a | .quad a => [a]
  | _ => []

/-- The space code (04 R86). -/
def spaceCode : MemAddr → Nat
  | .glob _ => 0
  | .lane _ => 1
  | .core _ => 2
  | .quad _ => 3
  | .die _ => 4

/-- Whether the address operand is U. -/
def addrU (s : State) (v : List RegVal) : MemAddr → Bool
  | .glob a | .die a => pairU s a
  | _ => (v.getD 0 (.u 0)).isU

/-- A thread's address (08 R211). -/
def addrOf (s : State) (v : List RegVal) (addr : MemAddr) (off : Nat) (t : Fin 32) : DWord :=
  match addr with
  | .glob a | .die a => pairAt s a t + BitVec.ofNat 64 off
  | _ => (opnd v 0 t + BitVec.ofNat 32 off).setWidth 64

/-- The data a thread stores: the registers of the transfer in ascending order (08 R212). -/
def dataOf (s : State) (wd : Width) (r : Reg) (t : Fin 32) : BitVec 128 :=
  BitVec.ofNat 128 (((widthRegs wd r).zipIdx.foldl (fun x p => x + ((reg s p.1).at t).toNat * 2 ^ (32 * p.2)) 0)
    % 2 ^ (8 * widthBytes wd))

/-- Whether the data registers are all U. -/
def dataU (s : State) (wd : Width) (r : Reg) : Bool := (widthRegs wd r).all (fun x => (reg s x).isU)

/-- Where an offset of a lane, core or quad space lies: its memory (1 lane slices, 2 core scratchpads) and the address
there; none outside the region (04 R86–R88). -/
def scratchPlace (s : State) (addr : MemAddr) (off size : Nat) : Option (Nat × Nat) :=
  match addr with
  | .lane _ => if off + size ≤ s.me.laneSize then some (1, laneAddr s.me off) else none
  | .core _ => (match blockOf s s.me with
    | some b => if off + size ≤ b.size then some (2, coreBase b.core + b.base + off) else none
    | none => none)
  | .quad _ => (match regionOf s s.me.who.id.handle s.me.place.quad s.me.who.twin with
    | some r => if off + size ≤ r.size then some (2, quadByte r off) else none
    | none => none)
  | _ => none

/-- The scratch memory of a kind. -/
def scratchOf (s : State) (kind : Nat) : Memory := if kind = 1 then s.mem.slices else s.mem.scratch

/-- A scratch memory replaced. -/
def setScratch (kind : Nat) (m : Memory) (s : State) : State :=
  if kind = 1 then { s with mem := { s.mem with slices := m } } else { s with mem := { s.mem with scratch := m } }

/-- The check of one thread's access to the lane, core or quad space (04 R87, 15 R378; log 46). -/
def askScratch (s : State) (addr : MemAddr) (load : Bool) (size : Nat) (t : Fin 32) (off : DWord) :
    (Nat × Nat) ⊕ (Fin 32 × Report) :=
  if off.toNat % size ≠ 0 then .inr (t, { cause := .alignment, detail := 1, addr := off })
  else match scratchPlace s addr off.toNat size with
    | none => .inr (t, { cause := .protection, detail := 4, addr := off })
    | some p =>
      if load && scratchPoisoned s p.1 p.2 size then .inr (t, { cause := .poison }) else .inl p

/-- The causes met in the scratch spaces (log 53). -/
def scratchCauses (l : List ((Nat × Nat) ⊕ (Fin 32 × Report))) : List (Fin 32 × Report) :=
  l.filterMap (fun x => match x with
    | .inl _ => none
    | .inr r => some r)

/-- The places found. -/
def scratchPlaces (l : List ((Nat × Nat) ⊕ (Fin 32 × Report))) : List (Nat × Nat) :=
  l.filterMap (fun x => match x with
    | .inl p => some p
    | .inr _ => none)

/-- A load from the lane, core or quad space: made at issue, and its registers written (08 R212, R213). -/
def loadScratch (n : Need) (addr : MemAddr) (wd : Width) (r : Reg) (uniform : Bool) (va : Fin 32 → DWord) (s : State) :
    State :=
  let size := widthBytes wd
  let ts := if uniform then [lowest s.me.cur.mask] else threads s.me.cur.mask
  match firstCause (scratchCauses (ts.map (fun t => askScratch s addr true size t (va t)))) with
  | some rep => raiseBefore n.words { rep with threads := if uniform then s.me.cur.mask else rep.threads } s
  | none =>
    let value := fun (t : Fin 32) => match askScratch s addr true size t (va t) with
      | .inl p => loadValue wd (BitVec.ofNat 128 (memNat (scratchOf s p.1) p.2 size))
      | .inr _ => []
    let s' := (widthRegs wd r).zipIdx.foldl (fun s' p =>
      let v : RegVal := if uniform then .u ((value (lowest s.me.cur.mask)).getD p.2 0)
                        else gOf (fun t => (value t).getD p.2 0)
      writeReg p.1 v s') s
    retire n s'

/-- The 32-byte words of a scratchpad that writes cover whole; only those of several accesses, or of one that is a
thread's own, count (15 R378). -/
def coveredWords (writes : List (Nat × Nat)) (size : Nat) : List (Nat × Nat) :=
  (writes.map (fun p => (p.1, p.2 / 32))).filter (fun w =>
    (List.range 32).all (fun i => writes.any (fun p => p.1 == w.1 && decide (p.2 ≤ w.2 * 32 + i)
      && decide (w.2 * 32 + i < p.2 + size))))

/-- Poison marks of scratchpad words cleared. -/
def clearScratchPoison (l : List (Nat × Nat)) (s : State) : State :=
  { s with mem := { s.mem with poisonedScratch := s.mem.poisonedScratch.filter (fun p => !(l.contains p)) } }

/-- A store to the lane, core or quad space, applied at issue in ascending thread order (08 R213; 16 R414). -/
def storeScratch (n : Need) (addr : MemAddr) (wd : Width) (r : Reg) (xs : List (Fin 32 × Fin 32)) (shared : Bool)
    (va : Fin 32 → DWord) (s : State) : State :=
  let size := widthBytes wd
  let l := xs.map (fun x => askScratch s addr false size x.1 (va x.1))
  match firstCause (scratchCauses l) with
  | some rep => raiseBefore n.words { rep with threads := if shared then s.me.cur.mask else rep.threads } s
  | none =>
    let places := scratchPlaces l
    let s' := (places.zip xs).foldl (fun s' x =>
      setScratch x.1.1 (memWrite (scratchOf s' x.1.1) x.1.2 (leBytes size (dataOf s wd r x.2.2).toNat)) s') s
    let s' := if shared then s' else clearScratchPoison (coveredWords places size) s'
    retire n (addRecords (xs.flatMap (fun x => recordsOf (dataOf s wd r x.2) 0 size (spaceCode addr) (va x.1).toNat)) s.mem.nextOp s')

/-- What a load or store asks at issue; the data registers `r` of a load are only written, those of a store read. -/
def memNeed (i : Instr) (r : List Reg) (addr : MemAddr) (blocking : Bool) : Need :=
  { words := encodeWords i, regs := r ++ addrRegs addr, uses := (if blocking then [] else r) ++ addrRegs addr, sels := addrSels addr, memory := true,
    blocking := blocking && (match addr with
      | .glob _ => true
      | _ => false) }

/-- `ld` and `ldv` (08 R210–R215). -/
def loadOp (i : Instr) (r : Reg) (addr : MemAddr) (wd : Width) (off : BitVec 6) (atPoint : Bool) (s : State) : State :=
  let n := memNeed i (widthRegs wd r) addr true
  issue n s (fun v s =>
    if s.me.cur.begun != .no then s
    else
      let uniform := addrU s v addr
      let va := addrOf s v addr (off.toNat * widthBytes wd)
      let go := fun (ask : Ask → Access ⊕ (Fin 32 × Report)) =>
        let l := (asks s uniform va (fun _ => 0) (fun _ => 0)).map ask
        match firstCause (refusedOnes l) with
        | some rep => raiseBefore n.words rep s
        | none =>
          launchOp n { opHere n s (if atPoint then .loadv wd else .load wd) r .lane with
            holds := true, uniform := uniform, accs := passed l } atPoint s
      match addr with
      | .glob _ => onceWalked (asks s uniform va (fun _ => 0) (fun _ => 0)) s (go (askGlob s .load (widthBytes wd)))
      | .die _ => go (askDie s false (widthBytes wd))
      | _ => loadScratch n addr wd r uniform va s)

/-- `ld` (08 R215): served by any copy the page's CLEVEL allows. -/
def execLd (r : Reg) (addr : MemAddr) (wd : Width) (off : BitVec 6) (s : State) : Out :=
  .next (loadOp (.ld r addr wd off) r addr wd off false s)

/-- `ldv` (08 R215): never served by an untracked copy. -/
def execLdv (r : Reg) (addr : MemAddr) (wd : Width) (off : BitVec 6) (s : State) : Out :=
  .next (loadOp (.ldv r addr wd off) r addr wd off true s)

/-- A store to the glob or die space: one that fetches a staged unit waits at the limit of 63 (02 R47); else accepted by the
die at issue, outstanding until performed; in a paired launch held
in the window (08 R213, R217; 10, accepted stores; 16 R413, R414). -/
def storeOut (n : Need) (space : Nat) (accs : List Access) (s : State) : State :=
  let o := opHere n s .store 0 .lane
  if countersFull s .store then s
  else if accs.any (fun a => a.kind == 4 && servedAway s false a) && decide (63 ≤ inFlight s s.me.who.id) then
    waitHere n .limit s.me.cur.begun s
  else
    let paired := isPaired s s.me
    let p := pushHeld { o with windowed := paired, remote := accs.any (servedAway s false), accs := accs }
      (if accs.all (fun a => a.size == 16) then 2 else 1) s
    let s := cacheAll accs p.1
    let s := if paired then s else accs.foldl (fun s a => updateCopies o.die a.fab (leBytes a.size a.data.toNat) s) s
    retire n (addRecords (accs.flatMap (fun a => recordsOf a.data 0 a.size space a.fab)) p.2 s)

/-- `st` (08 R210–R213, R217): one store for a U address; with G data then the highest active thread's value. -/
def execSt (r : Reg) (addr : MemAddr) (wd : Width) (off : BitVec 6) (s : State) : Out :=
  let n := memNeed (.st r addr wd off) (widthRegs wd r) addr false
  .next (issue n s (fun v s => windowRoom n s (fun s =>
    let uniform := addrU s v addr
    let va := addrOf s v addr (off.toNat * widthBytes wd)
    let m := s.me.cur.mask
    let src := if dataU s wd r then lowest m else highest m
    let go := fun (ask : Ask → Access ⊕ (Fin 32 × Report)) =>
      let l := ((asks s uniform va (fun t => dataOf s wd r (if uniform then src else t)) (fun _ => 0)).map ask)
      match firstCause (refusedOnes l) with
      | some rep => raiseBefore n.words rep s
      | none => storeOut n (spaceCode addr) (passed l) s
    match addr with
    | .glob _ => onceWalked (asks s uniform va (fun _ => 0) (fun _ => 0)) s (go (askGlob s .store (widthBytes wd)))
    | .die _ => go (askDie s true (widthBytes wd))
    | _ => storeScratch n addr wd r (if uniform then [(lowest m, src)] else (threads m).map (fun t => (t, t))) uniform
             va s)))

/-- Whether a die may keep an untracked near copy of a line (04 R102): never of die scratchpads (04 R89), nor of a commutative
line, every access to which combines at its home (08 R231, 10 R307). -/
def copyable (s : State) (die fab kind clevel : Nat) : Bool :=
  clevel == 0 && kind != 5 && kind != 4 && kind != 2 &&
    (match zoneOf (isPlain s) (fabLocal fab) with
     | .hbm | .pool => !isLocal s fab || homeDie s (fabLocal fab) != die
     | .die _ => false
     | _ => !isLocal s fab)

/-- One line of this package, or unit of a staging frame, that a `pf` asks for: nothing on an EVICT 3 page; a unit of a staging frame
is fetched; a commutative line is combined
at its home; any other is filled into the die's L2 where it may be kept there, unless the L2 holds it (04 R96, R101, R102; 08
R216; 11 R316, R322). -/
def prefetch (die : Nat) (s : State) (a : Access) : State :=
  let x := fabLocal a.fab
  if a.stream || peekRefused s a.fab a.size then s
  else if a.kind = 4 then (absentUnits s a.index a.fab a.size).foldl (fun s u => fetchUnit a.index u s) s
  else if !isLocal s a.fab || homeHeld s x a.size then s
  else if a.kind = 2 then
    if !writeHeld s x a.size then combineLines x a.size s else s
  else if !copyable s die a.fab a.kind a.clevel || (nearCopy? s die (a.fab / 128)).isSome then s
  else fillLine die a.fab s

/-- Whether a `pf` asks another package for a line: one that its die may keep and does not hold. -/
def pfLeaves (s : State) (die : Nat) (a : Access) : Bool :=
  !a.stream && !peekRefused s a.fab a.size && a.kind != 4 && !isLocal s a.fab && copyable s die a.fab a.kind a.clevel
    && (nearCopy? s die (a.fab / 128)).isNone

/-- `pf` (08 R216): the lines of the active threads; dropped whole when it would fault. Lines of other packages are asked for like
those of a load that owes nothing (11 R321). -/
def execPf (addr : MemAddr) (wd : Width) (off : BitVec 6) (s : State) : Out :=
  let n := memNeed (.pf addr wd off) [] addr false
  .next (issue n s (fun v s =>
    match addr with
    | .glob _ =>
      let va := addrOf s v addr (off.toNat * widthBytes wd)
      let xs := asks s (addrU s v addr) va (fun _ => 0) (fun _ => 0)
      let l := xs.map (askGlob s .prefetch (widthBytes wd))
      onceWalked xs s <| if (refusedOnes l).isEmpty && (passed l).all (fun a => !peekPoisoned s a.fab a.size) then
        let away := (passed l).filter (pfLeaves s s.me.place.die)
        let s' := (passed l).foldl (prefetch s.me.place.die) s
        retire n (if away.isEmpty then s' else pushOp { opHere n s' (.load wd) 0 .lane with remote := true, accs := away } s')
      else retire n s
    | _ => retire n s))

end Sys2Proof.Machine
end

