-- ==== Sys2Proof/Machine/Atomics.lean ====
section
/-! DEFINITION. Majors 0x2D–0x33 at issue: acquires, releases, fences, atomics, commutative accumulates, decide-once
instructions and watches (08 R218–R240). Their effects at the homes are in Homes.lean. -/

namespace Sys2Proof.Machine

/-! ### Acquire, release and fence (08 R218–R221) -/

/-- The single request of an instruction that acts once for the strand, at the address in a pair at the lowest active
thread. -/
def onceAsk (s : State) (a : Reg) (data : BitVec 128) (din : DWord) : Ask :=
  let t := lowest s.me.cur.mask
  ⟨t, s.me.cur.mask, pairAt s a t, data, din⟩

/-- Which twin sends a shared operation: the one that issues it first (16 R414). -/
def sharedMark (s : State) : Option (Nat × Bool) :=
  if isPaired s s.me then
    let k := s.me.sharedSeq
    match findStrand s (twinOf s.me.who.id) with
    | some t => some (k, decide (k < t.sharedSeq))
    | none => some (k, false)
  else none

/-- An operation that both twins of a pair share becomes outstanding: the later twin only waits for the other's result
(16 R414). Otherwise an ordinary operation. -/
def launchShared (n : Need) (o : Op) (s : State) : State :=
  match sharedMark s with
  | none => launchOp n o true s
  | some (k, later) =>
    if countersFull s o.what then s
    else
      let o := { o with shared := some (k, later) }
      let o := if later then { o with gate := false, accs := o.accs.map (fun a => { a with state := .switched }) } else o
      let s' := launchOp n o true s
      if s'.mem.nextOp = s.mem.nextOp then s'
      else modMe (fun st => { st with sharedSeq := k + 1 }) s'

/-- An instruction whose one request acts once: checked, then outstanding; a store when it owes no register. -/
def onceOp (n : Need) (s : State) (cls : AccClass) (size : Nat) (a : Reg) (data : BitVec 128) (mk : Op → Op) : State :=
  onceWalked [onceAsk s a data 0] s <| match askGlob s cls size (onceAsk s a data 0) with
  | .inr r => (match firstCause [r] with
    | some rep => raiseBefore n.words { rep with threads := s.me.cur.mask } s
    | none => s)
  | .inl acc =>
    let o := mk { opHere n s .acq 0 .lane with uniform := true, accs := [acc] }
    let records := fun (s : State) => addRecords (recordsOf acc.data 0 8 0 acc.fab) s.mem.nextOp s
    if o.gate && o.holds then
      let s' := launchShared n o s
      if s'.mem.nextOp = s.mem.nextOp then s' else records s'
    else if o.holds then launchOp n o true s
    else if s.me.who.twin && isPaired s s.me then retire n (records s)
    else if countersFull s o.what then s
    else retire n (records (cacheAll [acc] (pushOp { o with remote := servedAway s false acc } s)))

/-- `acq` (08 R218, R220). -/
def execAcq (d a : Reg) (scope : Scope) (s : State) : Out :=
  let n : Need := { words := encodeWords (.acq d a scope), regs := [d, a, nextReg a 1], uses := [a, nextReg a 1],
                    memory := true, blocking := true }
  .next (issue n s (fun _ s =>
    if s.me.cur.begun != .no then s
    else onceOp n s .load 8 a 0 (fun o => { o with what := .acq, dst := d, scope := scope, holds := true })))

/-- `rel` (08 R218, R219): its store waits; the strand does not. The store of a secondary twin is discarded (16 R414), but its record
enters the window, like that of its primary (16 R413; log 77). -/
def execRel (a : Reg) (b : Sel) (scope : Scope) (s : State) : Out :=
  let n : Need := { words := encodeWords (.rel a b scope), regs := [a, nextReg a 1], uses := [a, nextReg a 1], sels := [b], memory := true,
                    releasing := true }
  .next (issue n s (fun v s => closeWindow n s (fun s =>
    onceOp n s .store 8 a ((low s v 0).setWidth 128) (fun o => { o with what := .rel, scope := scope, gate := true }))))

/-- `acqrel` (08 R218): an atomic exchange that is a release and an acquire. -/
def execAcqrel (d a : Reg) (b : Sel) (scope : Scope) (s : State) : Out :=
  let n : Need := { words := encodeWords (.acqrel d a b scope), regs := [d, a, nextReg a 1], uses := [a, nextReg a 1], sels := [b], memory := true,
                    blocking := true, releasing := true }
  .next (issue n s (fun v s =>
    match s.me.cur.begun with
    | .sent _ => s
    | _ => closeWindow n s (fun s =>
      onceOp n s .atomic 8 a ((low s v 0).setWidth 128)
        (fun o => { o with what := .acqrel, dst := d, scope := scope, gate := true, holds := true }))))

/-- `fence` (08 R221): outstanding until everything earlier is complete and performed; it holds later memory
instructions. -/
def execFence (scope : Scope) (s : State) : Out :=
  let n : Need := { words := encodeWords (.fence scope), memory := true, releasing := true }
  .next (issue n s (fun _ s => closeWindow n s (fun s =>
    if scope = .lane then retire n s
    else if countersFull s .fence then s
    else retire n (pushOp { opHere n s .fence 0 scope with gate := true } s))))

/-! ### Atomics (08 R222–R227) -/

/-- The records that atomics, deposits and decisions add to a window (16 R413). -/
def atomRecords (kind : Nat) (second : Bool) (a : Access) : List (BitVec 128) :=
  let size := min a.size 8
  recordsOf a.data kind size 0 a.fab ++ (if second then recordsOf (a.din.setWidth 128) kind size 0 a.fab else [])

/-- What an atomic of a scope does at issue beside its accesses: one at a scope other than `lane` is a release (08 R227);
`regs` are its registers, `uses` those it reads. -/
def atomNeed (i : Instr) (regs uses : List Reg) (sels : List Sel) (scope : Scope) : Need :=
  { words := encodeWords i, regs := regs, uses := uses, sels := sels, memory := true, blocking := true,
    releasing := scope != Scope.lane }

/-- An instruction that releases at a scope other than `lane` closes its window first (16 R412). -/
def closeAt (n : Need) (scope : Scope) (s : State) (k : State → State) : State :=
  if scope = .lane then windowRoom n s k else closeWindow n s k

/-- An atomic at issue (08 R222, R225): one request when address, operand and input are all U, else one for each active
thread. -/
def atomOp (n : Need) (fn : AtomFn) (wide : Bool) (d a : Reg) (scope : Scope) (u : Bool) (data : Fin 32 → BitVec 128)
    (din : Fin 32 → DWord) (s : State) : State :=
  match s.me.cur.begun with
  | .sent _ => s
  | _ => closeAt n scope s (fun s =>
    let size := if wide then 8 else 4
    let xs := asks s u (pairAt s a) data din
    let l := xs.map (askGlob s .atomic size)
    onceWalked xs s <| match firstCause (refusedOnes l) with
    | some rep => raiseBefore n.words rep s
    | none =>
      let o := { opHere n s (.atomic fn wide) d scope with gate := scope != Scope.lane, holds := true, uniform := u,
                                                           accs := passed l }
      let s' := launchShared n o s
      if s'.mem.nextOp = s.mem.nextOp then s'
      else addRecords ((passed l).flatMap (atomRecords 2 (fn = .cas || fn = .badd))) s'.mem.nextOp s')

/-- A 32-bit atomic. `acas` and `abadd` read d. -/
def atom32 (i : Instr) (fn : AtomFn) (d a : Reg) (b : Sel) (scope : Scope) (s : State) : State :=
  let reads := fn = .cas || fn = .badd
  let regs := [d] ++ (if fn = .badd then [nextReg d 1] else []) ++ [a, nextReg a 1]
  let n := { atomNeed i regs ((if reads then [d] else []) ++ [a, nextReg a 1]) [b] scope with beyond := if fn = .badd then beyond d 2 else [] }
  issue n s (fun v s =>
    atomOp n fn false d a scope (pairU s a && (v.getD 0 (.u 0)).isU && (!reads || (reg s d).isU))
        (fun t => (opnd v 0 t).setWidth 128) (fun t => if reads then ((reg s d).at t).setWidth 64 else 0) s)

/-- A 64-bit atomic: d and b name pairs. -/
def atom64 (i : Instr) (fn : AtomFn) (d a b : Reg) (scope : Scope) (s : State) : State :=
  let reads := fn = .cas
  let uses := (if reads then [d, nextReg d 1] else []) ++ [a, nextReg a 1, b, nextReg b 1]
  let n := atomNeed i [d, nextReg d 1, a, nextReg a 1, b, nextReg b 1] uses [] scope
  issue n s (fun _ s =>
    atomOp n fn true d a scope (pairU s a && pairU s b && (!reads || pairU s d))
      (fun t => (pairAt s b t).setWidth 128) (fun t => if reads then pairAt s d t else 0) s)

/-- `aadd` (08 R223). -/
def execAadd (d a : Reg) (b : Sel) (scope : Scope) (s : State) : Out := .next (atom32 (.aadd d a b scope) .add d a b scope s)
/-- `aand` (08 R223). -/
def execAand (d a : Reg) (b : Sel) (scope : Scope) (s : State) : Out := .next (atom32 (.aand d a b scope) .and d a b scope s)
/-- `aor` (08 R223). -/
def execAor (d a : Reg) (b : Sel) (scope : Scope) (s : State) : Out := .next (atom32 (.aor d a b scope) .or d a b scope s)
/-- `axor` (08 R223). -/
def execAxor (d a : Reg) (b : Sel) (scope : Scope) (s : State) : Out := .next (atom32 (.axor d a b scope) .xor d a b scope s)
/-- `axchg` (08 R223). -/
def execAxchg (d a : Reg) (b : Sel) (scope : Scope) (s : State) : Out :=
  .next (atom32 (.axchg d a b scope) .xchg d a b scope s)
/-- `amin` (08 R223). -/
def execAmin (d a : Reg) (b : Sel) (scope : Scope) (s : State) : Out := .next (atom32 (.amin d a b scope) .imin d a b scope s)
/-- `amax` (08 R223). -/
def execAmax (d a : Reg) (b : Sel) (scope : Scope) (s : State) : Out := .next (atom32 (.amax d a b scope) .imax d a b scope s)
/-- `anmin` (08 R223). -/
def execAnmin (d a : Reg) (b : Sel) (scope : Scope) (s : State) : Out :=
  .next (atom32 (.anmin d a b scope) .nmin d a b scope s)
/-- `anmax` (08 R223). -/
def execAnmax (d a : Reg) (b : Sel) (scope : Scope) (s : State) : Out :=
  .next (atom32 (.anmax d a b scope) .nmax d a b scope s)
/-- `acas` (08 R223). -/
def execAcas (d a : Reg) (b : Sel) (scope : Scope) (s : State) : Out := .next (atom32 (.acas d a b scope) .cas d a b scope s)
/-- `ainc` (08 R223, R224). -/
def execAinc (d a : Reg) (b : Sel) (scope : Scope) (s : State) : Out := .next (atom32 (.ainc d a b scope) .inc d a b scope s)
/-- `abadd` (08 R224). -/
def execAbadd (d a : Reg) (b : Sel) (scope : Scope) (s : State) : Out :=
  .next (atom32 (.abadd d a b scope) .badd d a b scope s)
/-- `afadd` (08 R223). -/
def execAfadd (d a : Reg) (b : Sel) (scope : Scope) (s : State) : Out :=
  .next (atom32 (.afadd d a b scope) .fadd d a b scope s)
/-- `afmax` (08 R223). -/
def execAfmax (d a : Reg) (b : Sel) (scope : Scope) (s : State) : Out :=
  .next (atom32 (.afmax d a b scope) .fmax d a b scope s)
/-- `afadd.bf16x2` (08 R223). -/
def execAfaddBf16x2 (d a : Reg) (b : Sel) (scope : Scope) (s : State) : Out :=
  .next (atom32 (.afaddBf16x2 d a b scope) .faddBf16x2 d a b scope s)
/-- `aadd.64` (08 R223). -/
def execAadd64 (d a b : Reg) (scope : Scope) (s : State) : Out := .next (atom64 (.aadd64 d a b scope) .add d a b scope s)
/-- `axchg.64` (08 R223). -/
def execAxchg64 (d a b : Reg) (scope : Scope) (s : State) : Out := .next (atom64 (.axchg64 d a b scope) .xchg d a b scope s)
/-- `acas.64` (08 R223). -/
def execAcas64 (d a b : Reg) (scope : Scope) (s : State) : Out := .next (atom64 (.acas64 d a b scope) .cas d a b scope s)
/-- `amin.64` (08 R223). -/
def execAmin64 (d a b : Reg) (scope : Scope) (s : State) : Out := .next (atom64 (.amin64 d a b scope) .imin d a b scope s)
/-- `amax.64` (08 R223). -/
def execAmax64 (d a b : Reg) (scope : Scope) (s : State) : Out := .next (atom64 (.amax64 d a b scope) .imax d a b scope s)

/-! ### Commutative accumulate (08 R228–R230) -/

/-- Whether a range descriptor is that of an accumulate instruction (08 R228, R229). -/
def rangeMatches (d : Nat) (fmt : CFmt) (isMax : Bool) : Bool :=
  let f : Nat := match fmt with
    | .f32 => 0
    | .bf16 => 1
    | .f16 => 2
    | .i32 => 3
  bit d 3 == isMax && field d 2 1 == f

/-- The check of one deposit: the range's format comes before alignment (14 R351), then the address. -/
def askDeposit (s : State) (fmt : CFmt) (isMax : Bool) (x : Ask) : Access ⊕ (Fin 32 × Report) :=
  match resolve s s.me.place.agent s.me.who.context .cadd (cfmtSize fmt) x.va with
  | .ok _ leaf _ =>
    if rangeMatches (rangeDesc s (leafIndex leaf)) fmt isMax then askGlob s .cadd (cfmtSize fmt) x
    else .inr (x.thread, { cause := .operandMisuse, detail := 9, addr := x.va, threads := x.threads })
  | .bad _ _ _ _ => askGlob s .cadd (cfmtSize fmt) x

/-- The OPERAND_MISUSE that the addresses of a deposit meet: it comes before a misused queue (14 R351). -/
def caddMisuse (fmt : CFmt) (isMax : Bool) (a : Reg) (s : State) : Option Report :=
  (firstCause (refusedOnes ((asks s (pairU s a) (pairAt s a) (fun _ => 0) (fun _ => 0)).map (askDeposit s fmt isMax)))).bind
    (fun r => if r.cause = .operandMisuse then some r else none)

/-- An accumulate instruction at issue (08 R225, R229, R230): posted; at a scope other than `lane` a release. -/
def caddOp (i : Instr) (fmt : CFmt) (isMax : Bool) (a : Reg) (b : Sel) (scope : Scope) (s : State) : State :=
  let n : Need := { words := encodeWords i, regs := [a, nextReg a 1], uses := [a, nextReg a 1], sels := [b], memory := true,
                    releasing := scope != Scope.lane, misuse := caddMisuse fmt isMax a s }
  issue n s (fun v s => closeAt n scope s (fun s =>
    let u := pairU s a && (v.getD 0 (.u 0)).isU
    let bytes := cfmtSize fmt
    let xs := asks s u (pairAt s a) (fun t => BitVec.ofNat 128 ((opnd v 0 t).toNat % 2 ^ (8 * bytes))) (fun _ => 0)
    let l := xs.map (askDeposit s fmt isMax)
    onceWalked xs s <| match firstCause (refusedOnes l) with
    | some rep => raiseBefore n.words rep s
    | none =>
      let o := { opHere n s (.cadd fmt isMax) 0 scope with gate := scope != Scope.lane, windowed := isPaired s s.me,
                                                           uniform := u, accs := passed l }
      if countersFull s o.what then s
      else
        let p := pushHeld { o with remote := o.accs.any (servedAway s false) } 1 s
        retire n (addRecords ((passed l).flatMap (atomRecords 1 false)) p.2 (cacheAll o.accs p.1))))

/-- `cadd.f32` (08 R229). -/
def execCaddF32 (a : Reg) (b : Sel) (scope : Scope) (s : State) : Out :=
  .next (caddOp (.caddF32 a b scope) .f32 false a b scope s)
/-- `cadd.bf16` (08 R229). -/
def execCaddBf16 (a : Reg) (b : Sel) (scope : Scope) (s : State) : Out :=
  .next (caddOp (.caddBf16 a b scope) .bf16 false a b scope s)
/-- `cadd.f16` (08 R229). -/
def execCaddF16 (a : Reg) (b : Sel) (scope : Scope) (s : State) : Out :=
  .next (caddOp (.caddF16 a b scope) .f16 false a b scope s)
/-- `cadd.i32` (08 R229). -/
def execCaddI32 (a : Reg) (b : Sel) (scope : Scope) (s : State) : Out :=
  .next (caddOp (.caddI32 a b scope) .i32 false a b scope s)
/-- `cmax.f32` (08 R229). -/
def execCmaxF32 (a : Reg) (b : Sel) (scope : Scope) (s : State) : Out :=
  .next (caddOp (.cmaxF32 a b scope) .f32 true a b scope s)

/-! ### Decide-once instructions (08 R232–R236) -/

/-- A copy of a decided pair in a die (08 R235). -/
def docCopy? (s : State) (die cell gen : Nat) : Option DocCopy :=
  s.mem.docs.find? (fun c => c.die == die && c.cell == cell && c.gen == gen)

/-- The check of one decide-once request: its address, then the cell itself where it lies in this package and no copy answers
for it; a reserved STATE is a misuse, found before any access is made (08 R232; 14 R351). -/
def askCell (s : State) (what : OpKind) (x : Ask) : Access ⊕ (Fin 32 × Report) :=
  match askGlob s .doc 16 x with
  | .inr r => .inr r
  | .inl a =>
    let copied := what == .docRead && (docCopy? s s.me.place.die a.fab (x.din.toNat % 2 ^ 30)).isSome
    if isLocal s a.fab && !copied && !poisonedAt s (fabLocal a.fab) 16
        && decide (2 ≤ field (memNat s.mem.bytes (fabLocal a.fab + 8) 8) 63 62) then
      .inr (x.thread, { cause := .docMisuse, detail := 2, addr := x.va, threads := x.threads })
    else .inl a

/-- A decide-once instruction at issue (08 R225, R233, R236). `data` is the proposal, `din` the expected generation. -/
def docOp (n : Need) (what : OpKind) (writes : Bool) (d a : Reg) (scope : Scope) (u : Bool) (data : Fin 32 → BitVec 128)
    (gen : Fin 32 → DWord) (s : State) : State :=
  let go := fun (s : State) =>
    let din := fun (t : Fin 32) => BitVec.ofNat 64 ((gen t).toNat % 2 ^ 30)
    let xs := asks s u (pairAt s a) data din
    let l := xs.map (askCell s what)
    onceWalked xs s <| match firstCause (refusedOnes l) with
    | some rep => raiseBefore n.words rep s
    | none =>
      let o := { opHere n s what d scope with gate := writes && scope != Scope.lane, holds := true, uniform := u,
                                              accs := passed l }
      if writes then
        let s' := launchShared n o s
        if s'.mem.nextOp = s.mem.nextOp then s'
        else addRecords ((passed l).flatMap (atomRecords 3 (match what with
          | .docProp => true
          | _ => false))) s'.mem.nextOp s'
      else launchOp n o true s
  match s.me.cur.begun with
  | .sent _ => s
  | _ => if writes then closeAt n scope s go else if scope = .lane then go s else closeWindow n s go

/-- What a decide-once instruction asks at issue; `more` are the registers it reads beside its address, after those it
names for its result. -/
def docNeed (i : Instr) (d a : Reg) (more : List Reg) (sels : List Sel) (releasing : Bool) : Need :=
  { words := encodeWords i, regs := [d, nextReg d 1, nextReg d 2, nextReg d 3, a, nextReg a 1] ++ more,
    uses := [a, nextReg a 1] ++ more, sels := sels,
    memory := true, blocking := true, releasing := releasing, beyond := beyond d 4 }

/-- `dprop` (08 R233): proposes the pair b in the generation that v(d+3) names. -/
def execDprop (d a b : Reg) (scope : Scope) (s : State) : Out :=
  let n := docNeed (.dprop d a b scope) d a [b, nextReg b 1, nextReg d 3] [] (scope != Scope.lane)
  .next (issue n s (fun _ s =>
    docOp n .docProp true d a scope (pairU s a && pairU s b && (reg s (nextReg d 3)).isU)
      (fun t => (pairAt s b t).setWidth 128) (fun t => ((reg s (nextReg d 3)).at t).setWidth 64) s))

/-- `dread` (08 R233). -/
def execDread (d a : Reg) (b : Sel) (scope : Scope) (s : State) : Out :=
  let n := docNeed (.dread d a b scope) d a [] [b] false
  .next (issue n s (fun v s =>
    docOp n .docRead false d a scope (pairU s a && (v.getD 0 (.u 0)).isU) (fun _ => 0)
      (fun t => (opnd v 0 t).setWidth 64) s))

/-- `dreset` (08 R233). -/
def execDreset (d a : Reg) (b : Sel) (scope : Scope) (s : State) : Out :=
  let n := docNeed (.dreset d a b scope) d a [] [b] (scope != Scope.lane)
  .next (issue n s (fun v s =>
    docOp n .docReset true d a scope (pairU s a && (v.getD 0 (.u 0)).isU)
      (fun t => (opnd v 0 t).setWidth 128) (fun t => (opnd v 0 t).setWidth 64) s))

/-- `dstat` (08 R233). -/
def execDstat (d a : Reg) (scope : Scope) (s : State) : Out :=
  let n := docNeed (.dstat d a scope) d a [] [] false
  .next (issue n s (fun _ s => docOp n .docStat false d a scope (pairU s a) (fun _ => 0) (fun _ => 0) s))

/-! ### Watches (08 R237) -/

/-- `wwait` (08 R237): one watch for the fragment, which waits for its reply. -/
def execWwait (d a : Reg) (b : Sel) (cmp : WCmp) (w64 dl : Bool) (s : State) : Out :=
  let wideReg := match b with
    | .reg r => if w64 then [nextReg r 1] else []
    | _ => []
  let n : Need := { words := encodeWords (.wwait d a b cmp w64 dl), regs := [d, a, nextReg a 1] ++ wideReg,
                    uses := [a, nextReg a 1] ++ wideReg, sels := [b],
                    memory := true, blocking := true }
  .next (issue n s (fun v s =>
    if (match s.me.cur.begun with
        | .no | .napping _ => false
        | _ => true) then s
    else
      let t := lowest s.me.cur.mask
      let val : BitVec 128 := match b with
        | .reg r => if w64 then (pairAt s r t).setWidth 128 else (low s v 0).setWidth 128
        | _ => (low s v 0).setWidth 128
      let deadline := if dl then some (match s.me.cur.begun with
        | .napping t => t
        | _ => pair s.me.wdl s.me.wdlh) else none
      onceWalked [onceAsk s a val 0] s <| match askGlob s .watch (watchSize w64) (onceAsk s a val 0) with
      | .inr r => raiseBefore n.words { r.2 with threads := s.me.cur.mask } s
      | .inl acc =>
        let o := { opHere n s (.watch cmp w64 deadline) d .lane with uniform := true, holds := true, accs := [acc] }
        if countersFull s o.what then s
        else
          let remote := !isLocal s acc.fab || acc.kind == 4
          waitHere n (.watch o.id) (.sent o.id) (cacheAll [acc] (pushOp { o with remote := remote } s))))

end Sys2Proof.Machine
end

