-- ==== Sys2Proof/Machine/Tiles.lean ====
section
/-! DEFINITION. Tiles and owner bits, major 0x36, and the commands that `qput` completes: copy commands, near-memory commands
(09 R254–R262, R275, R276, R280). -/

namespace Sys2Proof.Machine

/-! ### Descriptors (09 R254, R255) -/

/-- Whether the tile is stored transposed. -/
def descTrn (d : DWord) : Bool := d.getLsbD 44
/-- Columns. -/
def descCols (d : DWord) : Nat := field d.toNat 42 34 + 1
/-- Rows. -/
def descRows (d : DWord) : Nat := field d.toNat 33 27 + 1
/-- WIDTH. -/
def descWidth (d : DWord) : Nat := field d.toNat 26 24
/-- BASE. -/
def descBase (d : DWord) : Nat := field d.toNat 23 0

/-- Storage rows. -/
def storageRows (d : DWord) : Nat := if descTrn d then descCols d else descRows d
/-- Elements of a storage row. -/
def storageCols (d : DWord) : Nat := if descTrn d then descRows d else descCols d

/-- The payload of a storage row in bytes. -/
def rowPayload (d : DWord) : Nat :=
  let n := storageCols d
  match descWidth d with
  | 0 => (n + 1) / 2
  | 1 => 3 * ((n + 3) / 4)
  | 2 => n
  | 3 => 2 * n
  | _ => 4 * n

/-- The pitch. -/
def rowPitch (d : DWord) : Nat := roundUp (rowPayload d) 16

/-- The size of the tile. -/
def tileSize (d : DWord) : Nat := storageRows d * rowPitch d

/-- The quad-memory offset of a storage row. -/
def rowOffset (d : DWord) (r : Nat) : Nat := descBase d + r * rowPitch d

/-- Where a byte of the quad memory that a control context's launch has lies in the core scratchpads. -/
def quadRegionOf (s : State) (key : Nat) : Option QuadRegion :=
  s.work.regions.find? (fun r => r.quad == key / 4 && r.context == some (key % 4))

/-- Bytes of the quad memory of a control context. -/
def quadRead (s : State) (key off n : Nat) : List Byte :=
  match quadRegionOf s key with
  | some r => (List.range n).map (fun i => memByte s.mem.scratch (quadByte r (off + i)))
  | none => List.replicate n 0

/-- Bytes of it written. -/
def quadWrite (key off : Nat) (bs : List Byte) (s : State) : State :=
  match quadRegionOf s key with
  | some r => { s with mem := { s.mem with
      scratch := bs.zipIdx.foldl (fun m p => memSet m (quadByte r (off + p.2)) p.1) s.mem.scratch } }
  | none => s

/-! ### Owner state (09 R257) -/

/-- A tile changed. -/
def modTile (key : Nat) (t : TileNo) (f : Tile → Tile) (s : State) : State :=
  let c := controlAt s key
  setControl key { c with tiles := vset c.tiles t.toNat (f (vget c.tiles t.toNat ⟨0, false⟩)) } s

/-- Its OWNER bit set. -/
def setOwner (b : Bool) (t : Tile) : Tile :=
  { t with desc := if b then t.desc ||| 0x80000000000#64 else t.desc &&& ~~~0x80000000000#64 }

/-- The tiles that a queued operation names. -/
def MatOp.tiles : MatOp → List TileNo
  | .dense m _ _ _ _ _ | .batched m _ _ _ _ _ | .tri m _ _ _ _ _ _ _ _ => [m.ta, m.tb]
  | .czero _ => []
  | .cload _ t _ _ => [t]
  | .cdrain _ t _ _ _ _ _ _ _ _ _ _ => [t]

/-- Whether a copy command is pending on a tile. -/
def copyPending (s : State) (key : Nat) (t : TileNo) : Bool :=
  s.engines.copies.any (fun c => c.control == key && c.tile == t && c.handed.isNone && c.failure.isNone)

/-- Whether a queued operation is pending on it. -/
def matrixPending (s : State) (key : Nat) (t : TileNo) : Bool :=
  (controlAt s key).queue.any (fun q => q.op.tiles.contains t)

/-- Whether any operation is pending on it. -/
def opPending (s : State) (key : Nat) (t : TileNo) : Bool := copyPending s key t || matrixPending s key t

/-- A tile handed back to the thread side; what waits for it is re-evaluated (09 R257). -/
def handBack (key : Nat) (t : TileNo) (s : State) : State :=
  modTile key t (fun x => { setOwner false x with ret := false }) s

/-- The last pending operation of a tile whose return is pending has completed or failed (09 R257). -/
def returnIfPending (key : Nat) (t : TileNo) (s : State) : State :=
  if (tileAt s key t).ret && !opPending s key t then handBack key t s else s

/-- The TILE_OWNER detail that stands against queueing an operation on a tile (09 R257, 14 R355); none if it may be
queued. `copy` for a copy command. -/
def tileRefused (s : State) (key : Nat) (t : TileNo) (copy : Bool) : Option Nat :=
  let x := tileAt s key t
  if !tileOwner x then some 1
  else if x.ret then some 3
  else if copyPending s key t then some 2
  else if copy && matrixPending s key t then some 1
  else none

/-- A misuse naming a tile. -/
def tileMisuse (n : Need) (c : Cause) (d : Nat) (t : TileNo) (s : State) : State :=
  raiseBefore n.words { cause := c, detail := d, addr := t.setWidth 64, threads := s.me.cur.mask } s

/-! ### Major 0x36 (09 R260) -/

/-- A tile instruction: in a launch without a tile table it is a misuse (09 R256). -/
def tileOp (n : Need) (t : TileNo) (s : State) (k : Nat → State → State) : State :=
  issue { n with tileOrder := true } s (fun _ s =>
    match tableOf s s.me with
    | none => tileMisuse n .engineMisuse 6 t s
    | some key => k key s)

/-- `tgive` (09 R257, R259): a release at scope quad; the flip follows. -/
def execTgive (t : TileNo) (s : State) : Out :=
  let n : Need := { words := encodeWords (.tgive t), releasing := true }
  .next (tileOp n t s (fun key s =>
    if tileOwner (tileAt s key t) then tileMisuse n .tileOwner 1 t s
    else closeWindow n s (fun s =>
      let c := controlAt s key
      let g := (s.mem.nextOp, t, s.me.who.id, s.mem.nextOp)
      retire n (setControl key { c with gives := c.gives ++ [g] } s))))

/-- `ttake` (09 R257); on a tile whose return is pending already it does nothing (14 R366 lists no cause for it; log 18). -/
def execTtake (t : TileNo) (s : State) : Out :=
  let n : Need := { words := encodeWords (.ttake t) }
  .next (tileOp n t s (fun key s =>
    if !tileOwner (tileAt s key t) then retire n s
    else if opPending s key t then retire n (modTile key t (fun x => { x with ret := true }) s)
    else retire n (handBack key t s)))

/-- `towner` (09 R260): OWNER and return pending, U. -/
def execTowner (d : Reg) (nw : Bool) (t : TileNo) (s : State) : Out :=
  let n : Need := { words := encodeWords (.towner d nw t), regs := [d], dst := some d }
  .next (tileOp n t s (fun key s =>
    let x := tileAt s key t
    retire n (writeVec d nw (.u (BitVec.ofNat 32 (flag (tileOwner x) + 2 * flag x.ret))) s)))

/-- Whether `mvtd` refuses a value (09 R261). -/
def descBad (s : State) (key : Nat) (v : DWord) : Bool :=
  let x := v.toNat
  field x 63 45 != 0 || bit x 43 || decide (4 < descWidth v) || descBase v % 16 != 0
    || (match quadRegionOf s key with
        | some r => decide (r.size < descBase v + tileSize v)
        | none => true)

/-- `mvtd` (09 R261): the value of a pair into a thread-side tile's descriptor. -/
def execMvtd (t : TileNo) (a : Reg) (s : State) : Out :=
  let n : Need := { words := encodeWords (.mvtd t a), regs := [a, nextReg a 1], uses := [a, nextReg a 1] }
  .next (tileOp n t s (fun key s =>
    let v := pairAt s a (lowest s.me.cur.mask)
    if descBad s key v then tileMisuse n .engineMisuse 5 t s
    else if tileOwner (tileAt s key t) then tileMisuse n .tileOwner 1 t s
    else retire n (modTile key t (fun x => { x with desc := v }) s)))

/-- `rdtd` (09 R260): the descriptor, U in both registers. -/
def execRdtd (d : Reg) (nw : Bool) (t : TileNo) (s : State) : Out :=
  let n : Need := { words := encodeWords (.rdtd d nw t), regs := [d, nextReg d 1], dst := some d }
  .next (tileOp n t s (fun key s =>
    let v := (tileAt s key t).desc
    retire n (writePair d nw (.u (loW v)) (.u (hiW v)) s)))

/-- `TGIVE_FLIP` (09 R259): OWNER becomes 1 once the giver's earlier stores are performed. -/
def execTgiveFlip (tc : Nat) (t : TileNo) (s : State) : Out :=
  let c := controlAt s tc
  match c.gives.find? (fun g => g.2.1 == t) with
  | none => .next s
  | some g =>
    if releaseReady s g.2.2.1 g.2.2.2 .quad then
      .next (modTile tc t (setOwner true) (setControl tc { c with gives := dropFirst (fun x => x.2.1 == t) c.gives } s))
    else .next s

/-! ### Copy commands (09 R275, R276) -/

/-- Word `i` of a command. -/
def cmdWord (ws : List Word) (i : Nat) : Word := ws.getD i 0

/-- The far rows of a command: address and length of each. -/
def farRows (d : DWord) (far : Nat) (pitch : Nat) : List Nat := (List.range (storageRows d)).map (fun r => far + r * pitch)

/-- The addresses at which a run of bytes enters a page. -/
def pageStarts (a n : Nat) : List Nat :=
  a :: (List.range (n / 65536 + 1)).filterMap (fun i =>
    let p := (a / 65536 + 1 + i) * 65536
    if p < a + n then some p else none)

/-- The runs of a far row in its space, each or the cause that refuses it (09 R276). -/
def farRow (s : State) (die ctx : Nat) (scratch : Nat × Nat) (space : Nat) (write : Bool) (a n : Nat) : List (Seg ⊕ Report) :=
  match space with
  | 0 =>
    (pageStarts a n).map (fun p =>
      if 2 ^ 64 ≤ p then .inr { cause := .translation, addr := BitVec.ofNat 64 p }
      else match resolve s die ctx (if write then .store else .load) 16 (BitVec.ofNat 64 p) with
        | .bad c d addr arg => .inr (badReport (BitVec.ofNat 64 p) c d addr arg)
        | .ok fab leaf level =>
          .inl ⟨p, fab, min (a + n) ((p / 65536 + 1) * 65536) - p, leafKind leaf, leafIndex leaf,
            leaf.getLsbD 11 || leafClevel leaf == 2, levelSize level / 2 ^ 16⟩)
  | 1 =>
    (match resolveDie s ctx n write (BitVec.ofNat 64 a) with
     | none => [.inr { cause := .protection, detail := 5, addr := BitVec.ofNat 64 a }]
     | some fab => [.inl ⟨a, fab, n, 0, 0, true, 1⟩])
  | _ =>
    if a + n ≤ scratch.2 then [.inl ⟨a, scratch.1 + a, n, 0, 0, true, 1⟩]
    else [.inr { cause := .protection, detail := 4, addr := BitVec.ofNat 64 a }]

/-- The parts of a list that were found, or else the first cause that refuses one (14 R351). -/
def allOrFirst {α : Type} (l : List (α ⊕ Report)) : List α ⊕ Report :=
  match firstReport (l.filterMap (fun x => match x with
    | .inl _ => none
    | .inr r => some r)) with
  | some r => .inr r
  | none => .inl (l.filterMap (fun x => match x with
    | .inl y => some y
    | .inr _ => none))

/-- All far rows of a command, or the first cause that one of them meets (log 75). -/
def farSegs (s : State) (die ctx : Nat) (scratch : Nat × Nat) (space : Nat) (write : Bool) (rows : List Nat) (n : Nat) :
    List (List Seg) ⊕ Report :=
  allOrFirst ((rows.map (fun a => farRow s die ctx scratch space write a n)).map allOrFirst)

/-- Whether the walk for a far row has to wait (15 R376, R381). -/
def farHeld (s : State) (agent ctx space : Nat) (rows : List Nat) (n : Nat) : Bool :=
  space == 0 && rows.any (fun a => (pageStarts a n).any (fun p => walkHeld s agent ctx p))

/-- Whether a copy command breaks the table of R275 or the rules on its fields. -/
def copyFieldBad (ws : List Word) (payload : Nat) : Bool :=
  let w0 := (cmdWord ws 0).toNat
  let op := field w0 31 28
  let space := field w0 22 21
  let farl := cmdWord ws 1
  let farh := cmdWord ws 2
  let pitch := cmdWord ws 3
  decide (3 ≤ op) || space == 3 || field w0 19 0 != 0 || farl.toNat % 16 != 0 || pitch.toNat % 16 != 0
    || (op == 2 && (farl != 0 || farh != 0 || pitch != 0)) || (op != 2 && cmdWord ws 4 != 0)
    || (space == 2 && farh != 0) || (op == 1 && decide (pitch.toNat < payload))

/-- Whether the checks of a copy command have to wait for a walk (15 R376, R381). -/
def copyHeld (s : State) (ws : List Word) : Bool :=
  let w0 := (cmdWord ws 0).toNat
  match tableOf s s.me with
  | none => false
  | some key =>
    let desc := (tileAt s key (BitVec.ofNat 5 (field w0 27 23))).desc
    field w0 31 28 != 2 && farHeld s s.me.place.die s.me.who.context (field w0 22 21)
      (farRows desc (pair (cmdWord ws 1) (cmdWord ws 2)).toNat (cmdWord ws 3).toNat) (rowPayload desc)

/-- A copy command checked when its fifth word arrives (09 R276): the command, or the cause raised at that `qput`. -/
def copyCommand (s : State) (ws : List Word) : CopyCmd ⊕ Report :=
  let st := s.me
  let w0 := (cmdWord ws 0).toNat
  let op := field w0 31 28
  let tile : TileNo := BitVec.ofNat 5 (field w0 27 23)
  let space := field w0 22 21
  let m := st.cur.mask
  let bad := fun (c : Cause) (d : Nat) (a : DWord) => (.inr { cause := c, detail := d, addr := a, threads := m } :
    CopyCmd ⊕ Report)
  match tableOf s st with
  | none => bad .engineMisuse 6 (tile.setWidth 64)
  | some key =>
    let desc := (tileAt s key tile).desc
    if copyFieldBad ws (rowPayload desc) then bad .engineMisuse 7 ((cmdWord ws 0).setWidth 64)
    else if op = 1 && isPaired s st then bad .engineMisuse 9 ((cmdWord ws 0).setWidth 64)
    else match tileRefused s key tile true with
      | some d => bad .tileOwner d (tile.setWidth 64)
      | none =>
        let far := pair (cmdWord ws 1) (cmdWord ws 2)
        let scratch := match blockOf s st with
          | some b => (coreBase b.core + b.base, b.size)
          | none => (0, 0)
        let rows := if op = 2 then .inl [] else
          farSegs s st.place.die st.who.context scratch space (op == 1) (farRows desc far.toNat (cmdWord ws 3).toNat)
            (rowPayload desc)
        match rows with
        | .inr r => .inr { r with threads := m }
        | .inl segs =>
          .inl { id := s.mem.nextOp, owner := st.who.id, context := st.who.context, control := key, core := st.place.core,
                 scratch := scratch, quad := st.place.quad, op := if op = 0 then .get else if op = 1 then .put else .fill,
                 tile := tile, space := space, event := bit w0 20, far := far, pitch := cmdWord ws 3,
                 value := cmdWord ws 4, desc := desc, segs := segs, stale := false,
                 rows := List.range (storageRows desc), engine := none, order := s.mem.nextOp, promise := none,
                 decided := false, again := 0, handed := none, failure := none, posted := false,
                 sent := 0, unacked := [] }

/-! ### Near-memory commands (09 R280) -/

/-- Whether a near-memory command breaks the table of R280. -/
def nearFieldBad (ws : List Word) : Bool :=
  let w0 := (cmdWord ws 0).toNat
  let op := field w0 31 28
  let fmt := field w0 27 26
  let uses := op == 1 || op == 2
  decide (4 ≤ op) || fmt == 3 || (op == 3 && (fmt != 0 || cmdWord ws 5 != 0))
    || (!uses && (cmdWord ws 3 != 0 || cmdWord ws 4 != 0)) || (op != 2 && cmdWord ws 6 != 0)

/-- A unit's address resolved for a near-memory engine: a KIND 0 page in the package's HBM. -/
def nearAddr (s : State) (cls : AccClass) (va : Nat) : Nat ⊕ Report :=
  match resolve s s.me.place.agent s.me.who.context cls 256 (BitVec.ofNat 64 va) with
  | .bad c d addr arg => .inr (badReport (BitVec.ofNat 64 va) c d addr arg)
  | .ok fab _ _ =>
    if isLocal s fab && zoneOf (isPlain s) (fabLocal fab) = .hbm then .inl (fabLocal fab)
    else .inr { cause := .protection, detail := 3, addr := BitVec.ofNat 64 va }

/-- The operation of a near-memory command. -/
def nearOpOf (n : Nat) : NearOp :=
  match n with
  | 0 => .scale
  | 1 => .axpy
  | 2 => .fade
  | _ => .zero

/-- Whether the checks of a near-memory command have to wait for a walk (15 R376, R381). -/
def nearWalked (s : State) (ws : List Word) : Bool :=
  let w0 := (cmdWord ws 0).toNat
  let held := fun (a : Nat) => walkHeld s s.me.place.agent s.me.who.context a
  (List.range (field w0 25 16 + 1)).any (fun i => held ((pair (cmdWord ws 1) (cmdWord ws 2)).toNat + 256 * i)
    || ((field w0 31 28 == 1 || field w0 31 28 == 2) && held ((pair (cmdWord ws 3) (cmdWord ws 4)).toNat + 256 * i)))

/-- A near-memory command checked when its seventh word arrives (09 R280). -/
def nearCommand (s : State) (ws : List Word) : NearCmd ⊕ Report :=
  let w0 := (cmdWord ws 0).toNat
  let op := field w0 31 28
  let uses := op == 1 || op == 2
  let n := field w0 25 16 + 1
  let tgt := (pair (cmdWord ws 1) (cmdWord ws 2)).toNat
  let src := (pair (cmdWord ws 3) (cmdWord ws 4)).toNat
  let m := s.me.cur.mask
  if nearFieldBad ws then
    .inr { cause := .engineMisuse, detail := 8, addr := (cmdWord ws 0).setWidth 64, threads := m }
  else if tgt % 256 ≠ 0 then .inr { cause := .alignment, detail := 1, addr := BitVec.ofNat 64 tgt, threads := m }
  else if src % 256 ≠ 0 then .inr { cause := .alignment, detail := 1, addr := BitVec.ofNat 64 src, threads := m }
  else
    match allOrFirst ((List.range n).flatMap (fun i =>
        nearAddr s .near (tgt + 256 * i) :: (if uses then [nearAddr s .nearSource (src + 256 * i)] else []))) with
    | .inr r => .inr { r with threads := m }
    | .inl addrs =>
      let us := (List.range n).map (fun i =>
        ({ tgt := addrs.getD (if uses then 2 * i else i) 0, src := if uses then addrs.getD (2 * i + 1) 0 else 0,
           state := .waiting, value := none, delta := [] } : NearUnit))
      .inl { id := s.mem.nextOp, owner := s.me.who.id, op := nearOpOf op, fmt := field w0 27 26, alpha := cmdWord ws 5,
             lambda := cmdWord ws 6, tag := field w0 15 0, units := us, windowed := isPaired s s.me }

end Sys2Proof.Machine
end

