-- ==== Sys2Proof/Machine/Sync.lean ====
section
/-! DEFINITION. Majors 0x34 and 0x35: named and gang barriers, `join`, and the queue instructions (08 R242–R253; 02 R43; 16
R409, R410). -/

namespace Sys2Proof.Machine

/-! ### Named barriers (08 R242–R244) -/

/-- A strand of a block changed when it belongs to it. -/
def inBlock (b : Block) (st : Strand) : Bool :=
  !st.place.isCtl && st.who.id.handle == b.handle && st.who.blockIdx == b.idx && st.who.twin == b.twin

/-- Every strand for which `p` holds changed. -/
def modStrands (p : Strand → Bool) (f : Strand → Strand) (s : State) : State :=
  { s with me := if s.me.here && p s.me then f s.me else s.me, others := s.others.map (fun st => if p st then f st else st) }

/-- The fragments of a strand that wait in a phase of a barrier released with a status. -/
def releaseWaiters (p : Wait → Bool) (status : Word) (st : Strand) : Strand :=
  let f := fun (x : Fragment) =>
    if p x.wait && !(st.imaging && st.restWaits x.id) then { x with wait := .ready, begun := .answered status } else x
  { st with cur := f st.cur, frags := st.frags.map f }

/-- A barrier's phase completes: the bit flips, the counts are reset, and its waiters and pending marks are released (08
R243, R244). -/
def completeBarrier (b : Block) (n : Nat) (s : State) : State :=
  let ph := (vget b.bars n ⟨0, 0, false, false⟩).phase
  let s := modBlock b.handle b.idx b.twin (fun b => { b with bars := vset b.bars n ⟨0, 0, false, !ph⟩ }) s
  modStrands (inBlock b) (fun st =>
    let st := releaseWaiters (fun w => w == .bar n ph) 0 st
    { st with pendingBars := st.pendingBars.map (fun m => if m.1 == n && m.2.1 == ph then (n, ph, true) else m) }) s

/-- The live threads of a block (08 R243). -/
def liveThreads (s : State) (b : Block) : Nat :=
  ((strandsOf s).filter (inBlock b)).foldl (fun n st => n + popc st.liveMask) 0

/-- The expected count that the first arrival of a phase fixes. -/
def expectedCount (s : State) (b : Block) (x : Word) : Nat := if x = 0 then liveThreads s b else x.toNat

/-- An arrival at a named barrier by the executing fragment; whether it completed the phase (08 R243). -/
def arriveBarrier (b : Block) (n : Nat) (x : Word) (s : State) : Bool × State :=
  let bar := vget b.bars n ⟨0, 0, false, false⟩
  let expected := if bar.set then bar.expected else expectedCount s b x
  let arrived := bar.arrived + popc s.me.cur.mask
  if expected ≤ arrived then (true, completeBarrier b n s)
  else (false, modBlock b.handle b.idx b.twin (fun b => { b with
    bars := vset b.bars n ⟨arrived, expected, true, bar.phase⟩ }) s)

/-- A misuse of a barrier instruction: OPERAND_MISUSE with the offending value (14 R355). -/
def barMisuse (n : Need) (d : Nat) (x : Word) (s : State) : State :=
  raiseBefore n.words { cause := .operandMisuse, detail := d, addr := x.setWidth 64, threads := s.me.cur.mask } s

/-- A named-barrier instruction on its block and barrier, once its operands have been checked; `arrives` when b is an
expected count. -/
def barOp (n : Need) (v : List RegVal) (arrives : Bool) (s : State) (k : Block → Nat → State) : State :=
  let a := low s v 0
  match blockOf s s.me with
  | none => barMisuse n 10 a s
  | some b =>
    if 16 ≤ a.toNat then barMisuse n 2 a s
    else
      let bar := vget b.bars a.toNat ⟨0, 0, false, false⟩
      if arrives && !bar.set && !b.abandoned && decide (1024 < (low s v 1).toNat) then barMisuse n 3 (low s v 1) s
      else k b a.toNat

/-- A barrier instruction is over with a status (08 R242). -/
def barDone (n : Need) (d : Reg) (nw : Bool) (status : Word) (s : State) : State :=
  retire n (writeVec d nw (.u status) s)

/-- A mark made, the older one of the same barrier replaced. -/
def markPending (n : Nat) (ph done : Bool) (st : Strand) : Strand :=
  { st with pendingBars := insertBy (fun m => m.1) (n, ph, done) (st.pendingBars.filter (fun m => m.1 != n)) }

/-- What a barrier instruction asks at issue. -/
def barNeed (i : Instr) (d : Reg) (sels : List Sel) (releasing : Bool) : Need :=
  { words := encodeWords i, regs := [d], sels := sels, dst := some d, blocking := true, releasing := releasing }

/-- The value of an operand that is no queue pop, at the lowest active thread. -/
def plainValue (s : State) (x : Sel) : Option Word :=
  match x with
  | .queue _ => none
  | y => some ((selVal s y).at (lowest s.me.cur.mask))

/-- The misuse of a named barrier's instruction that a misused queue among its operands leaves in sight (14 R351, R355). -/
def barrierMisuse (s : State) (a : Sel) : Option Report :=
  let x := plainValue s a
  if (blockOf s s.me).isNone then
    some { cause := .operandMisuse, detail := 10, addr := (x.getD 0).setWidth 64, threads := s.me.cur.mask }
  else match x with
    | some v => if 16 ≤ v.toNat then some { cause := .operandMisuse, detail := 2, addr := v.setWidth 64, threads := s.me.cur.mask }
                else none
    | none => none

/-- `bar.post` (08 R244): arrives, marks the barrier pending for the strand and goes on. -/
def execBarPost (d : Reg) (nw : Bool) (a b : Sel) (s : State) : Out :=
  let n := { barNeed (.barPost d nw a b) d [a, b] true with misuse := barrierMisuse s a }
  .next (issue n s (fun v s => barOp n v true s (fun _ num => closeWindow n s (fun s =>
    if !releaseNow s .core then s
    else match blockOf s s.me with
      | none => s
      | some blk =>
        if blk.abandoned then barDone n d nw 1 s
        else
          let ph := (vget blk.bars num ⟨0, 0, false, false⟩).phase
          let r := arriveBarrier blk num (low s v 1) s
          barDone n d nw 0 (modMe (markPending num ph r.1) r.2)))))

/-- `bar.meet` (08 R244): arrives, and waits unless its own arrival completed the phase. -/
def execBarMeet (d : Reg) (nw : Bool) (a b : Sel) (s : State) : Out :=
  let n := { barNeed (.barMeet d nw a b) d [a, b] true with misuse := barrierMisuse s a }
  .next (issue n s (fun v s =>
    match s.me.cur.begun with
    | .answered x => barDone n d nw x s
    | .met num ph | .holding num ph =>
      (match blockOf s s.me with
       | none => s
       | some blk =>
         if (vget blk.bars num ⟨0, 0, false, false⟩).phase != ph then barDone n d nw 0 s
         else if blk.abandoned then barDone n d nw 1 s
         else waitHere n (.bar num ph) (.met num ph) s)
    | _ => barOp n v true s (fun _ num => closeWindow n s (fun s =>
      if !releaseNow s .core then s
      else match blockOf s s.me with
        | none => s
        | some blk =>
          if blk.abandoned then barDone n d nw 1 s
          else
            let ph := (vget blk.bars num ⟨0, 0, false, false⟩).phase
            let r := arriveBarrier blk num (low s v 1) s
            if r.1 then barDone n d nw 0 r.2 else waitHere n (.bar num ph) (.met num ph) r.2))))

/-- `bar.hold` (08 R244): waits for the phase of the strand's pending arrival and clears the mark, or for the current one. -/
def execBarHold (d : Reg) (nw : Bool) (a : Sel) (s : State) : Out :=
  let n := { barNeed (.barHold d nw a) d [a] false with misuse := barrierMisuse s a }
  let clear := fun (num : Nat) (s : State) =>
    modMe (fun st => { st with pendingBars := st.pendingBars.filter (fun m => m.1 != num) }) s
  .next (issue n s (fun v s =>
    match s.me.cur.begun with
    | .answered x => barDone n d nw x (clear (low s v 0).toNat s)
    | _ => barOp n v false s (fun blk num =>
      let bar := vget blk.bars num ⟨0, 0, false, false⟩
      let mark := s.me.pendingBars.find? (fun m => m.1 == num)
      let holds : Begun := match s.me.cur.begun, mark with
        | .met k ph, _ => .met k ph
        | .holding k ph, _ => .holding k ph
        | _, some m => .holding num m.2.1
        | _, none => .met num bar.phase
      let marked : Bool := match holds with
        | .holding _ _ => true
        | _ => false
      let goal := match holds with
        | .met _ ph | .holding _ ph => ph
        | _ => bar.phase
      let ended := bar.phase != goal || (marked && mark.any (fun m => m.2.2))
      let done := fun (status : Word) => barDone n d nw status (if marked then clear num s else s)
      if blk.abandoned then done 1
      else if ended then done 0
      else waitHere n (.bar num goal) holds s)))

/-! ### Gang barriers (08 R245, 16 R409) -/

/-- The scope's code (01 R13). -/
def scopeCode : Scope → Nat
  | .lane => 0
  | .core => 1
  | .quad => 2
  | .die => 3
  | .pkg => 4
  | .pod => 5
  | .sys => 6

/-- The completion of a gang wait: an acquire at the gang's scope on the universal object (08 R246). -/
def gangDone (n : Need) (d : Reg) (nw : Bool) (scope : Scope) (g : Gang) (s : State) : State :=
  barDone n d nw (if g.lastTainted then 1 else 0) (acquireDrops s.me.place.die s.me.who.context none scope s)

/-- A gang barrier: arrives and waits (08 R245). -/
def gangOp (i : Instr) (d : Reg) (nw : Bool) (scope : Scope) (s : State) : State :=
  let n := barNeed i d [] true
  let misuse := fun (s : State) => barMisuse n 4 (BitVec.ofNat 32 (scopeCode scope)) s
  issue n s (fun _ s =>
    match findLaunch s s.me.who.id.handle with
    | none => misuse s
    | some l =>
      let ix := gangIndex l.record scope s.me.who.blockIdx
      match s.me.cur.begun with
      | .ganged _ ph =>
        let g := gangOf s l.handle scope ix
        if g.phase ≠ ph then gangDone n d nw scope g s else waitHere n (.gang scope ph) (.ganged scope ph) s
      | _ =>
        if s.me.place.isCtl || !hasGang l.record scope || s.me.liveFrags.length != 1 then misuse s
        else closeWindow n s (fun s =>
          if !releaseNow s scope then s
          else
            let g := gangOf s l.handle scope ix
            let s := setGang { g with arrived := g.arrived ++ [s.me.who.id] } s
            let s := if scope = .pod then sendAll (.pod l.handle g.phase) s else s
            let s := gangCheck l.handle scope ix s
            let g' := gangOf s l.handle scope ix
            if g'.phase ≠ g.phase then gangDone n d nw scope g' s
            else waitHere n (.gang scope g.phase) (.ganged scope g.phase) s))

/-- `bar.quad` (08 R245). -/
def execBarQuad (d : Reg) (nw : Bool) (s : State) : Out := .next (gangOp (.barQuad d nw) d nw .quad s)
/-- `bar.die` (08 R245). -/
def execBarDie (d : Reg) (nw : Bool) (s : State) : Out := .next (gangOp (.barDie d nw) d nw .die s)
/-- `bar.pkg` (08 R245). -/
def execBarPkg (d : Reg) (nw : Bool) (s : State) : Out := .next (gangOp (.barPkg d nw) d nw .pkg s)
/-- `bar.pod` (08 R245). -/
def execBarPod (d : Reg) (nw : Bool) (s : State) : Out := .next (gangOp (.barPod d nw) d nw .pod s)

/-! ### `join` (02 R43) -/

/-- `join`. -/
def execJoin (s : State) : Out :=
  let n : Need := { words := encodeWords .join, blocking := true }
  .next (issue n s (fun _ s =>
    if s.me.liveFrags.length ≤ 1 then retire n s
    else modMe Strand.joins (waitHere n .join .no s)))

/-! ### Queue instructions (08 R248–R253) -/

/-- A misuse of a queue instruction. -/
def qMisuse (n : Need) (d : Nat) (q : QNo) (s : State) : State :=
  raiseBefore n.words { cause := .queueMisuse, detail := d, addr := q.setWidth 64, threads := s.me.cur.mask } s

/-- A queue instruction on a binding of `q4`–`q15` (14 R355): `low` is the detail for `q0`–`q3`. -/
def boundOp (n : Need) (q : QNo) (s : State) (k : Binding → State) : State :=
  if q.toNat < 4 then qMisuse n 5 q s
  else match binding s.me q with
    | none => qMisuse n 1 q s
    | some b => k b

/-- The binding of the executing strand changed. -/
def setMyBinding (q : QNo) (b : Option Binding) (s : State) : State := modMe (setBinding q b) s

/-- `qput` to a named queue (08 R250; 16 R410). -/
def pushNamed (n : Need) (q : QNo) (b : Binding) (v : Word) (s : State) : State :=
  if qAbandoned s s.me b && qField s s.me b 20 / 2 ^ 16 == 0 then retire n s
  else
    let allow := qField s s.me b 8 % 512
    if b.drawn = 0 && allow = 0 then waitHere n (.push q) s.me.cur.begun s
    else
      let k := if b.drawn = 0 then min allow 16 else 0
      let s := if b.drawn = 0 then setQField s.me b 8 (allow - k) s else s
      let b' := { b with drawn := b.drawn + k }
      let s := setMyBinding q (some b') s
      if qSlots s s.me b ≤ qCount s s.me b then waitHere n (.push q) s.me.cur.begun s
      else
        let tail := qField s s.me b 4
        let s := setScratchWord s.me b.quadSpace (qField s s.me b 16 + 4 * (tail % qSlots s s.me b)) v.toNat s
        let s := setQField s.me b 4 ((tail + 1) % 2 ^ 32) s
        retire n (setMyBinding q (some { b' with drawn := b'.drawn - 1 }) s)

/-- The record that a command word adds to a window (16 R413). -/
def commandRecord (q kind ix : Nat) (v : Word) : List (BitVec 128) :=
  recordsOf (v.setWidth 128) kind 4 0 (q + 16 * ix)

/-- A word pushed towards the copy engines; the fifth completes a command (09 R275, R276; log 61). -/
def pushCopy (n : Need) (v : Word) (s : State) : State :=
  let ws := s.me.pushed0 ++ [v]
  let rec_ := commandRecord 0 5 s.me.pushed0.length v
  if ws.length < 5 then retire n (addRecords rec_ s.mem.nextOp (modMe (fun st => { st with pushed0 := ws }) s))
  else if 63 ≤ inFlight s s.me.who.id then waitHere n .limit s.me.cur.begun s
  else if copyHeld s ws then s
  else
    let s := modMe (fun st => { st with pushed0 := [] }) s
    match copyCommand s ws with
    | .inr r => raiseBefore n.words r s
    | .inl c =>
      let s := addRecords rec_ s.mem.nextOp s
      retire n { s with engines := { s.engines with copies := s.engines.copies ++ [c] },
                        mem := { s.mem with nextOp := s.mem.nextOp + 1 } }

/-- A word pushed towards the near-memory engines; the seventh completes a command (09 R280). -/
def pushNear (n : Need) (v : Word) (s : State) : State :=
  let ws := s.me.pushed1 ++ [v]
  let rec_ := commandRecord 1 4 s.me.pushed1.length v
  if ws.length < 7 then retire n (addRecords rec_ s.mem.nextOp (modMe (fun st => { st with pushed1 := ws }) s))
  else if 63 ≤ inFlight s s.me.who.id then waitHere n .limit s.me.cur.begun s
  else if 63 ≤ outStores s s.me.who.id || nearWalked s ws then s
  else
    let s := modMe (fun st => { st with pushed1 := [] }) s
    match nearCommand s ws with
    | .inr r => raiseBefore n.words r s
    | .inl c =>
      let s := addRecords rec_ s.mem.nextOp s
      retire n { s with engines := { s.engines with nears := s.engines.nears ++ [c] },
                        mem := { s.mem with nextOp := s.mem.nextOp + 1 } }

/-- A word pushed towards the distributor; the sixteenth completes a launch record (03 R69). -/
def pushLaunch (n : Need) (v : Word) (s : State) : State :=
  let ws := s.me.pushed2 ++ [v]
  if ws.length < 16 then retire n (modMe (fun st => { st with pushed2 := ws }) s)
  else
    let r : DeviceRecord := { owner := s.me.who.id, context := s.me.who.context, words := ws, op := s.mem.nextOp }
    retire n { modMe (fun st => { st with pushed2 := [] }) s with
      work := { s.work with device := s.work.device ++ [r] } }

/-- A push of a word towards engines or the distributor: it waits with kind 5 while their queue has no room (08 R250; log
61). -/
def pushHidden (n : Need) (q : QNo) (k : State → State) (s : State) : State :=
  if bit s.engines.noRoom q.toNat then waitHere n (.push q) s.me.cur.begun s else k s

/-- `qput` (08 R250): a release; then the push. -/
def execQput (q : QNo) (a : Sel) (s : State) : Out :=
  let n : Need := { words := encodeWords (.qput q a), sels := [a], blocking := true, releasing := true,
                    tileOrder := true }
  let go := fun (scope : Scope) (s : State) (k : State → State) =>
    closeWindow n s (fun s => if releaseNow s scope then k s else s)
  .next (issue n s (fun v s =>
    let x := low s v 0
    match q.toNat with
    | 0 => go .pkg s (pushHidden n q (pushCopy n x))
    | 1 => go .pkg s (pushHidden n q (pushNear n x))
    | 2 => if isPaired s s.me then qMisuse n 7 q s else go .pkg s (pushHidden n q (pushLaunch n x))
    | 3 => qMisuse n 2 q s
    | _ => boundOp n q s (fun b =>
      if b.consumer then qMisuse n 3 q s else go (if b.quadSpace then .quad else .core) s (pushNamed n q b x))))

/-- The oldest word of `q0`–`q3` taken. -/
def popWaiting (q : Nat) (st : Strand) : Strand :=
  match q with
  | 0 => { st with promises := st.promises.tail }
  | 1 => { st with completions := st.completions.tail }
  | 2 => { st with acks := st.acks.tail }
  | _ => { st with events := st.events.tail }

/-- The failed commands whose event has now been posted, and copy commands with nothing left to come. -/
def pruneCopies (s : State) : State :=
  { s with engines := { s.engines with copies := s.engines.copies.filter (fun c =>
      !(c.decided && c.unacked.isEmpty && (c.handed.isSome || (c.failure.isSome && c.posted)))) } }

/-- Events that found `q3` full enter it as it gains room (09 R279). -/
def refillEvents (id : StrandId) : Nat → State → State
  | 0, s => s
  | n + 1, s =>
    match s.engines.eventWait.find? (fun e => e.1 == id), findStrand s id with
    | some e, some st =>
      if st.events.length + 2 ≤ 64 then
        let s := modStrand id (fun st => { st with events := st.events ++ [e.2.1, e.2.2.1] }) s
        let s := { s with engines := { s.engines with
          eventWait := dropFirst (fun x => x == e) s.engines.eventWait,
          copies := s.engines.copies.map (fun c =>
            if c.id == e.2.2.2 && c.failure.isSome then { c with posted := true } else c) } }
        refillEvents id n (pruneCopies s)
      else s
    | _, _ => s

/-- `qtry` (08 R252): never waits; the entry and 1, or 0 and 0, or 0 and 2; 0 and 0 too where the oldest
entry is held for another instruction (log 95). -/
def execQtry (d : Reg) (nw : Bool) (q : QNo) (s : State) : Out :=
  let n : Need := { words := encodeWords (.qtry d nw q), regs := [d, nextReg d 1], dst := some d, tileOrder := true, beyond := beyond d 2 }
  let put := fun (x y : Word) (s : State) => retire n (writePair d nw (.u x) (.u y) s)
  .next (issue n s (fun _ s =>
    if q.toNat < 4 then
      match waiting s.me q.toNat with
      | w :: _ => put w 1 (refillEvents s.me.who.id 32 (modMe (popWaiting q.toNat) s))
      | [] => put 0 0 s
    else boundOp n q s (fun b =>
      if !b.consumer then qMisuse n 3 q s
      else if qDead s s.me b then put 0 2 (commitPop q s)
      else if qCount s s.me b = 0 || ringHeld s b then put 0 0 s
      else put (qEntry s s.me b (qField s s.me b 0)) 1 (commitPop q s))))

/-- `qbind` (08 R249): binds a register to a descriptor in core or quad scratch. -/
def execQbind (q : QNo) (a : Sel) (consumer quadSpace : Bool) (s : State) : Out :=
  let n : Need := { words := encodeWords (.qbind q a consumer quadSpace), sels := [a], tileOrder := true }
  .next (issue n s (fun v s =>
    let off := low s v 0
    if q.toNat < 4 then qMisuse n 5 q s
    else if (binding s.me q).isSome then qMisuse n 4 q s
    else if off.toNat % 32 ≠ 0 then
      raiseBefore n.words { cause := .alignment, detail := 1, addr := off.setWidth 64, threads := s.me.cur.mask } s
    else if (scratchAddr s s.me quadSpace (off.toNat + 31)).isNone then
      raiseBefore n.words { cause := .protection, detail := 4, addr := off.setWidth 64, threads := s.me.cur.mask } s
    else
      let b : Binding := { offset := off, quadSpace := quadSpace, consumer := consumer, drawn := 0 }
      let binds := qField s s.me b 20
      let s := setQField s.me b 20 (binds + (if consumer then 2 ^ 16 else 1)) s
      retire n (setMyBinding q (some b) s)))

/-- `qallow` (08 R252): a added to ALLOW, held at 256. -/
def execQallow (q : QNo) (a : Sel) (s : State) : Out :=
  let n : Need := { words := encodeWords (.qallow q a), sels := [a], tileOrder := true }
  .next (issue n s (fun v s => boundOp n q s (fun b =>
    if !b.consumer then qMisuse n 6 q s
    else retire n (setQField s.me b 8 (min 256 (qField s s.me b 8 % 512 + (low s v 0).toNat)) s))))

/-- `qcount` (08 R252). -/
def execQcount (d : Reg) (nw : Bool) (q : QNo) (s : State) : Out :=
  let n : Need := { words := encodeWords (.qcount d nw q), regs := [d], dst := some d, tileOrder := true }
  .next (issue n s (fun _ s =>
    if q.toNat < 4 then retire n (writeVec d nw (.u (BitVec.ofNat 32 (waiting s.me q.toNat).length)) s)
    else boundOp n q s (fun b => retire n (writeVec d nw (.u (BitVec.ofNat 32 (qCount s s.me b))) s))))

/-- `qunbind` (08 R249). -/
def execQunbind (q : QNo) (s : State) : Out :=
  let n : Need := { words := encodeWords (.qunbind q), tileOrder := true }
  .next (issue n s (fun _ s => boundOp n q s (fun _ => retire n (unbind q false s.me.who.id s))))

end Sys2Proof.Machine
end

