-- ==== Sys2Proof/Machine/Matrix.lean ====
section
/-! DEFINITION. Majors 0x37–0x39 and the matrix engines: products and sums, block scales, the drain path, c-tiles and
histograms (05 R110–R141; 09 R262–R274; 03 R83). -/

namespace Sys2Proof.Machine

/-! ### Elements of tiles (05 R112, 09 R255) -/

/-- Bits of an element by WIDTH. -/
def widthBits (w : Nat) : Nat :=
  match w with
  | 0 => 4
  | 1 => 6
  | 2 => 8
  | 3 => 16
  | _ => 32

/-- Where logical element `(i, j)` of a tile lies: the quad-memory offset of its first byte, the bit in it, its width. -/
def elemPlace (d : DWord) (i j : Nat) : Nat × Nat × Nat :=
  let w := widthBits (descWidth d)
  let r := if descTrn d then j else i
  let c := if descTrn d then i else j
  (rowOffset d r + c * w / 8, c * w % 8, w)

/-- An element's bits. -/
def tileElem (s : State) (key : Nat) (d : DWord) (i j : Nat) : Nat :=
  let p := elemPlace d i j
  leNat (quadRead s key p.1 ((p.2.1 + p.2.2 + 7) / 8)) / 2 ^ p.2.1 % 2 ^ p.2.2

/-- An element written; the bits beside it stay. -/
def setTileElem (key : Nat) (d : DWord) (i j v : Nat) (s : State) : State :=
  let p := elemPlace d i j
  let n := (p.2.1 + p.2.2 + 7) / 8
  let old := leNat (quadRead s key p.1 n)
  let here := old / 2 ^ p.2.1 % 2 ^ p.2.2
  quadWrite key p.1 (leBytes n (old + v % 2 ^ p.2.2 * 2 ^ p.2.1 - here * 2 ^ p.2.1)) s

/-- The quad-memory offset of an ACC40 slot. -/
def slotPlace (d : DWord) (i j : Nat) : Nat := rowOffset d i + 8 * j

/-- The tile WIDTH of a format (05 R110). -/
def fmtWidth : Fmt → Nat
  | .dm4 | .e2m1 | .i4 => 0
  | .dm6 | .e3m2 | .e2m3 => 1
  | .dm8 | .e5m2 | .e4m3 | .i8 | .n8 => 2
  | .f16 | .bf16 => 3
  | .f32 | .acc => 4

/-- The group size of a format (05 R110). -/
def fmtGroup : Fmt → Nat
  | .dm8 | .e5m2 | .e4m3 | .i8 | .n8 => 4
  | .f16 | .bf16 => 2
  | .f32 | .acc => 1
  | _ => 8

/-- Whether a format is an integer format. -/
def fmtInt : Fmt → Bool
  | .i8 | .n8 | .i4 => true
  | _ => false

/-- The type a c-tile takes from operand formats (05 R123). -/
def typeOf (f : Fmt) : CType := if (fmtInt f) then .int else .float

/-! ### Scales (05 R134–R136) -/

/-- A scale byte of a register's values. -/
def scaleByte (regs : List Word) (t byte : Nat) : Nat := (regs.getD t 0).toNat / 2 ^ (8 * byte) % 256

/-- The factor of a scale byte: a power of ten for a DM format, else of two; none for the zero scale (05 R135). -/
def scaleFactor (f : Fmt) (b : Nat) : Option FV :=
  if b = 128 then none
  else
    let p := if (Fmt.isDm f) then pow10 (sgn 8 b) else pow2 (sgn 8 b)
    some (.fin false p.1 p.2)

/-- An element with its factor; none when it is zero-scaled. -/
def scaledElem (f : Fmt) (bits : Nat) (factor : Option FV) : Option FV := factor.map (fun x => (decodeFmt f bits).mul x)

/-- A product; every product of a zero-scaled element is +0 (05 R135). -/
def productOf (a b : Option FV) : FV :=
  match a, b with
  | some x, some y => x.mul y
  | _, _ => .fin false 0 1

/-- Whether an operand is a NaN that takes part. -/
def nanOperand (a : Option FV) : Bool :=
  match a with
  | some x => x.isNan
  | none => false

/-! ### Sums (05 R131) -/

/-- One group of a float element: its products added exactly to the accumulator, one rounding. NV and OF for the counters
of R139 (log 64). -/
def floatGroup (acc : Nat) (l : List (Option FV × Option FV)) : Nat × FlagSet :=
  let a := decodeBin fACC acc
  let r := sumFV (a :: l.map (fun p => productOf p.1 p.2))
  let x := roundTo fACC .ne r
  let clean := !a.isNan && l.all (fun p => !nanOperand p.1 && !nanOperand p.2)
  (x.1, { nv := r.isNan && clean, ovf := x.2.ovf })

/-- The integer of an exact value. -/
def intOf (x : Option FV) : Int :=
  match x with
  | some (.fin s n d) => if s then -((n / d : Nat) : Int) else ((n / d : Nat) : Int)
  | _ => 0

/-- The bounds of an integer c-tile (05 R122). -/
def accBounds : Int × Int := (-(2 ^ 39), 2 ^ 39 - 1)

/-- One group of an integer element, saturating (05 R122, R131). -/
def intGroup (acc : Nat) (l : List (Option FV × Option FV)) : Nat × FlagSet :=
  let v := l.foldl (fun x p => x + intOf p.1 * intOf p.2) (sgn 40 acc)
  let c := max accBounds.1 (min v accBounds.2)
  (intBits 40 c, { sat := c != v })

/-- The group loop over the products of an element, `g` at a time in ascending order (05 R131). -/
def groupLoop (isInt : Bool) (g : Nat) : Nat → Nat × FlagSet → List (Option FV × Option FV) → Nat × FlagSet
  | 0, acc, _ => acc
  | _, acc, [] => acc
  | n + 1, acc, l =>
    let r := if isInt then intGroup acc.1 (l.take g) else floatGroup acc.1 (l.take g)
    groupLoop isInt g n (r.1, acc.2.join r.2) (l.drop g)

/-! ### C-tiles -/

/-- A c-tile of a context. -/
def ctileAt (c : Control) (n : CTileNo) : CTile := vget c.ctiles n.toNat ⟨.openT, none, []⟩

/-- An element of it. -/
def ctileElem (x : CTile) (i j : Nat) : Nat := (tget x.elems 0 (32 * i + j)).toNat

/-- A c-tile's elements replaced one by one. -/
def setElems (x : CTile) (l : List (Nat × Nat)) : CTile :=
  { x with elems := l.foldl (fun t p => tput t 0 p.1 (BitVec.ofNat 40 p.2)) x.elems }

/-- The pairs of operands of an element, `k` from 0 to K − 1 (09 R266, R267). -/
def operandPairs (s : State) (key : Nat) (m : MmaArgs) (dA dB : DWord) (sA sB : List Word) (row col ta tb : Nat) :
    List (Option FV × Option FV) :=
  (List.range (descCols dA)).map (fun k =>
    let fa := if m.noscale then some (.fin false 1 1) else scaleFactor m.fa (scaleByte sA ta (m.asel.toNat + k / 32))
    let fb := if m.noscale then some (.fin false 1 1) else scaleFactor m.fb (scaleByte sB tb (m.bsel.toNat + k / 32))
    (scaledElem m.fa (tileElem s key dA row k) fa, scaledElem m.fb (tileElem s key dB k col) fb))

/-- One computed element of a product: its value from `c[i][j]` or from zero. -/
def productElem (s : State) (key : Nat) (m : MmaArgs) (dA dB : DWord) (sA sB : List Word) (x : CTile)
    (i j row col ta tb : Nat) : Nat × FlagSet :=
  groupLoop (fmtInt m.fa) (min (fmtGroup m.fa) (fmtGroup m.fb)) (descCols dA)
    (if m.acc then ctileElem x i j else 0, noFlags) (operandPairs s key m dA dB sA sB row col ta tb)

/-- The elements of a c-tile. -/
def grid : List (Nat × Nat) := (List.range 32).flatMap (fun i => (List.range 32).map (fun j => (i, j)))

/-- The constant of a masked element (09 R268). -/
def maskConst (isInt : Bool) (code : BitVec 2) : Nat :=
  match code.toNat, isInt with
  | 0, _ => 0
  | 1, false => 0xFFE0000000
  | 2, false => 0xFFDFFFFFFF
  | _, false => 0x3FE0000000
  | 3, true => 1
  | _, true => 0x8000000000

/-- Whether a triangular product keeps an element (09 R268). -/
def triKeeps (diag : BitVec 7) (upper : Bool) (i j : Nat) : Bool :=
  let d : Int := diag.toInt
  if upper then decide ((i : Int) + d ≤ j) else decide ((j : Int) ≤ i + d)

/-- The elements that a dense or triangular product writes (09 R266, R268). -/
def denseElems (s : State) (key : Nat) (m : MmaArgs) (dA dB : DWord) (sA sB : List Word) (x : CTile)
    (mask : Option (BitVec 7 × Bool × BitVec 2)) : List (Nat × Nat × FlagSet) :=
  grid.filterMap (fun p =>
    let i := p.1
    let j := p.2
    let key' := 32 * i + j
    if i < descRows dA && j < descCols dB then
      match mask with
      | some (d, up, k) =>
        if triKeeps d up i j then some (key', productElem s key m dA dB sA sB x i j i j i j)
        else some (key', maskConst (fmtInt m.fa) k, noFlags)
      | none => some (key', productElem s key m dA dB sA sB x i j i j i j)
    else if m.acc then none
    else some (key', 0, noFlags))

/-- The elements of a batched product (09 R267). -/
def batchElems (s : State) (key : Nat) (m : MmaArgs) (dA dB : DWord) (sA sB : List Word) (x : CTile) :
    List (Nat × Nat × FlagSet) :=
  grid.map (fun q =>
    let i := q.1
    let j := q.2
    let p := 4 * (i / 8) + j / 8
    (32 * i + j, productElem s key m dA dB sA sB x i j (8 * p + i % 8) (8 * p + j % 8) p p))

/-! ### Completion of an operation -/

/-- Counters and flags of a completed operation (05 R129, R139; log 80). -/
def commitMatrix (key : Nat) (f : FlagSet) (s : State) : State :=
  let c := controlAt s key
  let up := fun (b : Bool) (x : Word) => if b && x != 0xFFFFFFFF then x + 1 else x
  let s := setControl key { c with mcnan := up f.nv c.mcnan, mcovf := up f.ovf c.mcovf, mcsat := up f.sat c.mcsat } s
  let w : Word := ({ nv := f.nv, ovf := f.ovf, sat := f.sat } : FlagSet).word
  match c.running with
  | some id => modStrand id (fun st => { st with fflags := st.fflags ||| w }) s
  | none => s

/-- A c-tile replaced. -/
def setCtile (key : Nat) (n : CTileNo) (x : CTile) (s : State) : State :=
  let c := controlAt s key
  setControl key { c with ctiles := vset c.ctiles n.toNat x } s

/-- The flags of elements merged. -/
def elemFlags (l : List (Nat × Nat × FlagSet)) : FlagSet := l.foldl (fun f e => f.join e.2.2) noFlags

/-- A product's elements written, with its type (05 R123). -/
def completeProduct (key : Nat) (m : MmaArgs) (l : List (Nat × Nat × FlagSet)) (s : State) : State :=
  let x := ctileAt (controlAt s key) m.ct
  let ty := if m.acc && x.ty != .openT then x.ty else typeOf m.fa
  commitMatrix key (elemFlags l)
    (setCtile key m.ct { setElems x (l.map (fun e => (e.1, e.2.1))) with ty := ty } s)

/-- An element that `cload` takes: exact but for DM values, or an exact integer (09 R271). -/
def loadElem (f : Fmt) (bits : Nat) : Nat :=
  if (fmtInt f) then intBits 40 (intOf (some (decodeFmt f bits))) else (roundTo fACC .ne (decodeFmt f bits)).1

/-- A `cload` completes (09 R271, 05 R123). -/
def completeLoad (key : Nat) (n : CTileNo) (f : Fmt) (d : DWord) (s : State) : State :=
  let l := grid.map (fun p =>
    (32 * p.1 + p.2,
     if f = .acc then leNat (quadRead s key (slotPlace d p.1 p.2) 8) % 2 ^ 40
     else loadElem f (tileElem s key d p.1 p.2)))
  let ty := if f = .acc then CType.openT else typeOf f
  setCtile key n { setElems (ctileAt (controlAt s key) n) l with ty := ty, bound := none } s

/-- The histogram bin of a drained element (05 R140). -/
def binOf (hoff : Word) (x : FV) : Nat :=
  match x with
  | .fin _ n d =>
    if n = 0 then 0
    else
      let k := floorLog2 n d - hoff.toInt + 15
      if 31 ≤ k then 31 else (max 1 (min k 30)).toNat
  | _ => 31

/-- Whether an exact value is below zero; a zero of either sign and a NaN are not. -/
def FV.below : FV → Bool
  | .nan => false
  | .inf neg => neg
  | .fin neg n _ => neg && n != 0

/-- The value that a drain converts: factor, zero scale and RELU (05 R137, R138). -/
def drainValue (f : Fmt) (relu : Bool) (byte : Nat) (v : FV) : FV :=
  let x := match scaleFactor f byte with
    | some k => v.mul k
    | none => .fin false 0 1
  if relu && x.below then .fin false 0 1 else x

/-- An element of a c-tile as an exact value. -/
def ctileValue (x : CTile) (i j : Nat) : FV :=
  if x.ty = .int then fvOfInt (sgn 40 (ctileElem x i j)) else decodeBin fACC (ctileElem x i j)

/-- A histogram with counts added; a bin stops at its greatest value (05 R140, R141). -/
def addCounts (h : Vector Word 32) (bins : List Nat) : Vector Word 32 :=
  Vector.ofFn (fun b => BitVec.ofNat 32 (min (h[b].toNat + (bins.filter (fun x => x == b.val)).length) 0xFFFFFFFF))

/-- A `cdrain` completes (05 R137–R141, 09 R272). -/
def completeDrain (key : Nat) (n : CTileNo) (f : Fmt) (hist : Option HistNo) (relu : Bool) (rm : RMode)
    (scale : List Word) (sel : Nat) (rowScale : Bool) (d : DWord) (hoff : Word) (s : State) : State :=
  let x := ctileAt (controlAt s key) n
  if f = .acc then
    let tag := if x.ty = .int then 2 ^ 40 else 0
    setCtile key n { x with bound := none }
      (grid.foldl (fun s p => quadWrite key (slotPlace d p.1 p.2) (leBytes 8 (ctileElem x p.1 p.2 + tag)) s) s)
  else
    let vals := grid.map (fun p =>
      (p, drainValue f relu (scaleByte scale (if rowScale then p.1 else 0) sel) (ctileValue x p.1 p.2)))
    let outs := vals.map (fun v => (v.1, convertTo f rm false v.2))
    let s := outs.foldl (fun s o => setTileElem key d o.1.1 o.1.2 o.2.1 s) s
    let s := match hist with
      | some h =>
        let c := controlAt s key
        setControl key { c with
          hists := vset c.hists h.toNat (addCounts (vget c.hists h.toNat (Vector.replicate 32 0))
            (vals.map (fun v => binOf hoff v.2))) } s
      | none => s
    commitMatrix key (outs.foldl (fun g o => g.join o.2.2) noFlags) (setCtile key n { x with bound := none } s)

/-- The effect of a queued operation when its engine completes it (09 R263). -/
def completeMatrix (key : Nat) (op : MatOp) (s : State) : State :=
  let x := fun (n : CTileNo) => ctileAt (controlAt s key) n
  match op with
  | .dense m a b sa sb _ => completeProduct key m (denseElems s key m a b sa sb (x m.ct) none) s
  | .batched m a b sa sb _ => completeProduct key m (batchElems s key m a b sa sb (x m.ct)) s
  | .tri m a b sa sb _ d up k => completeProduct key m (denseElems s key m a b sa sb (x m.ct) (some (d, up, k))) s
  | .czero n => setCtile key n ⟨.openT, none, []⟩ s
  | .cload n _ f d => completeLoad key n f d s
  | .cdrain n _ f h _ relu rm sc sel rs d ho => completeDrain key n f h relu rm sc sel rs d ho s

/-! ### The operation queue (03 R83, 09 R263) -/

/-- The c-tile of an operation. -/
def MatOp.ctile : MatOp → CTileNo
  | .dense m _ _ _ _ _ | .batched m _ _ _ _ _ | .tri m _ _ _ _ _ _ _ _ => m.ct
  | .czero c => c
  | .cload c _ _ _ => c
  | .cdrain c _ _ _ _ _ _ _ _ _ _ _ => c

/-- The tile an operation writes. -/
def MatOp.writesTile : MatOp → Option TileNo
  | .cdrain _ t _ _ _ _ _ _ _ _ _ _ => some t
  | _ => none

/-- Whether an operation must wait for an earlier one of its queue: a tile that either writes and the other names, or the
same c-tile while the earlier one is not taken (03 R83, 09 R263). -/
def MatOp.waitsFor (op : MatOp) (q : QueuedOp) : Bool :=
  (match op.writesTile with
   | some t => q.op.tiles.contains t
   | none => false)
  || (match q.op.writesTile with
      | some t => op.tiles.contains t
      | none => false)
  || (q.op.ctile == op.ctile && q.engine.isNone)

/-- The engines of a quad that perform an operation or are bound to a c-tile. -/
def enginesInUse (s : State) (quad : Nat) : List Nat :=
  (List.range 4).flatMap (fun c =>
    let x := controlAt s (ctlKey quad c)
    x.queue.filterMap (fun q => q.engine) ++ x.ctiles.toList.filterMap (fun t => t.bound))

/-- The engine that an operation on a c-tile goes to: its own once that is idle, else the lowest idle one. -/
def engineFor (s : State) (quad key : Nat) (n : CTileNo) : Option Nat :=
  match (ctileAt (controlAt s key) n).bound with
  | some e =>
    if (List.range 4).any (fun c => (controlAt s (ctlKey quad c)).queue.any (fun q => q.engine == some e)) then none
    else some e
  | none => (List.range 64).find? (fun e => !(enginesInUse s quad).contains e)

/-- The first operation of a queue that an engine can take, with that engine. -/
def takeFrom (s : State) (quad key : Nat) : List QueuedOp → List QueuedOp → Option (QueuedOp × Nat)
  | _, [] => none
  | before, q :: r =>
    let this := if q.engine.isSome || before.any (fun b => q.op.waitsFor b) then none else engineFor s quad key q.op.ctile
    match this with
    | some e => some (q, e)
    | none => takeFrom s quad key (before ++ [q]) r

/-- `MATRIX_OP_TAKE` (03 R83): an idle engine of the quad takes an operation, the contexts served in turn; the engine is
bound to the operation's c-tile. A die throttled by an over-current alarm issues no new operation (13 R343). -/
def execMatrixOpTake (quad : Nat) (s : State) : Out :=
  let first := tget s.engines.rrQuad 0 quad
  let found := (List.range 4).findSome? (fun i =>
    let c := (first + i) % 4
    (takeFrom s quad (ctlKey quad c) [] (controlAt s (ctlKey quad c)).queue).map (fun x => (c, x)))
  if s.power.throttled.contains (quad / 4) then .next s else
  match found with
  | none => .next s
  | some (c, q, e) =>
    let key := ctlKey quad c
    let x := controlAt s key
    let t := ctileAt x q.op.ctile
    let s := setControl key { x with
      queue := x.queue.map (fun y => if y.id = q.id then { y with engine := some e } else y),
      ctiles := vset x.ctiles q.op.ctile.toNat { t with bound := some e } } s
    .next { s with engines := { s.engines with rrQuad := tput s.engines.rrQuad 0 quad ((c + 1) % 4) } }

/-- `MATRIX_OP_COMPLETE` (09 R263): the operation of an engine takes effect and leaves the queue; a drain with GIVE hands
its tile back, and so does the last operation pending on a tile whose return is pending (09 R257, R272). -/
def execMatrixOpComplete (quad engine : Nat) (s : State) : Out :=
  let found := (List.range 4).findSome? (fun c =>
    ((controlAt s (ctlKey quad c)).queue.find? (fun q => q.engine == some engine)).map (fun q => (ctlKey quad c, q)))
  match found with
  | none => .next s
  | some (key, q) =>
    let s := completeMatrix key q.op s
    let x := controlAt s key
    let s := setControl key { x with queue := x.queue.filter (fun y => y.id != q.id) } s
    let s := match q.op with
      | .cdrain _ t _ _ give _ _ _ _ _ _ _ => if give then handBack key t s else s
      | _ => s
    .next (q.op.tiles.foldl (fun s t => returnIfPending key t s) s)

/-! ### Issue -/

/-- The type a c-tile will have when every queued operation on it has completed (05 R123). -/
def typeAhead (c : Control) (n : CTileNo) : CType :=
  c.queue.foldl (fun ty q =>
    if q.op.ctile != n then ty
    else match q.op with
      | .dense m _ _ _ _ _ | .batched m _ _ _ _ _ | .tri m _ _ _ _ _ _ _ _ =>
        if m.acc && ty != .openT then ty else typeOf m.fa
      | .czero _ => .openT
      | .cload _ _ f _ => if f = .acc then .openT else typeOf f
      | .cdrain _ _ _ _ _ _ _ _ _ _ _ _ => ty) (ctileAt c n).ty

/-- What a matrix instruction asks at issue: it exists on a control lane only (06 R157). -/
def matNeed (i : Instr) (regs : List Reg) : Need :=
  { words := encodeWords i, regs := regs, uses := regs, onCtl := true, tileOrder := true }

/-- An operation enters its context's queue, and the instruction retires (09 R263). -/
def queueOp (n : Need) (op : MatOp) (s : State) : State :=
  let key := ownControl s
  let c := controlAt s key
  retire n (setControl key { c with queue := c.queue ++ [⟨s.mem.nextOp, op, none⟩] }
    { s with mem := { s.mem with nextOp := s.mem.nextOp + 1 } })

/-- The values of a register's threads. -/
def threadValues (s : State) (r : Reg) : List Word := (List.finRange 32).map (fun t => (reg s r).at t)

/-- The tile that a first misuse names and its cause: ENGINE_MISUSE before TILE_OWNER (14 R351). -/
def tileCheck (s : State) (t : TileNo) : Option (Cause × Nat × TileNo) :=
  (tileRefused s (ownControl s) t false).map (fun d => (Cause.tileOwner, d, t))

/-- The checks of a product at issue (05 R111, R123, R136; 09 R265; log 65). -/
def mmaCheck (s : State) (m : MmaArgs) (batch : Bool) : Option (Cause × Nat × TileNo) :=
  let key := ownControl s
  let a := (tileAt s key m.ta).desc
  let b := (tileAt s key m.tb).desc
  let k := descCols a
  let shape := if batch then descRows a == 128 && descCols b == 128
               else decide (descRows a ≤ 32) && decide (descCols b ≤ 32)
  let ty := typeAhead (controlAt s key) m.ct
  if descWidth a ≠ fmtWidth m.fa then some (.engineMisuse, 1, m.ta)
  else if descWidth b ≠ fmtWidth m.fb then some (.engineMisuse, 1, m.tb)
  else if !shape || descRows b != k || decide ((if m.noscale then 512 else 128) < k) then some (.engineMisuse, 2, m.ta)
  else if !m.noscale && decide (4 < m.asel.toNat + (k + 31) / 32) then some (.engineMisuse, 3, m.ta)
  else if !m.noscale && decide (4 < m.bsel.toNat + (k + 31) / 32) then some (.engineMisuse, 3, m.tb)
  else if m.acc && ty != .openT && ty != typeOf m.fa then some (.engineMisuse, 4, m.ct.setWidth 5)
  else (tileCheck s m.ta).or (tileCheck s m.tb)

/-- A product instruction (09 R263–R268). -/
def mmaOp (i : Instr) (m : MmaArgs) (batch : Bool) (op : DWord → DWord → List Word → List Word → MatOp) (s : State) :
    State :=
  let n := matNeed i (if m.noscale then [] else [m.areg, m.breg])
  issue n s (fun _ s =>
    let key := ownControl s
    if 64 ≤ (controlAt s key).queue.length then s
    else match mmaCheck s m batch with
      | some (c, d, t) => tileMisuse n c d t s
      | none =>
        let sc := fun (r : Reg) => if m.noscale then [] else threadValues s r
        queueOp n (op (tileAt s key m.ta).desc (tileAt s key m.tb).desc (sc m.areg) (sc m.breg)) s)

/-- `mma` (09 R266). -/
def execMma (m : MmaArgs) (s : State) : Out :=
  .next (mmaOp (.mma m) m false (fun a b x y => .dense m a b x y m.acc) s)

/-- `mmab` (09 R267). -/
def execMmab (m : MmaArgs) (s : State) : Out :=
  .next (mmaOp (.mmab m) m true (fun a b x y => .batched m a b x y m.acc) s)

/-- `mmat` (09 R268). -/
def execMmat (m : MmaArgs) (diag : BitVec 7) (upper : Bool) (mconst : BitVec 2) (s : State) : Out :=
  .next (mmaOp (.mmat m diag upper mconst) m false (fun a b x y => .tri m a b x y m.acc diag upper mconst) s)

/-- The shape of the tile of a `cload` or `cdrain` (09 R271, R272), then its owner state. -/
def movedTile (s : State) (t : TileNo) (f : Fmt) : Option (Cause × Nat × TileNo) :=
  let d := (tileAt s (ownControl s) t).desc
  if descWidth d ≠ fmtWidth f then some (.engineMisuse, 1, t)
  else if descRows d != 32 || descCols d != (if f = .acc then 64 else 32) || (f = .acc && descTrn d) then
    some (.engineMisuse, 2, t)
  else tileCheck s t

/-- A `cload` or `cdrain` at issue. -/
def movedOp (n : Need) (t : TileNo) (f : Fmt) (op : State → DWord → MatOp) (s : State) : State :=
  issue n s (fun _ s =>
    if 64 ≤ (controlAt s (ownControl s)).queue.length then s
    else match movedTile s t f with
      | some (c, d, x) => tileMisuse n c d x s
      | none => queueOp n (op s (tileAt s (ownControl s) t).desc) s)

/-- `cdrain` (09 R272; 05 R137–R141). -/
def execCdrain (c : CTileNo) (t : TileNo) (fmt : Fmt) (hist : Option HistNo) (give relu : Bool) (rm : RMode) (sreg : Reg)
    (ssel : BitVec 2) (rowScale : Bool) (s : State) : Out :=
  .next (movedOp (matNeed (.cdrain c t fmt hist give relu rm sreg ssel rowScale) [sreg]) t fmt (fun s d =>
    .cdrain c t fmt hist give relu rm (threadValues s sreg) ssel.toNat rowScale d
      (match hist with
       | some h => vget (controlAt s (ownControl s)).hoff h.toNat 0
       | none => 0)) s)

/-- `czero` (09 R271). -/
def execCzero (c : CTileNo) (s : State) : Out :=
  let n := matNeed (.czero c) []
  .next (issue n s (fun _ s =>
    if 64 ≤ (controlAt s (ownControl s)).queue.length then s else queueOp n (.czero c) s))

/-- `cload` (09 R271). -/
def execCload (c : CTileNo) (t : TileNo) (fmt : Fmt) (s : State) : Out :=
  .next (movedOp (matNeed (.cload c t fmt) []) t fmt (fun _ d => .cload c t fmt d) s)

/-! ### Histograms (09 R273) -/

/-- Whether an earlier drain of the context that names a histogram has not completed. -/
def drainsOutstanding (s : State) (k : HistNo) : Bool :=
  (controlAt s (ownControl s)).queue.any (fun q => match q.op with
    | .cdrain _ _ _ h _ _ _ _ _ _ _ _ => h == some k
    | _ => false)

/-- A histogram changed. -/
def modHist (k : HistNo) (f : Vector Word 32 → Vector Word 32) (s : State) : State :=
  modOwnControl (fun c => { c with hists := vset c.hists k.toNat (f (vget c.hists k.toNat (Vector.replicate 32 0))) }) s

/-- `hclr` (09 R273). -/
def execHclr (k : HistNo) (s : State) : Out :=
  let n : Need := { words := encodeWords (.hclr k), onCtl := true }
  .next (issue n s (fun _ s =>
    if drainsOutstanding s k then s else retire n (modHist k (fun _ => Vector.replicate 32 0) s)))

/-- `hrd` (09 R273): the bin that a names, thread by thread. -/
def execHrd (d : Reg) (nw : Bool) (a : Sel) (k : HistNo) (s : State) : Out :=
  let n : Need := { words := encodeWords (.hrd d nw a k), regs := [d], sels := [a], dst := some d, onCtl := true }
  .next (issue n s (fun v s =>
    if drainsOutstanding s k then s
    else
      let h := vget (controlAt s (ownControl s)).hists k.toNat (Vector.replicate 32 0)
      retire n (writeVec d nw (byTags v (fun t => vget h ((opnd v 0 t).toNat % 32) 0)) s)))

/-- `hset` (09 R273): bin t from thread t, for the active threads. -/
def execHset (a : Sel) (k : HistNo) (s : State) : Out :=
  let n : Need := { words := encodeWords (.hset a k), sels := [a], onCtl := true }
  .next (issue n s (fun v s =>
    if drainsOutstanding s k then s
    else
      let m := s.me.cur.mask
      retire n (modHist k (fun h => Vector.ofFn (fun t => if m.getLsbD t.val then opnd v 0 t else h[t])) s)))

/-- `cwait` (09 R274): waits until the tile's OWNER is v. -/
def execCwait (t : TileNo) (v : Bool) (s : State) : Out :=
  let n : Need := { words := encodeWords (.cwait t v), onCtl := true, tileOrder := true, blocking := true }
  .next (issue n s (fun _ s =>
    if tileOwner (tileAt s (ownControl s) t) == v then retire n s else waitHere n (.owner t v) .no s))

end Sys2Proof.Machine
end

