-- ==== Sys2Proof/Machine/Issue.lean ====
section
/-! DEFINITION. Choosing the next clause, waits that end, time slices, drowsy banks and register errors (02 R24, R32, R40,
R48–R50, R56, R57; 03 R82; 16 R404–R406). -/

namespace Sys2Proof.Machine

/-! ### The issue slot of a lane (02 R24, 03 R82) -/

/-- The strands on a lane. -/
def strandsOn (s : State) (l : LaneId) : List Strand := (strandsOf s).filter (fun st => st.place.lane == l)

/-- The ready fragments of a strand that may issue, in creation order; of a halted strand only the one that a STEP names. -/
def Strand.readyFrags (st : Strand) : List Fragment := st.all.filter (fun f => f.wait == .ready && st.mayGo f.id)

/-- The fragment in the course of a clause on a lane. -/
def slotHolder (s : State) (l : LaneId) : Option (StrandId × Nat) :=
  (strandsOn s l).findSome? (fun st => (st.readyFrags.find? (fun f => f.slot)).map (fun f => (st.who.id, f.id)))

/-- The strand that R82 picks among those with a ready fragment. -/
def pickStrand (cand : List Strand) : Option Strand :=
  match minBy (fun (st : Strand) => st.age) (cand.filter (fun st => decide (256 ≤ st.skip))) with
  | some st => some st
  | none =>
    match minBy (fun (st : Strand) => st.prio.toNat) cand with
    | none => none
    | some x => minBy (fun (st : Strand) => st.age) (cand.filter (fun st => st.prio == x.prio))

/-- `CLAUSE_ISSUE` (03 R82): at a clause slot of a lane the strand is picked, its oldest ready fragment takes the issue
slot, and the skip counts follow; in the course of a clause the lane stays with its fragment (02 R24).
A strand that is picked has used its slot, whether or not its header's waits then hold (log 92). -/
def execClauseIssue (lane : LaneId) (s : State) : Out :=
  match slotHolder s lane with
  | some (id, f) => .next (focus id f s)
  | none =>
    let cand := (strandsOn s lane).filter (fun st => !st.readyFrags.isEmpty)
    match pickStrand cand with
    | none => .next s
    | some pick =>
      match pick.readyFrags with
      | [] => .next s
      | f :: _ =>
        let skips := cand.foldl (fun s st =>
          modStrand st.who.id (fun x => { x with skip := if st.who.id == pick.who.id then 0 else x.skip + 1 }) s) s
        let s := focus pick.who.id f.id skips
        .next (modCur (fun f => { f with slot := true }) (wakeLane lane s))

/-- `STRAND_READY` (02 R56): a wait that is over ends; a strand at a blocking point that an image is to be made of stays
there (02 R50). A header wait that does not hold yet is of the kind that its conditions have now (06 R145). -/
def execStrandReady (st : StrandId) (frag : Nat) (s : State) : Out :=
  match findStrand s st with
  | none => .next s
  | some x =>
    match x.frag? frag with
    | none => .next s
    | some f =>
      if waitOver s x f then
        (if x.imaging && x.atBlockingPoint then .next s
         else .next (modStrand st (Strand.modFrag frag (fun f => { f with wait := .ready, slot := false })) s))
      else match f.wait with
        | .header _ =>
          .next (modStrand st (Strand.modFrag frag (fun f => { f with wait := .header (headerWaitKind s x f.head) })) s)
        | _ => .next s

/-- `TIME_SLICE_EXPIRY` (02 R49, R57; 14 R371): pending until a yield point; at a blocking point it takes effect at once, of a
halted strand only after RESUME. -/
def execTimeSliceExpiry (st : StrandId) (s : State) : Out :=
  match findStrand s st with
  | none => .next s
  | some x => .next (if x.atBlockingPoint && !x.halted then s else modStrand st (fun x => { x with timeSlice := true }) s)

/-! ### Banks and registers -/

/-- `BANK_DROWSY` (02 R32): a bank goes drowsy while none of its lane's strands is ready; the values stay (log 66). -/
def execBankDrowsy (lane : LaneId) (bank : Nat) (s : State) : Out :=
  if (strandsOn s lane).any (fun st => !st.readyFrags.isEmpty) || s.failure.drowsy.contains (lane, bank) then .next s
  else .next { s with failure := { s.failure with drowsy := s.failure.drowsy ++ [(lane, bank)] } }

/-- Whether a place of a strand lies in a spill area, where errors are those of scratch memory (16 R405, 15 R374). -/
def spilled (st : Strand) (what : RegSite) : Bool :=
  match what with
  | .reg r => (vget st.regs r.toNat (.u 0)).tagNo == 2 && !st.resident.contains r
  | _ => false

/-- The threads that a register error names: those of the failed elements of a G register, else all active ones (16
R406). -/
def errorThreads (st : Strand) (what : RegSite) (failed active : Mask) : Mask :=
  match what with
  | .reg r => if (vget st.regs r.toNat (.u 0)).tagNo == 2 then failed else active
  | _ => active

/-- Whether registers of a fragment may be read: by its next instruction, by the debugger, or, while it waits, as an image of
its strand is built (16 R404, R406). -/
def mayRead (s : State) (st : Strand) (f : Fragment) : Bool :=
  match f.wait with
  | .ready => !st.killing
  | .ended | .suspended => false
  | .parked _ => !st.killing && st.halted
  | _ => !st.killing && (st.halted || (st.imaging && st.atBlockingPoint && inFlight s st.who.id == 0))

/-- The newest entry of the operand log for a register, a predicate or a latch of a fragment (16 R405). -/
def logged (s : State) (st : Strand) (frag : Nat) (what : RegSite) : Option LogEntry :=
  (tget s.opLog [] st.place.laneKey).find? (fun e => e.who == st.who.id && e.site == what &&
    (match what with
     | .latch _ => e.frag == frag
     | _ => true))

/-- The value of an entry written back into the store (16 R405). -/
def writeBackEntry (e : LogEntry) (frag : Nat) (st : Strand) : Strand :=
  match e.site, e.value with
  | .reg r, v => { st with regs := vset st.regs r.toNat v }
  | .pred p, .u m => { st with preds := vset st.preds p.val m }
  | .latch n, v => st.modFrag frag (fun f => { f with latches := vset f.latches n.toNat v })
  | _, _ => st

/-- `REGISTER_ERROR` (16 R404–R406): a failed check before an instruction issues, or as the debugger or an image reads; the
operand log puts the value back, or the fragment parks with POISON. Whether the logged value's own check bits pass is a free value (log 16). -/
def execRegisterError (st : StrandId) (frag : Nat) (what : RegSite) (threads : Mask) (s : State) : Out :=
  match findStrand s st with
  | none => .next s
  | some x =>
    match x.frag? frag with
    | none => .next s
    | some f =>
      if !mayRead s x f || spilled x what then .next s
      else
        let s' := { s with fresh := s.fresh + 1 }
        match (if Config.logHolds s.fresh then logged s x frag what else none) with
        | some e => .next (modStrand st (writeBackEntry e frag) s')
        | none =>
          let s := focus st frag s'
          .next (takeCause { cause := .poison, threads := errorThreads x what threads f.mask }
            (posWord s.me.cur.hdr s.me.cur.widx) id s)

end Sys2Proof.Machine
end

