-- ==== Sys2Proof/Machine/Launch.lean ====
section
/-! DEFINITION. Launch records: their fields and checks, the launch queues, device-side records, handles, and the completion
of a launch (03 R59–R70, R429; 15 R403). -/

namespace Sys2Proof.Machine

/-! ### Records (03 R59–R64) -/

/-- A 32-bit little-endian word of bytes. -/
def wordOf (bs : List Byte) (i : Nat) : Word := BitVec.ofNat 32 (leNat ((bs.drop (4 * i)).take 4))

/-- The 16 words of a record. -/
def recordWords (bs : List Byte) : List Word := (List.range 16).map (wordOf bs)

/-- Word `i` of a record as a number. -/
def rw (ws : List Word) (i : Nat) : Nat := (ws.getD i 0).toNat

/-- Two words as a 64-bit number. -/
def rd (ws : List Word) (i : Nat) : Nat := rw ws i + 2 ^ 32 * rw ws (i + 1)

/-- The fields of a launch record (03 R59, R60). -/
def parseRecord (ws : List Word) : Record :=
  let ctl := rw ws 1
  let grid := rd ws 6
  let shape := rw ws 8
  let mem := rw ws 9
  let gang := rw ws 10
  { words := ws, kentry := BitVec.ofNat 64 (rd ws 2), centry := BitVec.ofNat 64 (rd ws 4),
    gx := field grid 23 0 + 1, gy := field grid 39 24 + 1, gz := field grid 55 40 + 1,
    strands := field shape 4 0 + 1, vmax := field shape 11 5, gmax := field shape 18 12, spill := field shape 25 19,
    scratch := 256 * field mem 15 0, laneMem := 8 * field mem 25 16, quadMem := 2 ^ 20 * field mem 30 26,
    gq := field gang 7 0, gd := field gang 19 8, gp := bit gang 20, gpod := bit gang 21,
    params := BitVec.ofNat 64 (rd ws 12), sync := rw ws 14, podId := field ctl 31 16, nrole := field ctl 11 9,
    irole := field ctl 8 6, ctrl := bit ctl 5, idem := bit ctl 4, qbound := bit ctl 3, pair := bit ctl 2,
    prio := field ctl 1 0 }

/-- The number of blocks. -/
def Record.blocks (r : Record) : Nat := r.gx * r.gy * r.gz

/-- The gang unit: GD, else GQ, else 1 (03 R79). -/
def Record.unit (r : Record) : Nat := if r.gd != 0 then r.gd else if r.gq != 0 then r.gq else 1

/-- The blocks that are handed out and placed together, so that neither a die gang nor a quad gang is split (03 R78–R80; log 68). -/
def Record.gang (r : Record) : Nat := if r.gd != 0 && r.gq != 0 then Nat.lcm r.gd r.gq else r.unit

/-- What a strand takes of its lane's slice (02 R26). -/
def Record.slice (r : Record) : Nat := r.laneMem + 128 * r.spill + 512

/-- How many strands of a launch an empty lane holds (02 R26). -/
def Record.perLane (r : Record) : Nat :=
  min (min 8 (384 / max 1 r.gmax)) (min (512 / max 1 r.vmax) (8192 / max 1 r.slice))

/-- How many blocks of a launch an empty core holds beside the launch's quad memory (03 R64, R80). -/
def Record.perCore (r : Record) : Nat :=
  let byStrands := 128 * r.perLane / r.strands
  if r.scratch = 0 then byStrands else min byStrands ((2 ^ 22 - r.quadMem / 4) / r.scratch)

/-- How many blocks of a launch an empty quad holds: whole quad gangs of them where there is one (03 R64, R80). -/
def Record.perQuad (r : Record) : Nat := if r.gq = 0 then 4 * r.perCore else 4 * r.perCore / r.gq * r.gq

/-- How many blocks of one die gang an empty die holds: those of its four quads, with QBOUND those of one (03 R64, R80). -/
def Record.perDie (r : Record) : Nat := if r.qbound then r.perQuad else 4 * r.perQuad

/-- Whether reserved bits are set or a limit of R59, R60, R62 and R63 is broken. DESIGN CHOICE: bits 63:52 of CENTRY count as
reserved bits like those of KENTRY (log 88). -/
def recordFieldsBad (ws : List Word) : Bool :=
  let ctl := rw ws 1
  let r := parseRecord ws
  field (rd ws 2) 63 52 != 0 || field (rd ws 4) 63 52 != 0 || field (rd ws 6) 63 56 != 0 || field (rw ws 8) 31 26 != 0
    || bit (rw ws 9) 31 || bit (rw ws 10) 31 || rw ws 11 != 0 || r.sync % 8 != 0 || bit ctl 12 || field ctl 15 13 != 0
    || (!r.gpod && r.podId != 0) || decide (r.nrole < r.irole) || decide (r.gmax < 4) || decide (r.vmax < r.gmax)
    || decide (64 < r.vmax) || decide (60 < r.spill) || decide (2 ^ 22 < r.scratch) || decide (16 * 2 ^ 20 < r.quadMem)
    || decide (2 ^ 32 - 1 < r.blocks) || (!r.ctrl && r.centry != 0)

/-- Whether a gang size is neither a divisor nor a multiple of 64. -/
def gangSizeBad (g : Nat) : Bool := g != 0 && 64 % g != 0 && g % 64 != 0

/-- The dies that are not fenced (15 R384). -/
def liveDies (s : State) : List Nat := (List.range 16).filter (fun d => !s.failure.fencedDies.contains d)

/-- Whether a launch could never be placed: slice, lanes, scratchpad and gangs (03 R64). DESIGN CHOICE: the gangs are tried
with all the blocks that GQ or GD names, also where the launch has fewer (log 88). -/
def recordSizeBad (s : State) (r : Record) : Bool :=
  let twice := if r.pair then 2 else 1
  decide (8192 < r.slice) || r.perCore == 0 || gangSizeBad r.gq || gangSizeBad r.gd
    || decide (4 * r.perCore < r.gq) || decide (r.perDie < r.gd)
    || (r.gp && decide ((liveDies s).length * (16 * r.perCore) < twice * r.blocks))

/-- Whether a record is a graph record (03 R60). -/
def isGraphRecord (ws : List Word) : Bool := bit (rw ws 1) 15

/-- The agent number under which the command processor would cache translations; it caches none. -/
def cpAgent : Nat := 16

/-- Bytes within a page that the command processor reads at a virtual address of a context, if it can: not where the lender has refused a
unit of a staging frame (11 R322). -/
def cpRead (s : State) (ctx va n : Nat) : Option (List Byte) :=
  match resolve s cpAgent ctx .load 8 (BitVec.ofNat 64 va) with
  | .ok fab l _ =>
    let refused := leafKind l = 4 && s.work.cpUnits.contains (leafIndex l, stageUnit s (leafIndex l) fab, true)
    if peekRefused s fab n || peekPoisoned s fab n || refused then none else some (peek s fab n)
  | .bad _ _ _ _ => none

/-- Eight bytes at a word-aligned address, whose halves may lie in two pages. -/
def cpRead8 (s : State) (ctx va : Nat) : Option (List Byte) :=
  if va % 8 = 0 then cpRead s ctx va 8
  else match cpRead s ctx va 4, cpRead s ctx (va + 4) 4 with
    | some a, some b => some (a ++ b)
    | _, _ => none

/-- `8 n` bytes that may cross pages, read eight at a time. -/
def cpReadLong (s : State) (ctx va : Nat) : Nat → Option (List Byte)
  | 0 => some []
  | n + 1 =>
    match cpRead8 s ctx va, cpReadLong s ctx (va + 8) n with
    | some a, some b => some (a ++ b)
    | _, _ => none

/-- What the command processor has to wait for before it can read a range of virtual addresses, unit by unit: none stands for a home
that serves no read now, else a unit of a staging frame that is to be fetched (11 R322; 15 R376, R381). -/
def cpAway (s : State) (ctx : Nat) (x : Nat × Nat) : List (Option (Nat × Nat)) :=
  (if x.2 = 0 then [] else List.range ((x.1 + x.2 - 1) / 256 + 1 - x.1 / 256)).flatMap (fun i =>
    let va := max x.1 ((x.1 / 256 + i) * 256)
    if walkHeld s cpAgent ctx va then [none]
    else match resolve s cpAgent ctx .load 8 (BitVec.ofNat 64 va) with
      | .bad _ _ _ _ => []
      | .ok fab l _ =>
        let u := (leafIndex l, stageUnit s (leafIndex l) fab)
        if isLocal s fab && homeHeld s (fabLocal fab) 4 then [none]
        else if leafKind l = 4 && unitAway s u.1 u.2 && !s.work.cpUnits.contains (u.1, u.2, true) then [some u]
        else [])

/-- What the command processor does before it reads ranges of virtual addresses: none when it can read them now, else the state in which
the missing units have been asked for. -/
def cpAsk (s : State) (ctx : Nat) (ranges : List (Nat × Nat)) : Option State :=
  let away := ranges.flatMap (cpAway s ctx)
  if away.isEmpty then none
  else some (away.foldl (fun s x => match x with
    | none => s
    | some u => fetchUnit u.1 u.2 { s with work := { s.work with cpUnits := merge s.work.cpUnits [(u.1, u.2, false)] } }) s)

/-- The command processor is done with a record: what has been refused it is asked for anew by the next one. -/
def cpDone (s : State) : State := { s with work := { s.work with cpUnits := s.work.cpUnits.filter (fun u => !u.2.2) } }

/-- The role table that is read with a launch record (03 R61). -/
def recordRanges (ws : List Word) : List (Nat × Nat) :=
  let r := parseRecord ws
  if isGraphRecord ws || r.nrole = 0 || r.kentry.toNat < 0x40 then [] else [(r.kentry.toNat - 0x40, 0x40)]

/-- A role record (03 R61). -/
def roleOf (kentry x : Nat) : RoleRec :=
  { entry := BitVec.ofNat 52 kentry + BitVec.ofInt 52 (sgn 32 x), v := field x 38 32, g := field x 46 40,
    cls := field x 49 48 }

/-- Whether figures break 4 ≤ G ≤ V ≤ 64. -/
def figuresBad (r : RoleRec) : Bool := decide (r.g < 4) || decide (r.v < r.g) || decide (64 < r.v)

/-- The roles of a launch, if its role table can be read and keeps R61 and R64. -/
def rolesOf (s : State) (ctx : Nat) (r : Record) : Option (List RoleRec) :=
  if r.nrole = 0 then some [⟨posAddr r.kentry, r.vmax, r.gmax, r.prio⟩]
  else if r.kentry.toNat < 0x40 then none
  else match cpReadLong s ctx (r.kentry.toNat - 0x40) 8 with
    | none => none
    | some bs =>
      let xs := (List.range 8).map (fun i => leNat ((bs.drop (8 * i)).take 8))
      let roles := (xs.take (r.nrole + 1)).map (roleOf r.kentry.toNat)
      let bad := (xs.take (r.nrole + 1)).any (fun x => field x 39 39 != 0 || bit x 47 || field x 63 50 != 0)
        || roles.any figuresBad || (xs.drop (r.nrole + 1)).any (fun x => x != 0)
      if bad then none else some roles

/-- The checks of R64: a record with its roles, or none when it is rejected. -/
def checkRecord (s : State) (ctx : Nat) (ws : List Word) : Option (Record × List RoleRec) :=
  let r := parseRecord ws
  if recordFieldsBad ws || rw ws 0 = 0 || recordSizeBad s r then none
  else match rolesOf s ctx r with
    | none => none
    | some roles =>
      match roles[r.irole]? with
      | none => none
      | some x => if roleFits r x && !figuresBad x then some (r, roles) else none

/-! ### Handles and acceptance (03 R429) -/

/-- The handles in use. -/
def handlesInUse (s : State) : List Nat := s.work.launches.map (fun l => l.handle) ++ s.work.replays.map (fun r => r.handle)

/-- The next handle after one, skipping 0 and the handles in use. -/
def nextHandle (used : List Nat) : Nat → Nat → Nat
  | 0, h => h
  | n + 1, h =>
    let h' := (h + 1) % 2 ^ 30
    if h' = 0 || used.contains h' then nextHandle used n h' else h'

/-- A handle assigned. -/
def assignHandle (s : State) : Nat := nextHandle (handlesInUse s) (s.work.launches.length + s.work.replays.length + 2) s.work.lastHandle

/-- A launch accepted: all its indices unassigned (03 R78, R429). -/
def acceptLaunch (r : Record) (roles : List RoleRec) (ctx : Nat) (replay : Option (Nat × Nat)) (s : State) : State :=
  let h := assignHandle s
  let l : Launch := { handle := h, record := r, context := ctx, roles := roles, free := [(0, r.blocks)], runs := [],
                      lost := [], ended := 0, order := s.work.acceptCount, generation := tget s.work.generations 0 h, restored := false,
                      replay := replay }
  { s with work := { s.work with launches := s.work.launches ++ [l], lastHandle := h,
                                 acceptCount := s.work.acceptCount + 1 } }

/-- Whether the distributors accept launches: the queues are open and the package is not fenced (13 R339; 15 R390). -/
def accepting (s : State) : Bool := s.work.opened && s.mem.mode != .fenced

/-! ### Launch queues (03 R66–R68, R70) -/

/-- A launch queue. -/
def queueAt (s : State) (q : Nat) : LaunchQueue := vget s.work.queues q .zero

/-- A launch queue replaced. -/
def setQueue (q : Nat) (x : LaunchQueue) (s : State) : State :=
  { s with work := { s.work with queues := vset s.work.queues q x } }

/-- The slots of a queue. -/
def queueSlots (x : LaunchQueue) : Nat := 2 ^ (x.size.toNat % 32)

/-- QERR with a slot index and a reason. -/
def qerrWord (x : LaunchQueue) (index : Nat) (reason : Nat) : Word :=
  BitVec.ofNat 32 (index % queueSlots x % 2 ^ 16 * 2 ^ 16 + reason)

/-- Whether a producer index is bad: more than the slot count away from the old one in both directions, or lowered by more than
the slots that wait, which puts it behind QCONS (03 R67; modulo 2^32). -/
def LaunchQueue.badIndex (x : LaunchQueue) (value : Word) : Bool :=
  let up := (value - x.prod).toNat
  let down := (x.prod - value).toNat
  decide (queueSlots x < min up down) || (decide (down ≤ up) && decide ((x.prod - x.cons).toNat < down))

/-- `LAUNCH_DOORBELL` (03 R66, R67): a write of QPROD; a bad index is ignored, with QERR reason 3. DESIGN CHOICE: the slot
index that QERR then shows is the refused index modulo the slot count (log 88). -/
def execLaunchDoorbell (q : QNo) (value : Word) (s : State) : Out :=
  let x := queueAt s q.toNat
  if x.badIndex value then .next (setQueue q.toNat { x with err := qerrWord x value.toNat 3 } s)
  else .next (setQueue q.toNat { x with prod := value } s)

/-- `QERR_CLEAR` (03 R66): zero written to QERR. -/
def execQerrClear (q : QNo) (s : State) : Out := .next (setQueue q.toNat { queueAt s q.toNat with err := 0 } s)

/-- The fabric address of a queue's next slot. -/
def slotAddr (x : LaunchQueue) : Nat := x.base.toNat + 64 * (x.cons.toNat % queueSlots x)

/-- The record in it, if it can be read. -/
def readSlot (s : State) (x : LaunchQueue) : Option (List Word) :=
  let a := slotAddr x
  if peekRefused s a 64 || peekPoisoned s a 64 then none else some (recordWords (peek s a 64))

/-- The slot taken: QCONS advances; a reason other than 0 goes to QERR (03 R68). -/
def takeSlot (q reason : Nat) (s : State) : State :=
  let x := queueAt s q
  setQueue q { x with cons := x.cons + 1, rereads := 0, nextRead := 0,
                      err := if reason = 0 then x.err else qerrWord x x.cons.toNat reason } s

/-- Whether a queue has a record that may be taken now: its head is not being read again, and no graph record of it
waits (03 R68, R77). -/
def queueReady (s : State) (q : Nat) : Bool :=
  let x := queueAt s q
  x.prod != x.cons && x.rereads == 0 && s.work.graphRecs.all (fun g => g.source != .queue q)

/-- The next queue in turn with a record to take. -/
def nextQueue (s : State) : Option Nat :=
  ((List.range 16).map (fun i => (s.work.rr + i) % 16)).find? (queueReady s)

/-- A graph record's fields (03 R77). -/
def graphRecOf (src : Source) (ctx : Nat) (ws : List Word) : GraphRec :=
  { source := src, context := ctx, gop := field (rw ws 1) 14 13, addr := rd ws 2, sync := rw ws 14 }

/-- Whether a graph record breaks R77: its bits, or GOP 3. -/
def graphRecBad (ws : List Word) : Bool :=
  let ctl := rw ws 1
  let gop := field ctl 14 13
  gop == 3 || rw ws 0 == 0 || field ctl 31 16 != 0 || field ctl 12 0 != 0 || field (rd ws 2) 63 52 != 0
    || rd ws 2 % 4096 != 0 || (List.range 10).any (fun i => rw ws (i + 4) != 0)
    || (gop != 0 && rw ws 14 != 0) || rw ws 14 % 8 != 0

/-- A graph record set aside for its operation. -/
def setAside (src : Source) (ctx : Nat) (ws : List Word) (s : State) : State :=
  { s with work := { s.work with graphRecs := s.work.graphRecs ++ [graphRecOf src ctx ws] } }

/-- The acknowledgement of a device-side record (03 R69). -/
def acknowledge (st : StrandId) (status handle : Nat) (s : State) : State :=
  let w := BitVec.ofNat 32 (status * 2 ^ 30 + (if status = 0 then handle else 0))
  if s.work.evicted.any (fun e => e.strands.contains st) then
    { s with work := { s.work with heldAcks := s.work.heldAcks ++ [(st, w)] } }
  else modStrand st (fun x => { x with acks := x.acks ++ [w] }) s

/-! ### Completion (03 R65) -/

/-- A sync object: an offset in the die scratchpad of the master's die (03 R59; 15 R388). DESIGN CHOICE: an offset beyond the
64 MiB of that scratchpad is not rejected and reaches the next die's (log 88). -/
def syncAddr (s : State) (off : Nat) : Nat := 0x70000000000 + s.work.master * 0x4000000 + off

/-- One added to a sync object, as an atomic with release at `sys` (03 R65). -/
def addSync (off : Nat) (s : State) : State :=
  if off = 0 then s
  else
    let a := syncAddr s off
    poke a (leBytes 8 ((memNat s.mem.bytes a 8 + 1) % 2 ^ 64)) s

/-- The blocks of a launch that were lost with dies. -/
def Launch.lostBlocks (l : Launch) : Nat := l.lost.foldl (fun n x => n + (x.2.2 - x.2.1)) 0

/-- Whether some block of a launch is still to be placed. -/
def Launch.unplaced (l : Launch) : Bool :=
  l.free.any (fun p => decide (p.1 < p.2)) || l.runs.any (fun r => decide (r.lo < r.hi))

/-- Whether stores of a launch are outstanding. -/
def launchOwes (s : State) (handle : Nat) : Bool :=
  s.mem.ops.any (fun o => o.owner.handle == handle && (o.gate || o.windowed || o.accs.any Access.unperformed))
    || s.engines.nears.any (fun c => c.owner.handle == handle)
    || s.engines.copies.any (fun c => c.owner.handle == handle && (!c.unacked.isEmpty || (c.handed.isNone && c.failure.isNone)))
    || s.mem.staged.any (fun p => p.2.owers.any (fun id => id.handle == handle))

/-- Whether a launch has completed: every block and control program has ended and every store is settled, and the error log
holds no record of its lost work back (15 R372, R373). -/
def launchOver (s : State) (l : Launch) : Bool :=
  !l.unplaced && decide (l.record.blocks ≤ l.ended + l.lostBlocks)
    && s.work.blocks.all (fun b => b.handle != l.handle)
    && (strandsOf s).all (fun st => st.who.id.handle != l.handle)
    && s.engines.controls.all (fun p => (match p.2.running with
        | some id => id.handle != l.handle
        | none => true))
    && s.work.regions.all (fun r => r.handle != l.handle || (match r.context with
        | some c => (controlAt s (ctlKey r.quad c)).queue.isEmpty
        | none => true))
    && !launchOwes s l.handle
    && (s.failure.logHeld ++ s.failure.logLater).all (fun r => r.event != 10 || r.arg.toNat != l.handle)
    && decide (s.failure.logHeld.length < 4096)

/-- The graphs and replays after a replay has ended: copies removed and replaced whose replays have completed (03 R77). -/
def settleGraphs (s : State) : State :=
  let busy := fun (g : Graph) => s.work.replays.any (fun r => r.addr == g.addr && r.context == g.context)
  let same := fun (g h : Graph) => g.addr == h.addr && g.context == h.context
  let gs := s.work.graphs.filter (fun g =>
    busy g || g.pending || !(g.removing || s.work.graphs.any (fun h => h.pending && same g h)))
  let gs := gs.map (fun g => if g.pending && !busy g then { g with pending := false } else g)
  { s with work := { s.work with graphs := gs } }

/-- A node of a replay has completed; with the last one the replay completes (03 R77). -/
def replayNodeDone (handle node : Nat) (s : State) : State :=
  let s := { s with work := { s.work with replays := s.work.replays.map (fun (r : Replay) =>
    if r.handle == handle then { r with done := node :: r.done } else r) } }
  match s.work.replays.find? (fun r => r.handle == handle) with
  | none => s
  | some r =>
    if r.done.length < r.params.length then s
    else settleGraphs (addSync r.sync { s with work := { s.work with
      replays := s.work.replays.filter (fun x => x.handle != handle) } })

/-- `LAUNCH_COMPLETE` (03 R65): what the launch held is free again, and its SYNC object is incremented. -/
def execLaunchComplete (handle : Nat) (s : State) : Out :=
  match findLaunch s handle with
  | none => .next s
  | some l =>
    if !launchOver s l then .next s
    else
      let s := { s with work := { s.work with
        launches := s.work.launches.filter (fun x => x.handle != handle),
        regions := s.work.regions.filter (fun r => r.handle != handle),
        gangs := s.work.gangs.filter (fun g => g.handle != handle) } }
      let s := addSync l.record.sync s
      match l.replay with
      | some (rep, node) => .next (replayNodeDone rep node s)
      | none => .next s

end Sys2Proof.Machine
end

