-- ==== Sys2Proof/Machine/Place.lean ====
section
/-! DEFINITION. Ranges, distributors, placement of blocks and control programs, and the acceptance of records (02 R22, R23,
R26, R27, R58; 03 R68–R71, R78–R81; 15 R403; 16 R411). -/

namespace Sys2Proof.Machine

/-! ### Room (02 R26, 03 R80) -/

/-- The record of a launch; a launch that is not running takes nothing. -/
def recordOfHandle (s : State) (handle : Nat) : Option Record := (findLaunch s handle).map (fun l => l.record)

/-- The strands resident on a lane of a core. -/
def residents (s : State) (core lane : Nat) : List Strand :=
  (strandsOf s).filter (fun st => match st.place with
    | .vec c l _ => c == core && l == lane
    | _ => false)

/-- Free strand slots of a lane. -/
def freeSlots (s : State) (core lane : Nat) : Nat := 8 - (residents s core lane).length

/-- How many more strands of a record a lane takes. -/
def laneRoom (s : State) (r : Record) (core lane : Nat) : Nat :=
  let l := residents s core lane
  let sum := fun (f : Record → Nat) => l.foldl (fun n st => n + (match recordOfHandle s st.who.id.handle with
    | some x => f x
    | none => 0)) 0
  min (min (8 - l.length) ((384 - sum (fun x => x.gmax)) / max 1 r.gmax))
    (min ((512 - sum (fun x => x.vmax)) / max 1 r.vmax) ((8192 - sum Record.slice) / max 1 r.slice))

/-- The lanes of a core. -/
def laneNos : List Nat := List.range 128

/-- Free strand slots of a core. -/
def coreSlots (s : State) (core : Nat) : Nat := laneNos.foldl (fun n l => n + freeSlots s core l) 0

/-- Scratchpad bytes of a core in use: its blocks, and a quarter of each quad memory of its quad. -/
def scratchUsed (s : State) (core : Nat) : Nat :=
  (s.work.blocks.filter (fun b => b.core == core)).foldl (fun n b => n + b.size) 0
    + (s.work.regions.filter (fun r => r.quad == core / 4)).foldl (fun n r => n + r.size / 4) 0

/-- The cores of a quad. -/
def coresOf (quad : Nat) : List Nat := (List.range 4).map (fun i => quad * 4 + i)

/-- The quads of a die. -/
def quadsOf (die : Nat) : List Nat := (List.range 4).map (fun i => die * 4 + i)

/-- A quad's lowest free control context (03 R81). DESIGN CHOICE: a launch keeps its context until it completes, also past the
exit of its control program (log 88). -/
def freeContext (s : State) (quad : Nat) : Option Nat :=
  (List.range 4).find? (fun c => s.work.regions.all (fun r => !(r.quad == quad && r.context == some c))
    && (controlAt s (ctlKey quad c)).running.isNone && (controlAt s (ctlKey quad c)).queue.isEmpty)

/-- Whether a launch's quad memory can be opened on a quad: room in its four scratchpads, beside `extra` bytes on one
core, and a free context for a control program. -/
def quadFits (s : State) (r : Record) (quad core extra : Nat) : Bool :=
  (coresOf quad).all (fun c => decide (scratchUsed s c + r.quadMem / 4 + (if c = core then extra else 0) ≤ 2 ^ 22))
    && (!r.ctrl || (freeContext s quad).isSome)

/-- Whether a block of a launch fits on a core (03 R80, R81). -/
def blockFits (s : State) (l : Launch) (twin : Bool) (core : Nat) : Bool :=
  let r := l.record
  decide (r.strands ≤ laneNos.foldl (fun n lane => n + laneRoom s r core lane) 0)
    && (if (regionOf s l.handle (core / 4) twin).isSome then decide (scratchUsed s core + r.scratch ≤ 2 ^ 22)
        else quadFits s r (core / 4) core r.scratch)

/-- The best of a list by a greatest score, the first on ties. -/
def best (score : Nat → Nat) (l : List Nat) : Option Nat := minBy (fun x => 2 ^ 32 - score x) l

/-! ### Entering (02 R23, R27; 03 R80, R81) -/

/-- The lowest place for a region that no block or quad memory of a quad has. -/
def freeBase (s : State) (quad : Nat) : Nat :=
  let used := (s.work.blocks.filter (fun b => b.core / 4 == quad)).map (fun b => b.base / 2 ^ 22)
    ++ (s.work.regions.filter (fun r => r.quad == quad)).map (fun r => r.base / 2 ^ 22)
  ((List.range (used.length + 1)).find? (fun i => !used.contains i)).getD 0 * 2 ^ 22

/-- A strand enters residency with the next age. -/
def enter (st : Strand) (s : State) : State :=
  let st := { st with age := s.work.ageCount }
  let s := { s with work := { s.work with ageCount := s.work.ageCount + 1 } }
  if s.me.here then { s with others := insertBy (fun x => x.age) st s.others } else { s with me := st }

/-- The index that marks a secondary twin (16 R411). -/
def twinMark (twin : Bool) : Nat := if twin then 2 ^ 40 else 0

/-- The identity of a control program (02 R23, R430). -/
def controlIdentity (l : Launch) (home : Nat) (twin : Bool) : Identity :=
  let r := l.record
  { id := ⟨l.handle, 0xFFFF0000 + home + twinMark twin⟩, context := l.context, sid := 0, blockX := 0, blockY := 0,
    blockZ := 0, blockIdx := 0, gridX := BitVec.ofNat 32 r.gx, gridY := BitVec.ofNat 32 r.gy,
    gridZ := BitVec.ofNat 32 r.gz, nstrands := BitVec.ofNat 32 r.strands, params := r.params, twin := twin }

/-- The identity of strand `sid` of a block (02 R23; 03 R63). -/
def strandIdentity (l : Launch) (n sid : Nat) (twin : Bool) : Identity :=
  let r := l.record
  { id := ⟨l.handle, n * r.strands + sid + twinMark twin⟩, context := l.context, sid := sid,
    blockX := BitVec.ofNat 32 (n % r.gx), blockY := BitVec.ofNat 32 (n / r.gx % r.gy),
    blockZ := BitVec.ofNat 32 (n / (r.gx * r.gy)), blockIdx := n, gridX := BitVec.ofNat 32 r.gx,
    gridY := BitVec.ofNat 32 r.gy, gridZ := BitVec.ofNat 32 r.gz, nstrands := BitVec.ofNat 32 r.strands,
    params := r.params, twin := twin }

/-- A control program as it starts: V = G = 64 and role 0 (02 R27). -/
def controlStrand (l : Launch) (quad c home : Nat) (twin : Bool) : Strand :=
  { Strand.entry (controlIdentity l home twin) (.ctl quad c) 64 64 (posAddr l.record.centry) with
    prio := BitVec.ofNat 32 l.record.prio }

/-- A strand as it enters its starting role (02 R45, 03 R60). -/
def roleStrand (l : Launch) (who : Identity) (place : Place) : Strand :=
  let x := (l.roles[l.record.irole]?).getD ⟨posAddr l.record.kentry, l.record.vmax, l.record.gmax, l.record.prio⟩
  { Strand.entry who place x.v x.g x.entry with
    role := BitVec.ofNat 32 l.record.irole, prio := BitVec.ofNat 32 x.cls, laneSize := l.record.laneMem }

/-- A launch's quad memory opened on a quad, with its control program (03 R80, R81). -/
def openQuad (l : Launch) (quad home : Nat) (twin : Bool) (s : State) : State :=
  let c := if l.record.ctrl then freeContext s quad else none
  let region : QuadRegion := { handle := l.handle, quad := quad, twin := twin, home := home, base := freeBase s quad,
                               size := l.record.quadMem, context := c, orig := quad }
  let s := { s with work := { s.work with regions := s.work.regions ++ [region] } }
  match c with
  | none => s
  | some c =>
    let st := controlStrand l quad c home twin
    enter st (setControl (ctlKey quad c) { Control.start with running := some st.who.id } s)

/-- Split-table entries in use on a lane of a core (02 R26). -/
def laneEntries (s : State) (core lane : Nat) : Nat := (residents s core lane).foldl (fun n st => n + st.entries) 0

/-- The lane that takes the next strand: the one with the most free slots among those with room, for a restored strand also in
their split table (02 R26, 03 R80). -/
def chooseLane (s : State) (r : Record) (core entries : Nat) : Option Nat :=
  best (freeSlots s core) (laneNos.filter (fun l =>
    laneRoom s r core l != 0 && (entries == 0 || decide (laneEntries s core l + entries ≤ 64))))

/-- The lowest free slot of a lane. -/
def chooseSlot (s : State) (core lane : Nat) : Nat :=
  let used := (residents s core lane).filterMap (fun st => match st.place with
    | .vec _ _ n => some n
    | _ => none)
  ((List.range 8).find? (fun i => !used.contains i)).getD 0

/-- Strands entering a core one by one in strand order, each on the lane that R80 gives it. -/
def enterAll (l : Launch) (core : Nat) (mk : Nat → Place → Strand) (s : State) : State :=
  (List.range l.record.strands).foldl (fun s sid =>
    match chooseLane s l.record core (mk sid .none).entries with
    | none => s
    | some lane => enter (mk sid (.vec core lane (chooseSlot s core lane))) s) s

/-- A block placed on a core that fits it. -/
def putBlock (l : Launch) (core home n : Nat) (twin : Bool) (mk : Nat → Place → Strand) (blk : Block → Block) (s : State) :
    State :=
  let quad := core / 4
  let s := if (regionOf s l.handle quad twin).isSome then s else openQuad l quad home twin s
  let b : Block := { handle := l.handle, idx := n, twin := twin, core := core, base := freeBase s quad,
                     size := l.record.scratch, bars := Vector.replicate 16 ⟨0, 0, false, false⟩, abandoned := false,
                     strands := l.record.strands }
  enterAll l core mk { s with work := { s.work with blocks := s.work.blocks ++ [blk b] } }

/-- The core that takes a block among some: the one with the most free strand slots of those that fit (03 R80). -/
def chooseCore (s : State) (l : Launch) (twin : Bool) (cores : List Nat) : Option Nat :=
  best (coreSlots s) (cores.filter (blockFits s l twin))

/-- Where the primary twin of a block runs; 0 for a launch without twins. -/
def homeOf (s : State) (l : Launch) (n : Nat) : Nat :=
  match s.work.blocks.find? (fun b => b.handle == l.handle && b.idx == n && !b.twin) with
  | some b => b.core / 4
  | none => 0

/-- A block placed whole, or none when it does not fit on any of the cores (03 R80). -/
def placeBlock (l : Launch) (twin : Bool) (cores : List Nat) (n : Nat) (s : State) : Option State :=
  (chooseCore s l twin cores).map (fun core =>
    putBlock l core (if twin then homeOf s l n else core / 4) n twin
      (fun sid p => roleStrand l (strandIdentity l n sid twin) p) id s)

/-- Blocks placed in ascending index, all or none. -/
def placeBlocks (l : Launch) (twin : Bool) (cores : List Nat) : List Nat → State → Option State
  | [], s => some s
  | n :: r, s => (placeBlock l twin cores n s).bind (placeBlocks l twin cores r)

/-- The cores of quads. -/
def quadCores (quads : List Nat) : List Nat := quads.flatMap coresOf

/-- Free strand slots of a quad. -/
def quadSlots (s : State) (q : Nat) : Nat := (coresOf q).foldl (fun n c => n + coreSlots s c) 0

/-- A quad gang placed on one quad: the one with the most free strand slots among those where all its blocks fit. -/
def placeOnQuad (l : Launch) (twin : Bool) (quads : List Nat) (ns : List Nat) (s : State) : Option State :=
  let fits := quads.filter (fun q => (placeBlocks l twin (coresOf q) ns s).isSome)
  (best (quadSlots s) fits).bind (fun q => placeBlocks l twin (coresOf q) ns s)

/-- Consecutive indices of one gang kept together. -/
def pieces (g : Nat) : List Nat → List (List Nat)
  | [] => []
  | n :: r =>
    match pieces g r with
    | (m :: p) :: q => if n / g = m / g then (n :: m :: p) :: q else [n] :: (m :: p) :: q
    | q => [n] :: q

/-- Groups of blocks placed one after another, all or none. -/
def placeEach (f : List Nat → State → Option State) : List (List Nat) → State → Option State
  | [], s => some s
  | x :: r, s => (f x s).bind (placeEach f r)

/-- Blocks placed on quads: each quad gang whole on one quad, other blocks one by one. -/
def placeGroup (l : Launch) (twin : Bool) (quads : List Nat) (ns : List Nat) (s : State) : Option State :=
  if l.record.gq = 0 then placeBlocks l twin (quadCores quads) ns s
  else placeEach (placeOnQuad l twin quads) (pieces l.record.gq ns) s

/-- The quads on which secondary twins of primaries on quad `home` may run: where control programs, quad gangs or QBOUND
tie the twins of a quad together, one quad only (16 R411; log 19). -/
def twinQuads (s : State) (l : Launch) (home : Nat) (quads : List Nat) : List Nat :=
  if l.record.ctrl || l.record.qbound || l.record.gq != 0 then
    match s.work.regions.find? (fun r => r.handle == l.handle && r.twin && r.home == home) with
    | some r => quads.filter (fun q => q == r.quad)
    | none => quads.filter (fun q => (regionOf s l.handle q true).isNone)
  else quads

/-- Secondary twins of blocks on one die. -/
def placeTwins (l : Launch) (die : Nat) (ns : List Nat) (s : State) : Option State :=
  placeEach (fun xs s => placeGroup l true (twinQuads s l (homeOf s l (xs.headD 0)) (quadsOf die)) xs s)
    (if l.record.gq = 0 then ns.map (fun n => [n]) else pieces l.record.gq ns) s

/-- A group placed on a die, with its secondary twins on die d + 8 or the next one with room; both or neither (16 R411). -/
def placeOnDie (l : Launch) (die : Nat) (quads : List Nat) (ns : List Nat) (s : State) : Option State :=
  match placeGroup l false quads ns s with
  | none => none
  | some s' =>
    if !l.record.pair then some s'
    else
      (((List.range 16).map (fun i => (die + 8 + i) % 16)).filter (fun d => d != die && !s.failure.fencedDies.contains d)).findSome?
        (fun d => placeTwins l d ns s')

/-- The quads that a group of a range may use: without QBOUND all of the die; with it the range's quad, or, for its first
group, one where the whole group fits: for quad gangs the one with the most free strand slots, else the one of the core
that R80 chooses (03 R80; log 68). -/
def rangeQuads (s : State) (l : Launch) (die : Nat) (fixed : Option Nat) (ns : List Nat) : List Nat :=
  if !l.record.qbound then quadsOf die
  else match fixed with
    | some q => [q]
    | none =>
      let fits := (quadsOf die).filter (fun q => (placeGroup l false [q] ns s).isSome)
      let q := if l.record.gq = 0 then (chooseCore s l false (quadCores fits)).map (fun c => c / 4) else best (quadSlots s) fits
      q.toList

/-! ### Ranges (03 R78, R79) -/

/-- A launch changed. -/
def modLaunch (handle : Nat) (f : Launch → Launch) (s : State) : State :=
  { s with work := { s.work with launches := modFirst (fun l => l.handle == handle) f s.work.launches } }

/-- The deputy's mirror brought up to date (15 R387). -/
def updateMirror (s : State) : State :=
  { s with work := { s.work with mirror := s.work.launches.map (fun l => (l.handle, l.free, l.runs)) } }

/-- The indices that a die's range of a launch still holds. -/
def runIndices (l : Launch) (die : Nat) : List Nat :=
  (l.runs.filter (fun r => r.die == die)).flatMap (fun r => (List.range (r.hi - r.lo)).map (fun i => r.lo + i))

/-- Their number. -/
def remaining (l : Launch) (die : Nat) : Nat :=
  (l.runs.filter (fun r => r.die == die)).foldl (fun n r => n + (r.hi - r.lo)) 0

/-- The index after the first `n` of some runs in ascending order; none when they hold no more. -/
def afterFirst (n : Nat) : List (Nat × Nat) → Option Nat
  | [] => none
  | (lo, hi) :: r => if lo + n < hi then some (lo + n) else afterFirst (n - (hi - lo)) r

/-- Runs cut at the gang boundary at or below an index: what lies below it, and what does not; with no index all lies below. -/
def cutRuns (unit : Nat) (at_ : Option Nat) (l : List (Nat × Nat)) : List (Nat × Nat) × List (Nat × Nat) :=
  match at_ with
  | none => (l, [])
  | some i =>
    let cut := i / unit * unit
    ((l.map (fun p => (p.1, min p.2 cut))).filter (fun p => decide (p.1 < p.2)),
     (l.map (fun p => (max p.1 cut, p.2))).filter (fun p => decide (p.1 < p.2)))

/-- The runs of a die's range, as pairs. -/
def Launch.runsOf (l : Launch) (die : Nat) : List (Nat × Nat) :=
  (l.runs.filter (fun r => r.die == die)).map (fun r => (r.lo, r.hi))

/-- The unassigned index space of a launch. -/
def Launch.space (l : Launch) : List (Nat × Nat) := l.free.filter (fun p => decide (p.1 < p.2))

/-- The range that the master gives a die that holds none of a launch: the next `u` indices of the unassigned space, cut so
that it holds whole gangs (03 R78). -/
def requestRange (die : Nat) (l : Launch) (s : State) : Option State :=
  if l.record.gp || remaining l die != 0 || !(liveDies s).contains die || !accepting s || l.space.isEmpty then none
  else
    let x := cutRuns l.record.gang (afterFirst (max 64 l.record.gang) l.space) l.space
    some (updateMirror (modLaunch l.handle (fun l => { l with
      free := x.2, runs := l.runs.filter (fun r => r.die != die) ++ x.1.map (fun p => ⟨die, p.1, p.2, none⟩) }) s))

/-- `RANGE_REQUEST` (03 R78): a die without a range of a launch takes the next one from the master. -/
def execRangeRequest (die handle : Nat) (s : State) : Out :=
  .next (((findLaunch s handle).bind (fun l => requestRange die l s)).getD s)

/-- What an idle die steals of a launch whose space is all assigned: the highest k indices of the fullest range (03 R79); k is
whole gangs, and where the range ends in a part of a gang the cut is moved down to that of a gang, since no gang is
split (log 68). -/
def stealRange (die : Nat) (l : Launch) (s : State) : Option State :=
  let unit := l.record.unit
  if l.record.gp || remaining l die != 0 || !(liveDies s).contains die || !l.space.isEmpty then none
  else match best (fun e => remaining l e) ((liveDies s).filter (fun e => e != die && remaining l e != 0)) with
    | none => none
    | some v =>
      let rem := remaining l v
      if rem < 2 * unit then none
      else
        let x := cutRuns l.record.gang (afterFirst (rem - rem / (2 * unit) * unit) (l.runsOf v)) (l.runsOf v)
        let quad := (l.runs.find? (fun r => r.die == v)).bind (fun r => r.quad)
        some (updateMirror (modLaunch l.handle (fun l => { l with
          runs := l.runs.filter (fun r => r.die != v && r.die != die) ++ x.1.map (fun p => ⟨v, p.1, p.2, quad⟩)
            ++ x.2.map (fun p => ⟨die, p.1, p.2, none⟩) }) s))

/-- `RANGE_STEAL` (03 R79): an idle die takes the highest indices of the fullest range, whole gangs of them. -/
def execRangeSteal (die handle : Nat) (s : State) : Out :=
  .next (((findLaunch s handle).bind (fun l => stealRange die l s)).getD s)

/-! ### `BLOCK_PLACE` (03 R71, R79–R81) -/

/-- A launch's placement order: its class, then its acceptance (03 R71). -/
def placeOrder (l : Launch) : Nat := l.record.prio * 2 ^ 40 + l.order

/-- The next group of a die's range: the indices of its first gang. -/
def nextGroup (l : Launch) (die : Nat) : List Nat :=
  match runIndices l die with
  | [] => []
  | n :: r => n :: r.filter (fun m => l.record.gang != 1 && m / l.record.gang == n / l.record.gang)

/-- Indices taken out of a die's range, which keeps its quad under QBOUND. -/
def takePlaced (handle die : Nat) (ns : List Nat) (quad : Option Nat) (s : State) : State :=
  modLaunch handle (fun l => { l with
    runs := (l.runs.map (fun r => if r.die = die then
        { r with lo := r.lo + (ns.filter (fun n => decide (r.lo ≤ n) && decide (n < r.hi))).length, quad := quad }
      else r)).filter (fun r => decide (r.lo < r.hi)) }) s

/-- The next group of a die's range of a launch placed, if it fits. -/
def placeHeld (die : Nat) (l : Launch) (s : State) : Option State :=
  match nextGroup l die with
  | [] => none
  | ns =>
    let fixed := (l.runs.find? (fun r => r.die == die)).bind (fun r => r.quad)
    let quads := rangeQuads s l die fixed ns
    (placeOnDie l die quads ns s).map (fun s =>
      updateMirror (takePlaced l.handle die ns (if l.record.qbound then quads.head? else none) s))

/-- The next group of a launch placed on a die, if it fits: of the range that the die holds, or of the one that it takes from
the master or steals for it (03 R71, R78, R79; log 68). -/
def placeNext (l : Launch) (die : Nat) (s : State) : Option State :=
  if remaining l die != 0 then placeHeld die l s
  else
    ((requestRange die l s).orElse (fun _ => stealRange die l s)).bind (fun s =>
      (findLaunch s l.handle).bind (fun l => placeHeld die l s))

/-- As many groups of a package gang on a die as fit, up to 64 blocks, one range of it, which with QBOUND keeps to one quad;
what is left (03 R78–R80). -/
def fillDie (l : Launch) (die : Nat) : Nat → Option Nat → List Nat → State → List Nat × State
  | 0, _, ns, s => (ns, s)
  | _, _, [], s => ([], s)
  | n + 1, fixed, m :: r, s =>
    let g := m :: r.filter (fun x => l.record.gang != 1 && x / l.record.gang == m / l.record.gang)
    let quads := rangeQuads s l die fixed g
    match placeOnDie l die quads g s with
    | none => (m :: r, s)
    | some s' =>
      fillDie l die (n + 1 - g.length) (if l.record.qbound then quads.head? else none) (r.filter (fun x => !g.contains x)) s'

/-- Rounds over the dies until every block of a package gang is placed. -/
def fillDies (l : Launch) (dies : List Nat) : Nat → List Nat → State → Option State
  | 0, ns, s => if ns.isEmpty then some s else none
  | n + 1, ns, s =>
    if ns.isEmpty then some s
    else
      let x := dies.foldl (fun (p : List Nat × State) d => fillDie l d (max 64 l.record.gang) none p.1 p.2) (ns, s)
      if x.1.length = ns.length then none else fillDies l dies n x.1 x.2

/-- A package gang placed whole (03 R79). -/
def placePackage (l : Launch) (s : State) : Option State :=
  let ns := l.space.flatMap (fun p => (List.range (p.2 - p.1)).map (fun i => p.1 + i))
  (fillDies l (liveDies s) (ns.length + 1) ns s).map (fun s =>
    updateMirror (modLaunch l.handle (fun l => { l with free := [] }) s))

/-- Whether every block of a package gang can be resident now (03 R79). -/
def packageFits (s : State) (r : Record) : Bool :=
  let s' := acceptLaunch r [] 0 none s
  match s'.work.launches.getLast? with
  | none => false
  | some l => (placePackage l s').isSome

/-- The machine with nothing resident on its dies. -/
def vacated (s : State) : State :=
  { s with me := { s.me with place := .none }, others := []
           work := { s.work with launches := [], blocks := [], regions := [] }
           engines := { s.engines with controls := [] } }

/-- The checks of R64, with the last of them: a package gang must fit on the package with nothing else resident, gangs within it
whole. -/
def checkLaunch (s : State) (ctx : Nat) (ws : List Word) : Option (Record × List RoleRec) :=
  (checkRecord s ctx ws).filter (fun x => !x.1.gp || packageFits (vacated s) x.1)

/-- `BLOCK_PLACE` (03 R71, R80): the first launch in order of class and acceptance whose next blocks fit on the die has
them placed. -/
def execBlockPlace (die : Nat) (s : State) : Out :=
  if !(liveDies s).contains die || !accepting s then .next s
  else
    let tries := (sortBy placeOrder s.work.launches).findSome? (fun l =>
      if l.record.gp && !l.space.isEmpty then placePackage l s else placeNext l die s)
    .next (tries.getD s)

/-! ### Records taken (03 R68–R70; 15 R403) -/

/-- What becomes of a record taken: its status (0 accepted, 1 rejected), or none when it must wait: a graph record for its
operation, a package gang until every block of it can be resident (03 R79). -/
def takeIn (ctx : Nat) (ws : List Word) (s : State) : Option (Nat × State) :=
  if isGraphRecord ws then
    if graphRecBad ws then some (1, s)
    else none
  else match checkLaunch s ctx ws with
    | none => some (1, s)
    | some (r, roles) =>
      if r.gp && !packageFits s r then none else some (0, acceptLaunch r roles ctx none s)

/-- A record of a queue used: accepted, rejected, set aside for a graph operation, or left until it can be, as while its role table is
fetched from a lender (11 R322). -/
def useRecord (q : Nat) (ws : List Word) (s : State) : State :=
  let ctx := (vget s.kernel.qctx q 0).toNat % 256
  match cpAsk s ctx (recordRanges ws) with
  | some s' => s'
  | none =>
    match takeIn ctx ws s with
    | some (0, s') => updateMirror (takeSlot q 0 (cpDone s'))
    | some (_, s') => takeSlot q 1 (cpDone s')
    | none => if isGraphRecord ws then setAside (.queue q) ctx ws s else s

/-- `LAUNCH_RECORD_ACCEPT` (03 R68, R70): the next queue in turn has its head record taken; a torn one is read again. -/
def execLaunchRecordAccept (s : State) : Out :=
  if !accepting s then .next s
  else match nextQueue s with
    | none => .next s
    | some q =>
      let x := queueAt s q
      let s := { s with work := { s.work with rr := (q + 1) % 16 } }
      match readSlot s x with
      | none => .next (takeSlot q 1 s)
      | some ws =>
        if rw ws 0 ≠ rw ws 15 then .next (setQueue q { x with rereads := 1, nextRead := s.tick + 4000 } s)
        else .next (useRecord q ws s)

/-- The report of a torn record (14 R368). -/
def tornEntry (q : Nat) (slot : Nat) : FaultEntry :=
  { cause := causeCode .tornLaunch, detail := 0, flags := BitVec.ofNat 32 (2 ^ 21), handle := 0, strand := 0, whereW := 0,
    tmask := 0, epc := 0, addr := BitVec.ofNat 64 slot, arg := BitVec.ofNat 64 q, func := 0, parks := none,
    em := .zero, disp := none }

/-- `TORN_REREAD` (15 R403): every 4,000 ticks, 16 times at most; then the slot is reported and skipped. -/
def execTornReread (q : QNo) (s : State) : Out :=
  let x := queueAt s q.toNat
  if x.rereads = 0 || s.tick.toNat < x.nextRead.toNat || !accepting s then .next s
  else
    let torn := if x.rereads < 16 then setQueue q.toNat { x with rereads := x.rereads + 1, nextRead := s.tick + 4000 } s
                else writeFault (tornEntry q.toNat (slotAddr x)) (takeSlot q.toNat 2 s)
    match readSlot s x with
    | none => .next torn
    | some ws =>
      if rw ws 0 = rw ws 15 && rw ws 0 != 0 then
        .next (useRecord q.toNat ws (setQueue q.toNat { x with rereads := 0, nextRead := 0 } s))
      else .next torn

/-- `DEVICE_LAUNCH` (03 R69): the oldest record of a strand is checked and acknowledged. -/
def execDeviceLaunch (st : StrandId) (s : State) : Out :=
  if !accepting s || s.work.graphRecs.any (fun g => g.source == .strand st) then .next s
  else match s.work.device.find? (fun d => d.owner == st) with
    | none => .next s
    | some d =>
      let rest := { s with work := { s.work with device := dropFirst (fun d => d.owner == st) s.work.device } }
      if rw d.words 0 ≠ rw d.words 15 then .next (acknowledge st 2 0 rest)
      else match cpAsk s d.context (recordRanges d.words) with
      | some s' => .next s'
      | none =>
        match takeIn d.context d.words rest with
        | some (0, s') => .next (acknowledge st 0 s'.work.lastHandle (updateMirror (cpDone s')))
        | some (_, s') => .next (acknowledge st 1 0 (cpDone s'))
        | none => if isGraphRecord d.words then .next (setAside (.strand st) d.context d.words rest) else .next s

end Sys2Proof.Machine
end

