-- ==== Sys2Proof/Machine/Graph.lean ====
section
/-! DEFINITION. Graphs: registering, unregistering and replaying a graph object, and accepting the nodes of a replay (03
R72–R77). -/

namespace Sys2Proof.Machine

/-! ### Reading a graph object (03 R74, R75) -/

/-- The header's fields: whether replays may overlap, and NNODE, NEDGE, PCOUNT, NODES, EDGES, PATCHES. -/
structure GraphHeader where
  overlap : Bool
  nnode : Nat
  nedge : Nat
  pcount : Nat
  nodes : Nat
  edges : Nat
  patches : Nat
  deriving DecidableEq, Repr

/-- A header read and checked. -/
def graphHeader (s : State) (ctx addr : Nat) : Option GraphHeader :=
  match cpReadLong s ctx addr 8 with
  | none => none
  | some bs =>
    let w := fun i => (wordOf bs i).toNat
    let d := fun i => w i + 2 ^ 32 * w (i + 1)
    let bad := w 0 % 2 ^ 16 != 1 || w 0 / 2 ^ 17 != 0 || w 1 == 0 || decide (1024 < w 1) || decide (4096 < w 2)
      || decide (256 < w 3) || d 4 % 64 != 0 || d 6 % 32 != 0 || d 8 % 16 != 0 || (w 3 == 0 && d 8 != 0)
      || w 11 != 0 || w 12 != 0 || w 13 != 0 || w 14 != 0 || w 15 != 0
    if bad then none else some ⟨bit (w 0) 16, w 1, w 2, w 3, d 4, d 6, d 8⟩

/-- All results of a list, or none. -/
def allSome {α : Type} : List (Option α) → Option (List α)
  | [] => some []
  | some x :: r => (allSome r).map (fun l => x :: l)
  | none :: _ => none

/-- A buffer entry read and checked: address, length, flush, invalidate. -/
def bufferEntry (bs : List Byte) : Option (Nat × Nat × Bool × Bool) :=
  let a := leNat (bs.take 8)
  let b := leNat (bs.drop 8)
  if a / 2 ^ 52 != 0 || field b 61 52 != 0 || b % 2 ^ 52 == 0 || b / 2 ^ 62 == 0 then none
  else some (a, b % 2 ^ 52, bit b 62, bit b 63)

/-- An edge record with its buffer list read and checked. -/
def edgeRecord (s : State) (ctx nnode at_ : Nat) : Option Edge :=
  match cpReadLong s ctx at_ 4 with
  | none => none
  | some bs =>
    let w := fun i => (wordOf bs i).toNat
    let bufs := w 4 + 2 ^ 32 * w 5
    let bad := decide (nnode ≤ w 0) || decide (nnode ≤ w 1) || w 0 == w 1 || decide (16 < w 2) || w 3 != 0
      || bufs % 16 != 0 || (w 2 == 0 && bufs != 0) || w 6 != 0 || w 7 != 0
    if bad then none
    else match cpReadLong s ctx bufs (2 * w 2) with
      | none => none
      | some l =>
        (allSome ((List.range (w 2)).map (fun i => bufferEntry ((l.drop (16 * i)).take 16)))).map (fun b =>
          ⟨w 0, w 1, b⟩)

/-- The nodes left once those without an edge from a node left are taken away, time and again. -/
def peel (edges : List Edge) : Nat → List Nat → List Nat
  | 0, l => l
  | n + 1, l => peel edges n (l.filter (fun v => edges.any (fun e => e.dst == v && l.contains e.src)))

/-- Whether the edges form no cycle. -/
def acyclic (nnode : Nat) (edges : List Edge) : Bool := (peel edges nnode (List.range nnode)).isEmpty

/-- A node record read and checked as a launch record (03 R64). -/
def nodeRecord (s : State) (ctx at_ : Nat) : Option (Record × List RoleRec) :=
  match cpReadLong s ctx at_ 8 with
  | none => none
  | some bs =>
    let ws := recordWords bs
    if isGraphRecord ws then none else checkLaunch s ctx ws

/-- A graph object read and checked (03 R77). -/
def readGraph (s : State) (ctx addr : Nat) : Option Graph :=
  match graphHeader s ctx addr with
  | none => none
  | some h =>
    match allSome ((List.range h.nnode).map (fun i => nodeRecord s ctx (h.nodes + 64 * i))),
          allSome ((List.range h.nedge).map (fun i => edgeRecord s ctx h.nnode (h.edges + 32 * i))) with
    | some ns, some es =>
      if acyclic h.nnode es then
        some { addr := addr, context := ctx, overlap := h.overlap, nodes := ns.map (fun x => x.1),
               rolesOf := ns.map (fun x => x.2), edges := es, patches := h.patches, pcount := h.pcount,
               removing := false, pending := false }
      else none
    | _, _ => none

/-- The records of an object that a register reads after its header (03 R74). -/
def graphRecords (s : State) (ctx addr : Nat) : List (Nat × Nat) :=
  match graphHeader s ctx addr with
  | none => []
  | some h => [(h.nodes, 64 * h.nnode), (h.edges, 32 * h.nedge)]

/-- The buffer lists and role tables that it reads then (03 R61, R75). -/
def graphRanges (s : State) (ctx addr : Nat) : List (Nat × Nat) :=
  match graphHeader s ctx addr with
  | none => []
  | some h =>
    (List.range h.nnode).flatMap (fun i => match cpReadLong s ctx (h.nodes + 64 * i) 8 with
        | some bs => recordRanges (recordWords bs)
        | none => [])
      ++ (List.range h.nedge).flatMap (fun i => match cpReadLong s ctx (h.edges + 32 * i) 4 with
        | some bs => [(leNat ((bs.drop 16).take 8), 16 * min 16 (leNat ((bs.drop 8).take 4)))]
        | none => [])

/-! ### Graph records (03 R77) -/

/-- Whether a graph is the copy of an object that new records name. -/
def Graph.named (addr ctx : Nat) (g : Graph) : Bool := g.addr == addr && g.context == ctx && !g.removing

/-- The replays of an object that run. -/
def replaysOf (s : State) (addr ctx : Nat) : List Replay :=
  s.work.replays.filter (fun r => r.addr == addr && r.context == ctx)

/-- A graph record done with: its slot taken, or its acknowledgement given; `reason` 1 rejects it. -/
def finishGraphRec (g : GraphRec) (reason handle : Nat) (s : State) : State :=
  let s := { s with work := { s.work with graphRecs := dropFirst (fun x => x == g) s.work.graphRecs } }
  match g.source with
  | .queue q => takeSlot q reason s
  | .strand st => acknowledge st reason handle s

/-- The number of objects registered. -/
def graphCount (s : State) : Nat :=
  (s.work.graphs.filter (fun g => !(g.pending && s.work.graphs.any (fun h => !h.pending && h.addr == g.addr
    && h.context == g.context)))).length

/-- `GRAPH_REGISTER` (03 R77): the oldest register record has its object checked and copied; the copy of an object with
replays running waits until they have completed (log 67). What lies in staged pages is fetched from its lender first (11 R322). -/
def execGraphRegister (s : State) : Out :=
  match s.work.graphRecs.find? (fun g => g.gop == 1) with
  | none => .next s
  | some g =>
    match (cpAsk s g.context [(g.addr, 64)]).orElse (fun _ => (cpAsk s g.context (graphRecords s g.context g.addr)).orElse
      (fun _ => cpAsk s g.context (graphRanges s g.context g.addr))) with
    | some s' => .next s'
    | none =>
    match readGraph s g.context g.addr with
    | none => .next (finishGraphRec g 1 0 (cpDone s))
    | some x =>
      let s := cpDone s
      let known := s.work.graphs.any (fun h => h.addr == g.addr && h.context == g.context)
      if !known && decide (256 ≤ graphCount s) then .next (finishGraphRec g 1 0 s)
      else
        let busy := !(replaysOf s g.addr g.context).isEmpty
        let keep := s.work.graphs.filter (fun h => !(h.addr == g.addr && h.context == g.context)
          || (busy && !h.pending))
        .next (finishGraphRec g 0 0 { s with work := { s.work with graphs := keep ++ [{ x with pending := busy }] } })

/-- `GRAPH_UNREGISTER` (03 R77): the object's copy goes once its running replays have completed. -/
def execGraphUnregister (s : State) : Out :=
  match s.work.graphRecs.find? (fun g => g.gop == 2) with
  | none => .next s
  | some g =>
    if !s.work.graphs.any (Graph.named g.addr g.context) then .next (finishGraphRec g 1 0 s)
    else
      let gs := (s.work.graphs.filter (fun h => !(h.named g.addr g.context && h.pending))).map (fun h =>
        if h.named g.addr g.context then { h with removing := true } else h)
      .next (finishGraphRec g 0 0 (settleGraphs { s with work := { s.work with graphs := gs } }))

/-! ### Replays (03 R73, R76) -/

/-- An entry of a patch table: VERSION, NODE, PARAMS. -/
def patchEntry (bs : List Byte) (i : Nat) : Nat × Nat × DWord :=
  let e := (bs.drop (16 * i)).take 16
  (leNat (e.take 4), leNat ((e.drop 4).take 4), BitVec.ofNat 64 (leNat (e.drop 8)))

/-- Whether a version is not above another. -/
def notAbove (version v : Nat) : Bool := decide ((v + 2 ^ 32 - version) % 2 ^ 32 < 2 ^ 31)

/-- Whether one entry for a node is preferred to another: the higher version, then one naming the node, then the higher
index. `b` has the higher index. -/
def laterPatch (v : Nat) (a b : Nat × Nat × DWord) : Nat × Nat × DWord :=
  let da := (v + 2 ^ 32 - a.1) % 2 ^ 32
  let db := (v + 2 ^ 32 - b.1) % 2 ^ 32
  if db < da then b
  else if da < db then a
  else if a.2.1 != 0xFFFFFFFF && b.2.1 == 0xFFFFFFFF then a
  else b

/-- The PARAMS of a node under a bound version (03 R76). -/
def nodeParams (patches : List (Nat × Nat × DWord)) (v node : Nat) (own : DWord) : DWord :=
  match patches.filter (fun e => notAbove e.1 v && (e.2.1 == node || e.2.1 == 0xFFFFFFFF)) with
  | [] => own
  | e :: r => (r.foldl (laterPatch v) e).2.2

/-- The parameters that a replay binds: PVER and the whole patch table are read. -/
def bindParams (s : State) (g : Graph) : Option (List DWord) :=
  match cpRead s g.context (g.addr + 0x28) 8, cpReadLong s g.context g.patches (2 * g.pcount) with
  | some pv, some bs =>
    let entries := (List.range g.pcount).map (patchEntry bs)
    some (g.nodes.zipIdx.map (fun p => nodeParams entries (leNat (pv.take 4)) p.2 p.1.params))
  | _, _ => none

/-- Whether a replay of a registered object must wait (03 R73, R77). DESIGN CHOICE: a replay submitted while a re-registered copy
is pending waits for that copy and runs it (log 88). -/
def replayWaits (s : State) (addr ctx : Nat) : Bool :=
  let n := (replaysOf s addr ctx).length
  s.work.graphs.any (fun g => g.named addr ctx && g.pending)
    || (match s.work.graphs.find? (Graph.named addr ctx) with
        | some g => if g.overlap then decide (4 ≤ n) else decide (1 ≤ n)
        | none => false)

/-- A node's record with its bound parameters. -/
def patched (r : Record) (p : DWord) : Record :=
  { r with params := p, words := r.words.take 12 ++ [loW p, hiW p] ++ r.words.drop 14 }

/-- A node of a replay accepted as a launch; a package gang waits until it fits (03 R77, R79). -/
def acceptNode (g : Graph) (handle node : Nat) (s : State) : State :=
  match s.work.replays.find? (fun r => r.handle == handle), g.nodes[node]?, g.rolesOf[node]? with
  | some r, some x, some roles =>
    let x := patched x (r.params.getD node 0)
    if x.gp && !packageFits s x then s
    else
      acceptLaunch x roles g.context (some (handle, node)) { s with work := { s.work with
        replays := s.work.replays.map (fun (q : Replay) =>
          if q.handle == handle then { q with accepted := q.accepted ++ [node] } else q) } }
  | _, _, _ => s

/-- Whether a node has an incoming edge. -/
def hasSource (g : Graph) (node : Nat) : Bool := g.edges.any (fun e => e.dst == node)

/-- A replay accepted: it binds its parameters, and every node without an incoming edge is accepted at once. -/
def startReplay (g : Graph) (params : List DWord) (sync : Nat) (s : State) : State :=
  let h := assignHandle s
  let r : Replay := { handle := h, addr := g.addr, context := g.context, params := params, accepted := [], done := [],
                      sync := sync }
  let s := { s with work := { s.work with replays := s.work.replays ++ [r], lastHandle := h } }
  ((List.range g.nodes.length).filter (fun n => !hasSource g n)).foldl (fun s n => acceptNode g h n s) s

/-- A replay record carried out: rejected, or accepted. DESIGN CHOICE: one whose PVER or patch table cannot be read is rejected
(log 88). -/
def useReplay (g : GraphRec) (s : State) : State :=
  match s.work.graphs.find? (Graph.named g.addr g.context) with
  | none => finishGraphRec g 1 0 s
  | some x =>
    match cpAsk s x.context [(x.addr + 0x28, 8), (x.patches, 16 * x.pcount)] with
    | some s' => s'
    | none =>
    match bindParams s x with
    | none => finishGraphRec g 1 0 (cpDone s)
    | some params =>
      let s' := startReplay x params g.sync (cpDone s)
      let handle := match s'.work.replays.getLast? with
        | some r => r.handle
        | none => 0
      finishGraphRec g 0 handle s'

/-- `GRAPH_REPLAY` (03 R76, R77): the oldest replay record is rejected or accepted, unless it must wait. -/
def execGraphReplay (s : State) : Out :=
  match s.work.graphRecs.find? (fun g => g.gop == 0) with
  | none => .next s
  | some g => if replayWaits s g.addr g.context || !accepting s then .next s else .next (useReplay g s)

/-- `GRAPH_REPLAY_START` (03 R73): a replay record that has been held behind earlier replays is accepted. -/
def execGraphReplayStart (s : State) : Out :=
  match s.work.graphRecs.find? (fun g => g.gop == 0 && !replayWaits s g.addr g.context) with
  | none => .next s
  | some g => if accepting s then .next (useReplay g s) else .next s

/-! ### Edges (03 R72) -/

/-- Whether `n` bytes at a fabric address lie in a range of virtual addresses of a context. -/
def inRange (s : State) (ctx addr len fab n : Nat) : Bool :=
  let first := addr / 65536
  (List.range ((addr + len - 1) / 65536 + 1 - first)).any (fun i =>
    let page := (first + i) * 65536
    match walk s cpAgent ctx page with
    | .leaf l level =>
      let base := leafFrame l + page % levelSize level
      let lo := max addr page
      let hi := min (addr + len) (page + 65536)
      meets fab n (base + (lo - page)) (hi - lo)
    | _ => false)

/-- Whether modified lines of a range are all written back and performed: no store to it is on its way. -/
def flushed (s : State) (ctx addr len : Nat) : Bool :=
  s.mem.ops.all (fun o => o.accs.all (fun a => !((a.state == .waiting || a.state == .applied)
    && (o.what.countsStore && inRange s ctx addr len a.fab a.size))))

/-- The modified lines of a range written back. -/
def flushRange (ctx addr len : Nat) (s : State) : State :=
  { s with mem := { s.mem with modified := s.mem.modified.filter (fun p => !inRange s ctx addr len (pkgNo s * 2 ^ 43 + p.2 * 128) 128) } }

/-- The staged units of a range. -/
def stagedIn (s : State) (ctx addr len : Nat) : List (Nat × Nat) :=
  (s.mem.staged.map (fun p => (p.1 / 2 ^ 23, p.1 % 2 ^ 23))).filter (fun p =>
    inRange s ctx addr len (pkgNo s * 2 ^ 43 + stageAddr s p.1 p.2) 256)

/-- The untracked and staged copies of a range dropped; a dirty unit goes once it is written back. -/
def invalidateRange (ctx addr len : Nat) (s : State) : State :=
  let units := stagedIn s ctx addr len
  let s := { s with mem := { s.mem with copies := s.mem.copies.filter (fun c => !inRange s ctx addr len (c.line * 128) 128) } }
  units.foldl (fun s p => match stagedAt s p.1 p.2 with
    | .clean _ | .fetching _ => dropUnit p.1 p.2 s
    | _ => beginWriteback p.1 p.2 none true s) s

/-- The actions of an edge begun. -/
def edgeActions (ctx : Nat) (e : Edge) (s : State) : State :=
  e.bufs.foldl (fun s b =>
    let s := if b.2.2.1 then flushRange ctx b.1 b.2.1 s else s
    if b.2.2.2 then invalidateRange ctx b.1 b.2.1 s else s) s

/-- Whether the actions of an edge have been carried out. -/
def edgeDone (s : State) (ctx : Nat) (e : Edge) : Bool :=
  e.bufs.all (fun b => (!b.2.2.1 || flushed s ctx b.1 b.2.1) && (!b.2.2.2 || (stagedIn s ctx b.1 b.2.1).isEmpty))

/-- `GRAPH_NODE_ACCEPT` (03 R72): once the sources of a node have completed, the actions of its edges are carried out;
once they are, the node is accepted. -/
def execGraphNodeAccept (replay node : Nat) (s : State) : Out :=
  match s.work.replays.find? (fun r => r.handle == replay) with
  | none => .next s
  | some r =>
    match s.work.graphs.find? (fun g => g.addr == r.addr && g.context == r.context && !g.pending) with
    | none => .next s
    | some g =>
      let inc := g.edges.filter (fun e => e.dst == node)
      if r.accepted.contains node || !inc.all (fun e => r.done.contains e.src) || !accepting s then .next s
      else
        let s := inc.foldl (fun s e => edgeActions r.context e s) s
        if inc.all (edgeDone s r.context) then .next (acceptNode g replay node s) else .next s

end Sys2Proof.Machine
end

