-- ==== Sys2Proof/Machine/Engines.lean ====
section
/-! DEFINITION. Copy engines, their promises and failures, and near-memory commands (03 R84; 09 R275–R282; 11 R322, R323; 15
R376–R379, R400–R402, R426). -/

namespace Sys2Proof.Machine

/-! ### Serving at a home while memory fails (15 R376, R381) -/

/-- Whether a store accepted earlier by a die is still on its way to these bytes: a write of the die stays behind it (10,
accepted stores). -/
def dieHeld (s : State) (die upTo fab n : Nat) : Bool :=
  s.mem.ops.any (fun o => o.die == die && decide (o.id < upTo) && o.what.isStore && !o.windowed
    && o.accs.any (fun a => a.accepted && meets a.fab a.size fab n))

/-! ### Staging frames (11 R322, R323) -/

/-- Bytes of a unit stored into for strands: it is DIRTY. In LOST no unit changes (11 R322). -/
def dirtyUnit (borrow unit : Nat) (offs : List Nat) (owners : List StrandId) (s : State) : State :=
  if (borrowAt s borrow).state == .lost then s
  else match stagedAt s borrow unit with
  | .absent | .fetching _ => s
  | .clean t => setStaged borrow unit (.dirty t offs owners s.tick) s
  | .dirty t m by_ d => setStaged borrow unit (.dirty t (merge m offs) (merge by_ owners) d) s
  | .writing a b t by_ g d => setStaged borrow unit (.writing a (merge b offs) t (merge by_ owners) g d) s

/-- `n` bytes at a fabric address of a staging frame stored into. -/
def dirtyBytes (borrow fab n : Nat) (owners : List StrandId) (s : State) : State :=
  let u := stageUnit s borrow fab
  (List.range ((fab + n - 1) / 256 + 1 - fab / 256)).foldl (fun s i =>
    let base := (fab / 256 + i) * 256
    dirtyUnit borrow (u + i) ((List.range 256).filter (fun j => decide (fab ≤ base + j) && decide (base + j < fab + n)))
      owners s) s

/-! ### Events of `q3` (09 R279) -/

/-- The header of an event. -/
def eventHead (kind : Nat) (t : TileNo) : Word := BitVec.ofNat 32 (kind * 2 ^ 28 + t.toNat)

/-- An event posted to a strand's `q3`; with 32 pairs there it waits. `cmd` is the failed command it reports (log 74). -/
def postEvent (id : StrandId) (kind : Nat) (t : TileNo) (payload : Word) (cmd : Nat) (s : State) : State :=
  let posted := fun (s : State) => { s with engines := { s.engines with
    copies := s.engines.copies.map (fun c => if c.id == cmd && c.failure.isSome then { c with posted := true } else c) } }
  match findStrand s id with
  | none => posted s
  | some st =>
    if st.all.isEmpty then posted s
    else refillEvents id 33 { s with engines := { s.engines with
      eventWait := s.engines.eventWait ++ [(id, eventHead kind t, payload, cmd)] } }

/-! ### Copy commands (09 R276–R278; 15 R400, R401) -/

/-- A command changed. -/
def modCopy (id : Nat) (f : CopyCmd → CopyCmd) (s : State) : State :=
  { s with engines := { s.engines with copies := modFirst (fun c => c.id == id) f s.engines.copies } }

/-- The command of a number. -/
def findCopy (s : State) (id : Nat) : Option CopyCmd := s.engines.copies.find? (fun c => c.id == id)

/-- Whether a command has been taken and still runs. -/
def CopyCmd.running (c : CopyCmd) : Bool := c.engine.isSome && c.handed.isNone && c.failure.isNone

/-- The engines of a die that are busy. -/
def busyEngines (s : State) (die : Nat) : List Nat :=
  s.engines.copies.filterMap (fun c => if c.running && c.quad / 4 == die then c.engine else none)

/-- A promise chosen under the bound of R278: at least 1 and at most 2^24 ticks ahead (log 9). -/
def choosePromise (s : State) : DWord := s.tick + BitVec.ofNat 64 (1 + Config.estimate s.fresh % 2 ^ 24)

/-- The cause of a failure as it is posted: that of the state of the borrow entry that the failing access goes through, when it is
neither ACTIVE nor RENEWING (15 R426). -/
def failureCause (s : State) (entry : Option Nat) (cause : Cause) : Cause :=
  (entry.bind (fun i => leaseCause (borrowAt s i).state)).getD cause

/-- The borrow entry of a far run, if its page is borrowed. -/
def Seg.entry (g : Seg) : Option Nat := if g.kind = 3 || g.kind = 4 then some g.index else none

/-- Free bytes: the `n` bytes that a failed copy leaves undetermined (15 R401, log 10). -/
def freeBytes (s : State) (k n : Nat) : List Byte := (List.range n).map (fun i => Config.undetermined s.fresh (k + i))

/-- The bytes of a command's tile that its failure leaves undetermined: all of a tile that goes back, else those that a GET wrote
(15 R401). -/
def scrambleTile (c : CopyCmd) (all : Bool) (s : State) : State :=
  ((List.range (storageRows c.desc)).filter (fun r => all || (c.op == .get && !c.rows.contains r))).foldl (fun s r =>
    quadWrite c.control (rowOffset c.desc r) (freeBytes s (r * 4096) (rowPayload c.desc)) s) s

/-- Bytes written by an engine on a strand's behalf into a far run: of its own package at once, to another posted (09 R277). -/
def segWrite (c : CopyCmd) (g : Seg) (bs : List Byte) (s : State) : State :=
  if c.space = 2 then
    { s with mem := { s.mem with scratch := memWrite s.mem.scratch g.fab bs } }
  else if !isLocal s g.fab then
    let n := ((findCopy s c.id).map (fun c => c.sent)).getD 0
    let lease := if g.kind = 3 then (borrowAt s g.index).leaseId else 0
    sendAwaited (fabPkg g.fab) (c.quad / 4) g.fab (.engineWrite ⟨0, 0, 0⟩ c.id n g.fab lease bs) (updateCopies (c.quad / 4) g.fab bs
      (lateLoads (c.quad / 4) (fun l => decide (g.fab / 128 ≤ l) && decide (l ≤ (g.fab + bs.length - 1) / 128))
        (modCopy c.id (fun c => { c with sent := n + 1, unacked := c.unacked ++ [(n, fabPkg g.fab, g.entry)] }) s)))
  else
    let x := fabLocal g.fab
    let s := if g.kind = 2 then combineLines x bs.length s else s
    let s := updateCopies (c.quad / 4) g.fab bs (poke x bs (markLines s x bs.length g.direct))
    if g.kind = 4 then dirtyBytes g.index g.fab bs.length [c.owner, tableOwer c.owner.handle c.control] s else s

/-- Pieces of a row's bytes for its runs. -/
def cutFor : List Seg → List Byte → List (Seg × List Byte)
  | [], _ => []
  | g :: r, bs => (g, bs.take g.len) :: cutFor r (bs.drop g.len)

/-- A row written into its far runs. -/
def rowWrite (c : CopyCmd) (row : Nat) (bs : List Byte) (s : State) : State :=
  (cutFor (c.segs.getD row []) bs).foldl (fun s p => segWrite c p.1 p.2 s) s

/-- The far bytes that a failed PUT wrote in this package; those of other packages are not held here. -/
def scrambleFar (c : CopyCmd) (s : State) : State :=
  ((List.range (storageRows c.desc)).filter (fun r => !c.rows.contains r)).foldl (fun s r =>
    (cutFor (c.segs.getD r []) (freeBytes s (r * 4096) (rowPayload c.desc))).foldl (fun s p =>
      if c.space = 2 || isLocal s p.1.fab then segWrite c p.1 p.2 s else s) s) s

/-- A command fails (15 R401): it makes no hand-back of its own, its bytes are undetermined, its event is posted, and a
tile whose return is pending goes back. `entry` is the borrow entry of the access that fails. -/
def failCopy (id : Nat) (entry : Option Nat) (cause : Cause) (s : State) : State :=
  match findCopy s id with
  | none => s
  | some c =>
    if c.handed.isSome || c.failure.isSome then s
    else
      let cause := failureCause s entry cause
      let pending := (tileAt s c.control c.tile).ret
      let s := scrambleTile c pending s
      let s := if c.op == .put then scrambleFar c s else s
      let s := { s with fresh := s.fresh + 1 }
      let s := modCopy id (fun c => { c with failure := some cause, decided := c.decided || c.promise.isNone }) s
      let s := returnIfPending c.control c.tile s
      reap c.owner (pruneCopies (postEvent c.owner 3 c.tile (BitVec.ofNat 32 (causeCode cause)) id s))

/-- What a far run answers. -/
inductive FarState where
  | ready
  | held
  | absent (units : List Nat)
  | failed (c : Cause)
  deriving DecidableEq, Repr

/-- Whether a far run can be read, or written, now (09 R277; 15 R376, R401). -/
def farState (s : State) (c : CopyCmd) (write : Bool) (g : Seg) : FarState :=
  if c.space = 2 then
    if !write && scratchPoisoned s 2 g.fab g.len then .failed .poison else .ready
  else match (if g.kind = 3 || g.kind = 4 then leaseCause (borrowAt s g.index).state else none) with
    | some x => .failed x
    | none =>
      if peekRefused s g.fab g.len || (!isLocal s g.fab && peerMmio g.fab) then .failed .remoteFault
      else if !isLocal s g.fab then (if linkFull s (fabPkg g.fab) then .held else .ready)
      else if (if write then dieHeld s (c.quad / 4) s.mem.nextOp g.fab g.len || writeHeld s (fabLocal g.fab) g.len else homeHeld s (fabLocal g.fab) g.len) then .held
      else if g.kind = 4 && !(absentUnits s g.index g.fab g.len).isEmpty then .absent (absentUnits s g.index g.fab g.len)
      else if !write && poisonedAt s (fabLocal g.fab) g.len then .failed .poison
      else if write && s.failure.fencedDies.any (fun d => zoneOf (isPlain s) (fabLocal g.fab) == .die d) then .failed .poison
      else .ready

/-- A row of a running command moved by `k` once its far runs can be: a run that fails fails the command, and ABSENT
units are fetched first. -/
def moveRow (op : CopyOp) (id row : Nat) (s : State) (k : CopyCmd → State → State) : State :=
  match findCopy s id with
  | none => s
  | some c =>
    if !c.running || c.op != op || !c.rows.contains row then s
    else
      let states := (c.segs.getD row []).map (fun g => (g, farState s c (op == .put) g))
      match states.findSome? (fun p => match p.2 with
          | .failed x => some (p.1, x)
          | _ => none) with
      | some x => failCopy id x.1.entry x.2 s
      | none =>
        let fetches := states.flatMap (fun p => match p.2 with
          | .absent us => us.map (fun u => (p.1.index, u))
          | _ => [])
        if !fetches.isEmpty then fetches.foldl (fun s p => fetchUnit p.1 p.2 s) s
        else if states.any (fun p => p.2 == .held) then s
        else modCopy id (fun c => { c with rows := c.rows.filter (fun r => r != row) }) (k c s)

/-- The bytes of a far run, read at the home; those of another package are free values, asked of it by `askFar`. -/
def segRead (s : State) (c : CopyCmd) (g : Seg) : List Byte :=
  if c.space = 2 then memRead s.mem.scratch g.fab g.len
  else withAccepted s (c.quad / 4) none s.mem.nextOp g.fab (peek s g.fab g.len)

/-- The read of a far run asked of another package, with the LEASEID of a borrowed extent (11 R321); the command waits for the
answer. -/
def askFar (c : CopyCmd) (g : Seg) (s : State) : State :=
  if c.space = 2 || isLocal s g.fab then s
  else
    let n := ((findCopy s c.id).map (fun c => c.sent)).getD 0
    sendAwaited (fabPkg g.fab) (c.quad / 4) g.fab
      (.engineRead ⟨0, 0, 0⟩ c.id n g.fab (if g.kind = 3 then (borrowAt s g.index).leaseId else 0) g.len)
      (modCopy c.id (fun c => { c with sent := n + 1, unacked := c.unacked ++ [(n, fabPkg g.fab, g.entry)] }) s)

/-- `GET` (09 R277): a far row into the tile's storage row. -/
def execGet (cmd row : Nat) (s : State) : Out :=
  .next (moveRow .get cmd row s (fun c s =>
    let segs := c.segs.getD row []
    let s := segs.foldl (fun s g => if g.kind = 2 && isLocal s g.fab then combineLines (fabLocal g.fab) g.len s else s) s
    let s := segs.foldl (fun s g => askFar c g s) s
    quadWrite c.control (rowOffset c.desc row) (segs.flatMap (segRead s c)) { s with fresh := s.fresh + 1 }))

/-- Whether a row of a command's tile is poisoned. -/
def tileRowPoisoned (s : State) (c : CopyCmd) (row : Nat) : Bool :=
  match quadRegionOf s c.control with
  | some r => (List.range (rowPayload c.desc)).any (fun i => scratchPoisoned s 2 (quadByte r (rowOffset c.desc row + i)) 1)
  | none => false

/-- `PUT` (09 R277): the tile's storage row into a far row, as stores. -/
def execPut (cmd row : Nat) (s : State) : Out :=
  match findCopy s cmd with
  | none => .next s
  | some c =>
    if c.op == .put && c.running && c.rows.contains row && tileRowPoisoned s c row then .next (failCopy cmd none .poison s)
    else .next (moveRow .put cmd row s (fun c s =>
      rowWrite c row (quadRead s c.control (rowOffset c.desc row) (rowPayload c.desc)) s))

/-- `FILL` (09 R277): VALUE repeated over a storage row's payload. -/
def execFill (cmd row : Nat) (s : State) : Out :=
  .next (moveRow .fill cmd row s (fun c s =>
    quadWrite c.control (rowOffset c.desc row)
      ((List.range (rowPayload c.desc)).map (fun i => (leBytes 4 c.value.toNat).getD (i % 4) 0)) s))

/-- The command that the die's engines take next: the oldest head of its quads' queues (03 R84). -/
def nextCopy (s : State) (die : Nat) : Option CopyCmd :=
  minBy (fun (c : CopyCmd) => c.order)
    (s.engines.copies.filter (fun c => c.engine.isNone && c.failure.isNone && c.quad / 4 == die))

/-- `COPY_COMMAND_TAKE` (03 R84; 09 R276, R278): the lowest-numbered idle engine takes the command and sets its promise;
after an invalidation it translates and checks the far rows again. -/
def execCopyCommandTake (die : Nat) (s : State) : Out :=
  match nextCopy s die, (List.range 32).find? (fun e => !(busyEngines s die).contains e) with
  | some c, some e =>
    if s.failure.fencedDies.contains die || (c.stale && c.op != .fill
        && farHeld s die c.context c.space (farRows c.desc c.far.toNat c.pitch.toNat) (rowPayload c.desc)) then .next s
    else
      let p := choosePromise s
      let s := { s with fresh := s.fresh + 1 }
      let s := modCopy c.id (fun c => { c with engine := some e, promise := some p }) s
      let s := { s with engines := { s.engines with undecided := s.engines.undecided ++ [(c.owner, p, c.id)] } }
      let s := modStrand c.owner (fun st => { st with promises := st.promises ++ [loW p] }) s
      if !c.stale || c.op == .fill then .next s
      else match farSegs s die c.context c.scratch c.space (c.op == .put) (farRows c.desc c.far.toNat c.pitch.toNat)
          (rowPayload c.desc) with
        | .inr r => .next (failCopy c.id none r.cause s)
        | .inl segs => .next (modCopy c.id (fun c => { c with segs := segs, stale := false }) s)
  | _, _ => .next s

/-- A promise is no longer undecided. -/
def dropUndecided (cmd : Nat) (s : State) : State :=
  { s with engines := { s.engines with undecided := s.engines.undecided.filter (fun x => x.2.2 != cmd) } }

/-- An acknowledgement or a fault reply of another package to a write or read of a copy command (09 R277; 15 R401). -/
def ackCopy (cmd : Nat) (s : State) (r : RemoteReply) : State :=
  match findCopy s cmd with
  | none => s
  | some c =>
    match c.unacked.find? (fun x => x.1 == r.acc) with
    | none => s
    | some u =>
      let s := modCopy cmd (fun c => { c with unacked := c.unacked.filter (fun x => x.1 != r.acc) }) s
      pruneCopies (match r.fault with
        | some x => failCopy cmd u.2.2 x s
        | none => s)

/-- `COPY_COMPLETE` (09 R257, R258, R277): every row has been moved, and other packages have acknowledged their part; the tile is handed back, and with EVENT the event is
posted. -/
def execCopyComplete (cmd : Nat) (s : State) : Out :=
  match findCopy s cmd with
  | none => .next s
  | some c =>
    if !c.running || !c.rows.isEmpty || !c.unacked.isEmpty then .next s
    else
      let kept := match c.promise with
        | some p => decide (s.tick.toNat ≤ p.toNat)
        | none => false
      let s := modCopy cmd (fun c => { c with handed := some s.tick, decided := c.decided || kept }) s
      let s := if kept then dropUndecided cmd s else s
      let s := { s with engines := { s.engines with missed := s.engines.missed.filter (fun x => x.2.2.2 != cmd) } }
      let s := handBack c.control c.tile s
      let s := if c.event then postEvent c.owner 1 c.tile (loW s.tick) cmd s else s
      .next (reap c.owner (pruneCopies s))

/-- `PROMISE_DECISION` (15 R400): from the tick after the promise on, the engine decides whether it was kept; a missed one
of a running command is renewed up to three times. -/
def execPromiseDecision (cmd : Nat) (s : State) : Out :=
  match findCopy s cmd with
  | none => .next s
  | some c =>
    match c.promise with
    | none => .next s
    | some p =>
      if c.decided || s.tick.toNat ≤ p.toNat then .next s
      else
        let s := dropUndecided cmd s
        if c.handed.isSome then .next (pruneCopies (modCopy cmd (fun c => { c with decided := true }) s))
        else
          let s := { s with engines := { s.engines with missed := s.engines.missed ++ [(c.owner, c.tile, p, cmd)] } }
          if c.failure.isSome then .next (pruneCopies (modCopy cmd (fun c => { c with decided := true }) s))
          else if 3 ≤ c.again then
            .next (failCopy cmd none .promiseMissed (modCopy cmd (fun c => { c with decided := true }) s))
          else
            let q := choosePromise s
            let s := { s with fresh := s.fresh + 1 }
            let s := modCopy cmd (fun c => { c with promise := some q, again := c.again + 1 }) s
            let s := { s with engines := { s.engines with undecided := s.engines.undecided ++ [(c.owner, q, cmd)] } }
            .next (postEvent c.owner 2 c.tile (loW q) cmd s)

/-- The borrow entries of the far accesses of a command that are not complete: rows still to move, and what other packages have not
acknowledged. -/
def CopyCmd.entriesOut (c : CopyCmd) : List Nat :=
  (c.rows.flatMap (fun r => (c.segs.getD r []).filterMap Seg.entry)) ++ c.unacked.filterMap (fun x => x.2.2)

/-- The first of them that is neither ACTIVE nor RENEWING. -/
def CopyCmd.leftEntry (s : State) (c : CopyCmd) : Option Nat :=
  c.entriesOut.find? (fun i => (leaseCause (borrowAt s i).state).isSome)

/-- Whether a cause can strike a running command now (15 R401): a reply from another package may carry any cause of a far
access; what is of this package shows its own. -/
def mayFail (s : State) (c : CopyCmd) (cause : Cause) : Bool :=
  let runs := (c.rows.flatMap (fun r => c.segs.getD r []))
  (cause == .remoteFault && s.failure.fencedDies.contains (c.quad / 4))
    || (c.space == 0 && runs.any (fun g => (leaseCause (borrowAt s g.index).state).isSome && (g.kind == 3 || g.kind == 4)))
    || (c.space == 0 && (cause == .poison || cause == .remoteFault || cause == .leaseExpired || cause == .lenderLost)
        && (!c.unacked.isEmpty || runs.any (fun g => !isLocal s g.fab || (g.kind == 4 && !(absentUnits s g.index g.fab g.len).isEmpty))))
    || (cause == .poison && c.op == .get && runs.any (fun g => farState s c false g == .failed .poison))

/-- `COPY_FAILED` (15 R401): the command fails with the cause that struck it. -/
def execCopyFailed (cmd : Nat) (cause : Cause) (s : State) : Out :=
  match findCopy s cmd with
  | none => .next s
  | some c => if c.running && mayFail s c cause then .next (failCopy cmd (c.leftEntry s) cause s) else .next s

/-- Whether a copy command waits for a unit of a staging frame. -/
def copyWaits (s : State) (borrow unit : Nat) (c : CopyCmd) : Bool :=
  c.running && c.rows.any (fun r => (c.segs.getD r []).any (fun g =>
    g.kind == 4 && g.index == borrow && (absentUnits s borrow g.fab g.len).contains unit))

/-- A borrow entry leaves ACTIVE and RENEWING: the copy commands with far accesses through it that are not complete fail (15
R426). -/
def failCopiesOn (i : Nat) (c : Cause) (s : State) : State :=
  (s.engines.copies.filter (fun k => k.handed.isNone && k.failure.isNone && k.entriesOut.contains i)).foldl (fun s k =>
    failCopy k.id (some i) c s) s

/-! ### Near-memory commands (09 R280–R282; 15 R402) -/

/-- The format of FMT. -/
def nearFmt (n : Nat) : BinFmt := if n = 0 then fF32 else if n = 1 then fBF16 else fF16

/-- The bytes of an element. -/
def nearSize (n : Nat) : Nat := if n = 0 then 4 else 2

/-- q of FADE (09 R281). -/
def fadeQ (alpha lambda : Word) : Nat :=
  (roundTo fF32 .ne (FV.add false (.fin false 1 1)
    (FV.neg (FV.mul (decodeBin fF32 lambda.toNat) (decodeBin fF32 alpha.toNat))))).1

/-- One element (09 R281). -/
def nearElem (c : NearCmd) (w x : Nat) : Nat :=
  let f := nearFmt c.fmt
  let a := decodeBin fF32 c.alpha.toNat
  let r := match c.op with
    | .scale => FV.mul a (decodeBin f w)
    | .axpy => FV.add false (decodeBin f w) (FV.mul a (decodeBin f x))
    | .fade => FV.add false (FV.mul (decodeBin f w) (decodeBin fF32 (fadeQ c.alpha c.lambda)))
        (FV.neg (FV.mul a (decodeBin f x)))
    | .zero => .fin false 0 1
  (roundTo f .ne r).1

/-- A unit of the target with the source's bytes. -/
def nearBytes (c : NearCmd) (tgt src : List Byte) : List Byte :=
  if c.op = .zero then List.replicate 256 0
  else
    let n := nearSize c.fmt
    (List.range (256 / n)).flatMap (fun i =>
      leBytes n (nearElem c (leNat ((tgt.drop (n * i)).take n)) (leNat ((src.drop (n * i)).take n))))

/-- A unit's progress is over. -/
def UnitState.finished : UnitState → Bool
  | .done | .failed _ => true
  | _ => false

/-- Whether a unit of an earlier command of the strand still has to write one of these units, or to read the target
(09 R282). -/
def nearBefore (s : State) (c : NearCmd) (tgt : Nat) (src : Option Nat) : Bool :=
  s.engines.nears.any (fun e => e.owner == c.owner && decide (e.id < c.id) && e.units.any (fun u =>
    u.state == .waiting && (u.tgt == tgt || src == some u.tgt || (u.value.isNone && (e.op == .axpy || e.op == .fade)
      && u.src == tgt))))

/-- Whether an earlier access of the strand to a unit, or an earlier accepted store of its die, has still to take effect (08 R214; 09
R282; 10 R302). -/
def nearHeld (s : State) (c : NearCmd) (x : Nat) : Bool :=
  let die := ((findStrand s c.owner).map (fun st => st.place.die)).getD 16
  let fab := pkgNo s * 2 ^ 43 + x
  s.mem.ops.any (fun o => decide (o.id < c.id) && !o.windowed && (o.owner == c.owner || (o.die == die && o.what.isStore))
    && o.accs.any (fun a => a.unordered && meets a.fab a.size fab 256))

/-- A unit's engine reads its source unit at that unit's home, and the engine is ready to apply (09 R281). -/
def nearRead (op : NearOp) (cmd unit : Nat) (s : State) : State :=
  match s.engines.nears.find? (fun c => c.id == cmd) with
  | none => s
  | some c =>
    match c.units[unit]? with
    | none => s
    | some u =>
      let reads := op == .axpy || op == .fade
      if c.op != op || c.windowed || u.state != .waiting || u.value.isSome then s
      else if !reads then modNear cmd unit (fun u => { u with value := some [] }) s
      else if homeHeld s u.src 256 || nearHeld s c u.src || nearBefore s c u.tgt (some u.src) then s
      else if poisonedAt s u.src 256 then modNear cmd unit (fun u => { u with state := .failed .poison }) s
      else modNear cmd unit (fun u => { u with value := some (memRead s.mem.bytes u.src 256) }) s

/-- `SCALE` (09 R281). -/
def execScale (cmd unit : Nat) (s : State) : Out := .next (nearRead .scale cmd unit s)

/-- `AXPY` (09 R281): the source unit is read. -/
def execAxpy (cmd unit : Nat) (s : State) : Out := .next (nearRead .axpy cmd unit s)

/-- `FADE` (09 R281): the source unit is read. -/
def execFade (cmd unit : Nat) (s : State) : Out := .next (nearRead .fade cmd unit s)

/-- `ZERO` (09 R281). -/
def execZero (cmd unit : Nat) (s : State) : Out := .next (nearRead .zero cmd unit s)

/-- Whether a write to a stripe has its delta on the way. -/
def stripeBusy (s : State) (stripe : Nat) : Bool :=
  s.mem.ops.any (fun o => o.accs.any (fun a => a.state == .applied && isLocal s a.fab
      && zoneOf (isPlain s) (fabLocal a.fab) == .hbm && stripeOf (fabLocal a.fab) == stripe))
    || s.engines.nears.any (fun c => c.units.any (fun u => u.state == .applied && stripeOf u.tgt == stripe))

/-- A stripe's parity unit recomputed from its data units as stored (15 R376, R378). -/
def recomputeParity (stripe : Nat) (s : State) : State :=
  let v := (List.range 15).foldl (fun acc i => xorBytes acc (memRead s.mem.bytes ((stripe * 15 + i) * 256) 256))
    (List.replicate 256 (0 : Byte))
  { s with mem := { s.mem with parity := memWrite s.mem.parity (stripe * 256) v } }

/-- A unit of a strand's command is about to be applied: the strand's die keeps no older copy of its lines (08 R214, 09
R282). -/
def dropUnitCopies (owner : StrandId) (tgt : Nat) (s : State) : State :=
  let die := match findStrand s owner with
    | some st => st.place.die
    | none => 0
  { s with mem := { s.mem with copies := s.mem.copies.filter (fun x =>
      !(x.die == die && isLocal s (x.line * 128) && tgt / 256 == fabLocal (x.line * 128) / 256)) } }

/-- Whether a command's engines read a source unit (09 R281). -/
def usesSrc : NearOp → Bool
  | .axpy | .fade => true
  | _ => false

/-- `NEAR_UNIT_APPLY` (04 R108; 09 R281, R282; 15 R378, R402): the home's engine applies the command to one unit as one
write; a ZERO clears poison. -/
def execNearUnitApply (cmd unit : Nat) (s : State) : Out :=
  match s.engines.nears.find? (fun c => c.id == cmd) with
  | none => .next s
  | some c =>
    match c.units[unit]? with
    | none => .next s
    | some u =>
      match u.value with
      | none => .next s
      | some src =>
        let unread := c.units.any (fun v => (c.op == .axpy || c.op == .fade) && v.src == u.tgt && v.value.isNone
          && v.state == .waiting)
        if u.state != .waiting || writeHeld s u.tgt 256 || nearHeld s c u.tgt || nearBefore s c u.tgt none || unread then .next s
        else if poisonedAt s u.tgt 256 then
          if c.op != .zero then .next (modNear cmd unit (fun u => { u with state := .failed .poison }) s)
          else if !isPlain s && stripeBusy s (stripeOf u.tgt) then .next s
          else
            let s := writeHome u.tgt (nearBytes c [] []) (dropUnitCopies c.owner u.tgt s)
            let s := { s with mem := { s.mem with poisoned := s.mem.poisoned.filter (fun x => x != u.tgt / 256) } }
            let s := if hasParity s u.tgt then recomputeParity (stripeOf u.tgt) s else s
            .next (modNear cmd unit (fun u => { u with state := .done }) s)
        else
          let bs := nearBytes c (memRead s.mem.bytes u.tgt 256) src
          let delta := deltaOf s u.tgt bs
          let s := queueDelta cmd unit u.tgt (writeHome u.tgt bs (dropUnitCopies c.owner u.tgt s))
          .next (modNear cmd unit (fun u =>
            if hasParity s u.tgt then { u with state := .applied, delta := delta } else { u with state := .done }) s)

/-- The completion word (09 R282). -/
def completionWord (c : NearCmd) : Word :=
  match c.units.findSome? (fun u => match u.state with
    | .failed x => some x
    | _ => none) with
  | some x => BitVec.ofNat 32 (2 ^ 30 + causeCode x * 2 ^ 16 + c.tag)
  | none => BitVec.ofNat 32 c.tag

/-- `NEAR_COMMAND_COMPLETE` (09 R282; 15 R402): once every unit has been performed or has failed, the completion word
enters `q1`. -/
def execNearCommandComplete (cmd : Nat) (s : State) : Out :=
  match s.engines.nears.find? (fun c => c.id == cmd) with
  | none => .next s
  | some c =>
    if !c.units.all (fun u => u.state.finished) then .next s
    else
      let s := { s with engines := { s.engines with nears := s.engines.nears.filter (fun x => x.id != cmd) } }
      .next (reap c.owner (modStrand c.owner (fun st => { st with completions := st.completions ++ [completionWord c] }) s))

end Sys2Proof.Machine
end

