-- ==== Sys2Proof/Machine/Lending.lean ====
section
/-! DEFINITION. Lending memory: the lender's and the borrower's tables, fabric time, heartbeats, election and the cobbler
(11 R314–R328), and the passing of time. -/

namespace Sys2Proof.Machine

/-! ### Time (11 R324, R325) -/

/-- Ticks pass (log 1). A counter ahead of the first heartbeat's time is held until that time has reached it. -/
def passTime (d : Nat) (s : State) : State :=
  match s.lending.heldUntil with
  | none => { s with tick := s.tick + BitVec.ofNat 64 d }
  | some h =>
    let h' := h.toNat + d
    if h' < s.tick.toNat then { s with lending := { s.lending with heldUntil := some (BitVec.ofNat 64 h') } }
    else { s with tick := BitVec.ofNat 64 h', lending := { s.lending with heldUntil := none } }

/-! ### The lender's table (11 R314–R316) -/

/-- The local address of an extent (11 R314). -/
def extentBase (e : Nat) : Nat := 0x20000000000 + e * 2 ^ 31

/-- The 16 bytes of an extent's tag (11 R314). -/
def tagBytes (t : ExtentTag) : List Byte := leBytes 4 t.leaseId ++ leBytes 8 t.expiry.toNat ++ leBytes 2 (t.lender % 512) ++ leBytes 2 0

/-- The cobbler that this package knows. -/
def cobblerPkg (s : State) : Nat := s.lending.cobbler.getD (pkgNo s)

/-- A lease entry. -/
def leaseAt (s : State) (i : Nat) : Lease := tget s.lending.leases .free i

/-- A lease entry replaced. -/
def setLease (i : Nat) (x : Lease) (s : State) : State :=
  { s with lending := { s.lending with leases := tput s.lending.leases .free i x } }

/-- Whether an extent is named by an entry in a state other than FREE. -/
def extentNamed (s : State) (e : Nat) : Bool := s.lending.leases.any (fun p => p.2.state != .free && p.2.extent == e)

/-- `LEASE_OFFER` (11 R315, R316, R325): FREE to OFFERED; ignored for an extent that another entry names. -/
def execLeaseOffer (entry extent : Nat) (s : State) : Out :=
  let x := leaseAt s entry
  if x.state != .free || 2048 ≤ entry || 1536 ≤ extent || extentNamed s extent || !s.lending.synced then .next s
  else .next (sendTo (cobblerPkg s) (.offer entry extent) (setLease entry { x with state := .offered, extent := extent } s))

/-- `LEASE_WITHDRAW` (11 R316): OFFERED to FREE. -/
def execLeaseWithdraw (entry : Nat) (s : State) : Out :=
  let x := leaseAt s entry
  if x.state != .offered then .next s
  else .next (sendTo (cobblerPkg s) (.withdraw entry) (setLease entry { x with state := .free } s))

/-- `LEASE_RECALL` (11 R316): GRANTED to RECALLING. -/
def execLeaseRecall (entry : Nat) (s : State) : Out :=
  let x := leaseAt s entry
  if !x.granted s then .next s
  else
    let d := BitVec.ofNat 64 (min (s.tick.toNat + 10000000) x.expiry.toNat)
    .next (sendTo x.borrower (.recallMsg x.borrower x.leaseId) (setLease entry { x with state := .recalling, deadline := d } s))

/-- The tick at which a lease of D milliseconds granted now expires. -/
def expiryOf (s : State) (durMs : Nat) : DWord := s.tick + BitVec.ofNat 64 (durMs * 1000000)

/-- `EXTENT_ADD` (11 R316, R328): the cobbler's command grants an offered extent; one of a term that is no longer current
is refused. -/
def execExtentAdd (entry borrower durMs term : Nat) (s : State) : Out :=
  let x := leaseAt s entry
  if x.state != .offered || term != s.lending.term || !s.lending.synced then .next s
  else
    let n := (s.lending.leaseCount + 1) % 2 ^ 32
    let id := if n = 0 then 1 else n
    let e := expiryOf s durMs
    let s := { s with lending := { s.lending with leaseCount := id } }
    let s := setLease entry { x with state := .granted, borrower := borrower, leaseId := id, expiry := e, durMs := durMs } s
    .next (sendTo borrower (.addEvent borrower (tagBytes ⟨pkgNo s, x.extent, id, e, durMs⟩) x.extent durMs) s)

/-- The entry of a lease that a borrower names. -/
def findLease (s : State) (borrower leaseId : Nat) : Option (Nat × Lease) :=
  s.lending.leases.find? (fun p => p.2.borrower == borrower && p.2.leaseId == leaseId && p.2.state != .free
    && p.2.state != .offered)

/-- `LEASE_RENEWAL` (11 R316): a GRANTED lease is renewed; any other is refused, and a recall is repeated. -/
def execLeaseRenewal (borrower leaseId : Nat) (s : State) : Out :=
  match findLease s borrower leaseId with
  | none => .next (sendTo borrower (.renewalRefused borrower leaseId) s)
  | some (i, x) =>
    if x.granted s then
      let e := expiryOf s x.durMs
      .next (sendTo borrower (.renewalReply borrower leaseId e) (setLease i { x with expiry := e } s))
    else
      let s := sendTo borrower (.renewalRefused borrower leaseId) s
      .next (if x.recalling s then sendTo borrower (.recallMsg borrower leaseId) s else s)

/-- The watches that a borrower holds on words of an extent are freed as its lease ends (08 R240). -/
def freeLeaseWatches (x : Lease) (s : State) : State :=
  let lo := extentBase x.extent
  { s with mem := { s.mem with watches := s.mem.watches.filter (fun p => match p.2.who with
      | .peer tag _ _ => !(tag.pkg == x.borrower && isLocal s p.2.addr && decide (lo ≤ fabLocal p.2.addr)
          && decide (fabLocal p.2.addr < lo + 2 ^ 31))
      | _ => true) } }

/-- `LEASE_RELEASE` (11 R316): the extent of a GRANTED or RECALLING lease is scrubbed; every release is acknowledged. -/
def execLeaseRelease (borrower leaseId : Nat) (s : State) : Out :=
  let s' := sendTo borrower (.releaseAck borrower leaseId) s
  match findLease s borrower leaseId with
  | none => .next s'
  | some (i, x) =>
    if x.state == .granted || x.state == .recalling then
      .next (freeLeaseWatches x (setLease i { x with scrubbing := true } s'))
    else .next s'

/-- `LEASE_EXPIRY` (11 R316): a GRANTED lease whose EXPIRY has come is EXPIRED and is scrubbed. -/
def execLeaseExpiry (entry : Nat) (s : State) : Out :=
  let x := leaseAt s entry
  if x.state == .granted && decide (x.expiry.toNat ≤ s.tick.toNat) then
    .next (freeLeaseWatches x (setLease entry { x with state := .expired, scrubbing := true } s))
  else .next s

/-- `RECALL_DEADLINE` (11 R316): a RECALLING lease whose DEADLINE has come is EXPIRED and is scrubbed. -/
def execRecallDeadline (entry : Nat) (s : State) : Out :=
  let x := leaseAt s entry
  if x.state == .recalling && decide (x.deadline.toNat ≤ s.tick.toNat) then
    .next (freeLeaseWatches x (setLease entry { x with state := .expired, scrubbing := true, deadline := 0 } s))
  else .next s

/-- `EXTENT_SCRUB_DONE` (11 R316): the extent is zero and the entry FREE. -/
def execExtentScrubDone (entry : Nat) (s : State) : Out :=
  let x := leaseAt s entry
  if !x.scrubbing then .next s
  else
    let lo := extentBase x.extent
    let s := { s with mem := { s.mem with
      bytes := s.mem.bytes.filter (fun c => !(decide (lo ≤ c.1) && decide (c.1 < lo + 2 ^ 31))) } }
    .next (setLease entry .free (reevalWatches lo (2 ^ 31) s))

/-! ### The borrower's table (11 R317–R320, R323) -/

/-- A borrow entry replaced. -/
def setBorrow (i : Nat) (x : Borrow) (s : State) : State :=
  { s with lending := { s.lending with borrows := tput s.lending.borrows .free i x } }

/-- Whether an operation is a posted write, whose failure is recorded in `psf` (14 R358). -/
def OpKind.posted : OpKind → Bool
  | .store | .rel | .cadd _ _ => true
  | _ => false

/-- An access ends with a fault reply; a posted write's failure is recorded at once, the other causes when the reply
arrives (14 R348, R358). -/
def failAcc (op acc : Nat) (c : Cause) (s : State) : State :=
  match findOp s op with
  | none => s
  | some o =>
    match o.accs[acc]? with
    | none => s
    | some a =>
      let s := modAcc op acc (fun a => { a with state := .failed c }) s
      if o.what.posted then settleOp op (postedFailure o.owner c (BitVec.ofNat 64 a.fab) a.index s) else s

/-- Accesses of operations that meet a condition end with a fault reply. -/
def failAccs (p : Op → Access → Bool) (c : Cause) (s : State) : State :=
  s.mem.ops.foldl (fun s o =>
    o.accs.zipIdx.foldl (fun s x => if p o x.1 then failAcc o.id x.2 c s else s) s) s

/-- Accepted stores reach the units of a borrow entry that are present before it leaves ACTIVE and RENEWING, so that the
set of DIRTY units is then fixed (11 R323). -/
def flushStaged (i : Nat) (s : State) : State :=
  s.mem.ops.foldl (fun s o =>
    o.accs.zipIdx.foldl (fun s x =>
      let a := x.1
      if o.what.isStore && !o.windowed && a.state == .waiting && a.kind == 4 && a.index == i
          && (absentUnits s i a.fab a.size).isEmpty then
        settleOp o.id (modAcc o.id x.2 (fun a => { a with state := .done })
          (dirtyBytes i a.fab a.size [o.owner] (poke (fabLocal a.fab) (leBytes a.size a.data.toNat) s)))
      else s) s) s

/-- A borrow entry leaves ACTIVE and RENEWING: watches through it end with the cause of its new state, and the lender is told that
their entries are free; copy commands with accesses through it fail (08 R240; 15 R426; log 29). -/
def leaveActive (i : Nat) (s : State) : State :=
  match leaseCause (borrowAt s i).state with
  | none => s
  | some c =>
    let armed := s.mem.ops.filter (fun o => (match o.what with
      | .watch _ _ _ => true
      | _ => false) && o.accs.any (fun a => (a.kind == 3 || a.kind == 4) && a.index == i && a.state == .switched))
    let s := armed.foldl (fun s o => sendTo (borrowAt s i).lender (.watchFree (borrowAt s i).lender (watchNumber s o.id % 65536)) s) s
    failAccs (fun o a => (match o.what with
      | .watch _ _ _ => true
      | _ => false) && (a.kind == 3 || a.kind == 4) && a.index == i && a.unperformed) c (failCopiesOn i c s)

/-- The units of a borrow entry that are not ABSENT. -/
def stagedOf (s : State) (i : Nat) : List Nat :=
  s.mem.staged.filterMap (fun p => if p.1 / 2 ^ 23 == i then some (p.1 % 2 ^ 23) else none)

/-- Whether a write-back of a borrow entry is on its way. -/
def writingBack (s : State) (i : Nat) : Bool :=
  (stagedOf s i).any (fun u => match stagedAt s i u with
    | .writing _ _ _ _ _ _ => true
    | _ => false)

/-- The unit states of a borrow entry cease to apply (11 R322). -/
def dropUnits (i : Nat) (s : State) : State :=
  { s with mem := { s.mem with staged := s.mem.staged.filter (fun p => p.1 / 2 ^ 23 != i) } }

/-- The write-back of every DIRTY unit of a borrow entry begins. -/
def writeBackAll (i : Nat) (s : State) : State :=
  (stagedOf s i).foldl (fun s u => match stagedAt s i u with
    | .dirty _ _ _ _ => beginWriteback i u none false s
    | _ => s) s

/-- Once nothing is being written back, a RECALLED entry becomes RELEASING, and the release is sent (11 R318). -/
def finishRecall (i : Nat) (s : State) : State :=
  let x := borrowAt s i
  if writingBack s i then s
  else if x.state == .recalled then sendTo x.lender (.release x.lender x.leaseId) (setBorrow i { x with state := .releasing } s)
  else s

/-- `EXTENT_REQUEST` (11 R318, R325): FREE to REQUESTED. -/
def execExtentRequest (entry : Nat) (s : State) : Out :=
  let x := borrowAt s entry
  if x.state != .free || 4096 ≤ entry || !s.lending.synced then .next s
  else .next (sendTo (cobblerPkg s) (.request entry) (setBorrow entry { x with state := .requested } s))

/-- `REQUEST_CANCEL` (11 R318): REQUESTED to FREE. -/
def execRequestCancel (entry : Nat) (s : State) : Out :=
  let x := borrowAt s entry
  if x.state != .requested then .next s
  else .next (sendTo (cobblerPkg s) (.cancel entry) (setBorrow entry { x with state := .free } s))

/-- `BORROW_RELEASE` (11 R318): ACTIVE to RELEASING; write-back, then the release is sent. -/
def execBorrowRelease (entry : Nat) (s : State) : Out :=
  let x := borrowAt s entry
  if x.state != .active then .next s
  else
    let s := leaveActive entry (writeBackAll entry (setBorrow entry { x with state := .releasing } (flushStaged entry s)))
    .next (if writingBack s entry then s else sendTo x.lender (.release x.lender x.leaseId) s)

/-- `BORROW_REACTIVATE` (11 R318): a renewal is sent; the entry stays EXPIRED. -/
def execBorrowReactivate (entry : Nat) (s : State) : Out :=
  let x := borrowAt s entry
  if x.state != .expired then .next s
  else .next (sendTo x.lender (.renewal x.lender x.leaseId) (setBorrow entry { x with lastRenewal := some s.tick } s))

/-- `BORROW_FREE` (11 R318, R322): EXPIRED or LOST to FREE. -/
def execBorrowFree (entry : Nat) (s : State) : Out :=
  let x := borrowAt s entry
  if x.state == .expired || x.state == .lost then .next (dropUnits entry (setBorrow entry .free s)) else .next s

/-- The entry that an add event fills: the one it names, or else the lowest that is REQUESTED (11 R318; log 85). -/
def requestedEntry (s : State) (entry : Nat) : Option Nat :=
  if (borrowAt s entry).state == .requested then some entry
  else (s.lending.borrows.find? (fun p => p.2.state == .requested)).map (fun p => p.1)

/-- `ADD_EVENT` (11 R318): a REQUESTED entry becomes ACTIVE, every unit ABSENT; without one, the lender is sent a release
at once, as where fabric time is not set, since no lease is accepted then (11 R325; log 85). An event of a lost package is
discarded. -/
def execAddEvent (entry : Nat) (tag : ExtentTag) (s : State) : Out :=
  if s.links.lostPeers.contains tag.lender then .next s
  else match (if s.lending.synced then requestedEntry s entry else none) with
  | none => .next (sendTo tag.lender (.release tag.lender tag.leaseId) s)
  | some entry =>
    let x := borrowAt s entry
    let y := { x with
      state := BorrowState.active, lender := tag.lender, extent := tag.extent, leaseId := tag.leaseId,
      expiry := tag.expiry, dur := tag.durMs, lastRenewal := none }
    .next (dropUnits entry (setBorrow entry y s))

/-- `RENEWAL_DUE` (11 R318, R320): from EXPIRY − 3 D / 4 on, ACTIVE becomes RENEWING and a renewal is sent. -/
def execRenewalDue (entry : Nat) (s : State) : Out :=
  let x := borrowAt s entry
  if x.state == .active && decide (x.expiry.toNat - 3 * (x.dur * 1000000) / 4 ≤ s.tick.toNat) then
    .next (sendTo x.lender (.renewal x.lender x.leaseId)
      (setBorrow entry { x with state := .renewing, lastRenewal := some s.tick } s))
  else .next s

/-- `RENEWAL_REPLY` (11 R318): RENEWING or EXPIRED becomes ACTIVE with the new EXPIRY; elsewhere the reply is discarded. -/
def execRenewalReply (entry leaseId : Nat) (expiry : DWord) (s : State) : Out :=
  let x := borrowAt s entry
  if (x.state == .renewing || x.state == .expired) && x.leaseId == leaseId then
    .next (setBorrow entry { x with state := .active, expiry := expiry, lastRenewal := none } s)
  else .next s

/-- GUARD (11 R318). -/
def guardTick (x : Borrow) : Nat := x.expiry.toNat - 10000

/-- `RENEWAL_RETRY` (11 R320): a renewal without a reply is sent again every 10,000,000 ticks until GUARD. -/
def execRenewalRetry (entry : Nat) (s : State) : Out :=
  let x := borrowAt s entry
  match x.lastRenewal with
  | none => .next s
  | some t =>
    if x.state == .renewing && decide (t.toNat + 10000000 ≤ s.tick.toNat) && decide (s.tick.toNat < guardTick x) then
      .next (sendTo x.lender (.renewal x.lender x.leaseId) (setBorrow entry { x with lastRenewal := some s.tick } s))
    else .next s

/-- `GUARD_REACHED` (11 R318): ACTIVE or RENEWING becomes EXPIRED. -/
def execGuardReached (entry : Nat) (s : State) : Out :=
  let x := borrowAt s entry
  if (x.state == .active || x.state == .renewing) && decide (guardTick x ≤ s.tick.toNat) then
    .next (leaveActive entry (setBorrow entry { x with state := .expired, lastRenewal := none } s))
  else .next s

/-- `RECALL` (11 R318, R323): the entry becomes RECALLED and its DIRTY units are written back; with none it is RELEASING. -/
def execRecall (lender leaseId : Nat) (s : State) : Out :=
  match s.lending.borrows.find? (fun p => p.2.lender == lender && p.2.leaseId == leaseId
      && (p.2.state == .active || p.2.state == .renewing || p.2.state == .expired)) with
  | none => .next s
  | some (i, x) =>
    .next (finishRecall i (writeBackAll i (leaveActive i (setBorrow i { x with state := .recalled, lastRenewal := none }
      (flushStaged i s)))))

/-- `RELEASE_ACK` (11 R318, R322): RELEASING to FREE. -/
def execReleaseAck (entry : Nat) (s : State) : Out :=
  if (borrowAt s entry).state == .releasing then .next (dropUnits entry (setBorrow entry .free s)) else .next s

/-! ### The cobbler (11 R326–R328) -/

/-- The offers and requests in the order in which they are served: by tick, then package, then entry. -/
def tradeKey (x : Nat × Nat × DWord) : Nat := x.2.2.toNat * 2 ^ 32 + x.1 * 2 ^ 16 + x.2.1

/-- The length of a trade's lease in milliseconds: the default, or another within R320 (log 20). -/
def tradeMs (s : State) : Nat :=
  let n := Config.tradeMs s.fresh
  if n = 0 then 1000 else 100 + n % 59901

/-- One request matched with the oldest offer of another package. -/
def matchOne (s : State) (r : Nat × Nat × DWord) : State :=
  match minBy tradeKey (s.lending.offers.filter (fun o => o.1 != r.1 && decide (o.2.2.toNat < s.tick.toNat))) with
  | none => s
  | some o =>
    let s' := { s with fresh := s.fresh + 1, lending := { s.lending with
      offers := s.lending.offers.filter (fun x => x != o), requests := s.lending.requests.filter (fun x => x != r) } }
    sendTo o.1 (.addCommand o.1 o.2.1 r.1 (tradeMs s) s.lending.term) s'

/-- Every request that an offer can serve, in order. Those of the running tick wait for it to end, so that all that reach the
cobbler in one tick are taken in the order of R328. -/
def matchAll (s : State) : State :=
  if s.lending.cobbler != some (pkgNo s) then s
  else (sortBy tradeKey (s.lending.requests.filter (fun r => decide (r.2.2.toNat < s.tick.toNat)))).foldl matchOne s

/-- Whether this package is the cobbler. -/
def isCobbler (s : State) : Bool := s.lending.cobbler == some (pkgNo s)

/-- `COBBLER_OFFER` (11 R316, R328): an offer reaches the cobbler, or the withdrawal of one, which the cobbler then forgets. -/
def execCobblerOffer (pkg : Nat) (trade : Trade) (s : State) : Out :=
  let entry := trade.entry
  if isCobbler s && trade.ended then
    .next { s with lending := { s.lending with offers := s.lending.offers.filter (fun o => !(o.1 == pkg && o.2.1 == entry)) } }
  else if isCobbler s && !s.lending.offers.any (fun o => o.1 == pkg && o.2.1 == entry) then
    .next { s with lending := { s.lending with offers := s.lending.offers ++ [(pkg, entry, s.tick)] } }
  else .next s

/-- `COBBLER_REQUEST` (11 R318, R328): a request reaches the cobbler, or the cancellation of one, which the cobbler then forgets. -/
def execCobblerRequest (pkg : Nat) (trade : Trade) (s : State) : Out :=
  let entry := trade.entry
  if isCobbler s && trade.ended then
    .next { s with lending := { s.lending with requests := s.lending.requests.filter (fun o => !(o.1 == pkg && o.2.1 == entry)) } }
  else if isCobbler s && !s.lending.requests.any (fun o => o.1 == pkg && o.2.1 == entry) then
    .next { s with lending := { s.lending with requests := s.lending.requests ++ [(pkg, entry, s.tick)] } }
  else .next s

/-- The launch queues open once the package kernel has run stage 5 and fabric time is set (11 R325; 13 R339). -/
def openQueues (s : State) : State :=
  if s.boot.stage = 6 && s.lending.synced then { s with work := { s.work with opened := true } } else s

/-- A new term: offers and requests are sent again, a former cobbler stops, and fabric time counts as set only with a heartbeat of
this term (11 R325, R326, R328). -/
def newTerm (term cobbler : Nat) (s : State) : State :=
  let s := { s with lending := { s.lending with
    term := term, cobbler := some cobbler, lastBeat := s.tick, offers := [], requests := [], synced := false, electing := none } }
  let s := s.lending.leases.foldl (fun s p => if p.2.state == .offered then sendTo cobbler (.offer p.1 p.2.extent) s else s) s
  s.lending.borrows.foldl (fun s p => if p.2.state == .requested then sendTo cobbler (.request p.1) s else s) s

/-- `HEARTBEAT_SEND` (11 R327): the cobbler's heartbeat, every 1,000,000 ticks. -/
def execHeartbeatSend (s : State) : Out :=
  if isCobbler s && decide (s.lending.lastSent.toNat + 1000000 ≤ s.tick.toNat) then
    .next (sendAll (.beat s.lending.term s.tick) { s with lending := { s.lending with lastSent := s.tick } })
  else .next s

/-- `HEARTBEAT` (11 R324–R327): `time` is the cobbler's tick corrected by the link delay. One of a lower term is ignored; a
higher term is adopted; the first one sets the counter, once and forward only, or holds it until that time has reached it. -/
def execHeartbeat (sender term : Nat) (time : DWord) (s : State) : Out :=
  if term < s.lending.term then .next s
  else
    let s := if term != s.lending.term || s.lending.cobbler != some sender then newTerm term sender s else s
    let set := s.lending.timeSet
    let s := { s with lending := { s.lending with lastBeat := s.tick, timeSet := true } }
    if set then
      let near := decide (s.tick.toNat ≤ time.toNat + 1000) && decide (time.toNat ≤ s.tick.toNat + 1000)
      .next (openQueues { s with lending := { s.lending with synced := s.lending.synced || near } })
    else if s.tick.toNat ≤ time.toNat then
      .next (openQueues { s with tick := time, lending := { s.lending with synced := true, lastBeat := time } })
    else .next { s with lending := { s.lending with heldUntil := some time } }

/-! ### Election (11 R326) -/

/-- Whether an anchor is dead (log 73). -/
def anchorDead (s : State) (pkg : Nat) : Bool := s.lending.deadAnchors.contains pkg || s.links.lostPeers.contains pkg

/-- A cell's header (08 R232). -/
def cellHeader (state gen wpkg wid : Nat) : Nat := state * 2 ^ 62 + gen * 2 ^ 32 + wpkg * 2 ^ 16 + wid

/-- The identity of hub core 0 (08 R232): the elector (log 21). -/
def electorId : Nat := 2 ^ 15 + 0xFF * 2 ^ 7

/-- A cell of this package decided in a generation with this package's number, skipped generations closed (11 R326). -/
def decideCell (g : Nat) (s : State) : State :=
  poke s.lending.electCell (leBytes 8 (pkgNo s) ++ leBytes 8 (cellHeader 1 g (pkgNo s) electorId)) s

/-- A decide-once request of the elector sent to the cell of an anchor (11 R326). -/
def askAnchor (n : Nat) (what : ElectStep) (gen : Nat) (s : State) : State :=
  let a := s.lending.anchors.getD (n % s.lending.anchors.length) 0
  let fab := a * 2 ^ 43 + s.lending.electCell
  let op := s.mem.nextOp
  let s := { s with
    mem := { s.mem with nextOp := op + 1 }
    lending := { s.lending with electing := some ⟨n, op, what⟩ } }
  sendAwaited a 16 fab (.cellReq op ⟨0, 0, 0⟩ fab what gen (BitVec.ofNat 32 (pkgNo s * 2 ^ 16 + electorId))) s

/-- The elector from term `n` on: on its own cell the term decided and its winner; on another package's cell, its state asked for
first (11 R326). -/
def elect : Nat → Nat → State → State
  | 0, _, s => s
  | fuel + 1, n, s =>
    let as_ := s.lending.anchors
    let a := as_.getD (n % as_.length) 0
    if as_.isEmpty then s
    else if anchorDead s a then elect fuel (n + 1) s
    else if a ≠ pkgNo s then
      if reaches s a then askAnchor n .stat 0 s
      else elect fuel (n + 1) { s with lending := { s.lending with deadAnchors := s.lending.deadAnchors ++ [a] } }
    else
      let x := s.lending.electCell
      let h := memNat s.mem.bytes (x + 8) 8
      let st := field h 63 62
      let gen := field h 61 32
      let g := n / as_.length
      if poisonedAt s x 16 || 2 ≤ st then
        elect fuel (n + 1) { s with lending := { s.lending with deadAnchors := s.lending.deadAnchors ++ [a] } }
      else if g < gen then elect fuel (gen * as_.length + n % as_.length) s
      else if gen = g && st = 1 then newTerm n (memNat s.mem.bytes x 8) s
      else newTerm n (pkgNo s) (decideCell g s)

/-- What follows an election's outcome: a cobbler keeps its counter, and sends its first heartbeat within 1,000,000 ticks (11 R325, R327;
log 97). -/
def endElection (s : State) : State :=
  if isCobbler s && s.lending.electing.isNone then
    openQueues { s with
      fresh := s.fresh + 1
      lending := { s.lending with
        synced := true, timeSet := true
        lastSent := BitVec.ofNat 64 (s.tick.toNat - Config.firstBeat s.fresh % 1000001) } }
  else s

/-- An election run, from term `n` on (11 R326). -/
def runElection (n : Nat) (s : State) : State := endElection (elect (2 * s.lending.anchors.length + 2) n s)

/-- An anchor whose cell answers with a fault reply is dead, and the elector goes on to the next term (11 R326). -/
def deadCell (e : Election) (s : State) : State :=
  let a := s.lending.anchors.getD (e.term % s.lending.anchors.length) 0
  runElection (e.term + 1) { s with lending := { s.lending with
    deadAnchors := s.lending.deadAnchors ++ [a], electing := none } }

/-- The reply of another package's cell to the elector (08 R233; 11 R326): the next request, or the term's winner. -/
def electReply (op : Nat) (s : State) (r : RemoteReply) : State :=
  match s.lending.electing with
  | none => s
  | some e =>
    if e.op != op then s
    else match r.fault with
    | some _ => deadCell e s
    | none =>
      let as_ := s.lending.anchors
      let v := r.value.toNat
      let status := v / 2 ^ 64 % 2 ^ 32
      let gen := v / 2 ^ 96 % 2 ^ 30
      let g := e.term / as_.length
      match e.next with
      | .stat =>
        if g < gen then askAnchor (gen * as_.length + e.term % as_.length) .stat 0 s
        else if gen < g then (if status = 0 then askAnchor e.term (.close gen) gen s else askAnchor e.term .reset gen s)
        else askAnchor e.term .propose g s
      | .close gen => askAnchor e.term .reset gen s
      | .reset => askAnchor e.term .stat 0 s
      | .propose => if status = 2 then askAnchor e.term .stat 0 s else endElection (newTerm e.term (v % 2 ^ 64) s)

/-- Whether the package has been admitted: the peers across its trained ports have verified its report and are routed to (11
R325; log 86). -/
def isAdmitted (s : State) : Bool :=
  s.links.ports.toList.all (fun p => !p.up || p.endpoint || (match p.peer with
    | some q => s.links.admitted.contains q
    | none => true))

/-- The first election of a package that has run stage 5, once it is admitted and unless a heartbeat has come (11 R325). -/
def firstElection (s : State) : State :=
  if s.boot.stage = 6 && s.lending.cobbler.isNone && s.lending.electing.isNone && isAdmitted s then runElection 0 s else s

/-- `HEARTBEAT_TIMEOUT` (11 R326, R327): without a heartbeat of its term for 5,000,000 ticks, the package moves to the next
term. -/
def execHeartbeatTimeout (s : State) : Out :=
  if s.boot.stage = 6 && !isCobbler s && s.lending.cobbler.isSome && s.lending.electing.isNone
      && decide (s.lending.lastBeat.toNat + 5000000 ≤ s.tick.toNat) then
    .next (runElection (s.lending.term + 1) s)
  else .next s

end Sys2Proof.Machine
end

