-- ==== Sys2Proof/Machine/Power.lean ====
section
/-! DEFINITION. The shank: power profiles, grants, lane clocks, alarms and coolant (01 R16, R17, R21; 13 R342–R345). -/

namespace Sys2Proof.Machine

/-- The budget of a profile in W (01 R16). -/
def profileBudget (p : Nat) : Nat := if p = 1 then 9600 else if p = 2 then 5500 else 8400

/-- The clock of a profile in MHz (01 R16). -/
def profileClock (p : Nat) : Nat := if p = 1 then 2400 else if p = 2 then 1400 else 2000

/-- BURST ticks of an interval that lie in the last 300 s. -/
def burstIn (now : Nat) (p : Nat × Nat) : Nat := p.2 - max p.1 (now - 300000000000)

/-- BURST ticks used in the last 300 s, the running interval included. -/
def burstUsed (s : State) : Nat :=
  let now := s.tick.toNat
  s.power.burstRuns.foldl (fun n p => n + burstIn now p) 0
    + (if s.power.active = 1 then burstIn now (s.power.lastGrant.toNat, now) else 0)

/-- BURST ticks left in the window (01 R16): 30 s in any 300 s. -/
def burstTicksLeft (s : State) : Nat := 30000000000 - burstUsed s

/-- CLOCK: the lowest lane clock among the live dies, in MHz (13 R345). -/
def lowestClock (s : State) : Nat :=
  (minBy (fun (x : Nat) => x) ((liveDies s).map (fun d => vget s.power.dieClocks d 0))).getD 0

/-- BURSTLEFT: the BURST ticks left in the window, in units of 1,000 (13 R345). -/
def burstLeft (s : State) : Nat := burstTicksLeft s / 1000

/-- The profile that the next grant follows: BURST only while its allowance lasts and the coolant keeps its limits (01 R17,
13 R343). -/
def nextProfile (s : State) : Nat :=
  let p := s.power.profile.toNat
  if p = 1 && (s.power.coolantSince.isSome || s.power.burstBarred || burstTicksLeft s = 0) then 0 else p

/-- The budget of a profile, less what the coolant takes: 10 % for each step, down to the EFFICIENT budget (13 R343; log 72). -/
def budgetOf (s : State) (p : Nat) : Nat :=
  let b := profileBudget p
  max (b - b * s.power.budgetCut / 10) (min b 5500)

/-- Grants to the dies in turn: what each asks for when the budget covers all, else free shares within it (log 22). -/
def shareGrants (s : State) (demand : List Nat) (budget : Nat) : List Nat :=
  if demand.foldl (fun n x => n + x) 0 ≤ budget then demand
  else (demand.zipIdx.foldl (fun (acc : List Nat × Nat) p =>
    let g := min acc.2 (Config.share s.fresh p.2 % (p.1 + 1))
    (acc.1 ++ [g], acc.2 - g)) ([], budget)).1

/-- The lane clock of a die under a grant (13 R342). -/
def grantClock (s : State) (p grant : Nat) : Nat := min (profileClock p) (100 * Config.clockFor s.fresh grant)

/-- `GRANT_INTERVAL` (13 R342, R343): every 8,000 ticks each live die is granted power and a clock; throttles end. -/
def execGrantInterval (demand : List Nat) (s : State) : Out :=
  if s.tick.toNat / 8000 ≤ s.power.lastGrant.toNat / 8000 then .next s
  else
    let p := nextProfile s
    let live := liveDies s
    let asked := (List.range 16).map (fun d => if live.contains d then demand.getD d 0 else 0)
    let grants := shareGrants s asked (budgetOf s p)
    let clocks := grants.map (grantClock s p)
    let runs := (if s.power.active = 1 then s.power.burstRuns ++ [(s.power.lastGrant.toNat, s.tick.toNat)]
                 else s.power.burstRuns).filter (fun r => burstIn s.tick.toNat r != 0)
    let s := { s with fresh := s.fresh + 1, power := { s.power with burstRuns := runs, active := p, lastGrant := s.tick } }
    .next { s with power := { s.power with
      grant := BitVec.ofNat 32 (grants.foldl (fun n x => n + x) 0), burstBarred := s.power.burstBarred && burstTicksLeft s == 0,
      dieGrants := Vector.ofFn (fun (i : Fin 16) => grants.getD i.val 0),
      dieClocks := Vector.ofFn (fun (i : Fin 16) => clocks.getD i.val 0), throttled := [] } }

/-- `OVER_CURRENT_ALARM` (13 R343, R345): the die issues no new matrix operation until its next grant; THERM shows it. -/
def execOverCurrentAlarm (die : Nat) (s : State) : Out :=
  if !(liveDies s).contains die then .next s
  else .next { s with power := { s.power with throttled := merge s.power.throttled [die], therm := s.power.therm ||| 4 } }

/-- `COOLANT_OUT_OF_LIMITS` (13 R343, R345). -/
def execCoolantOutOfLimits (inletHigh flowLow : Bool) (s : State) : Out :=
  if !inletHigh && !flowLow then .next s
  else .next { s with power := { s.power with
    therm := s.power.therm ||| BitVec.ofNat 32 (flag inletHigh + 2 * flag flowLow),
    coolantSince := some (s.power.coolantSince.getD s.tick) } }

/-- `COOLANT_WITHIN_LIMITS` (13 R343): the condition is over, and so is the cut of the budget. -/
def execCoolantWithinLimits (s : State) : Out :=
  .next { s with power := { s.power with coolantSince := none, budgetCut := 0 } }

/-- `COOLANT_BUDGET_STEP` (13 R343): a further 1,000,000 ticks out of limits after the first cut the budget by 10 %. -/
def execCoolantBudgetStep (s : State) : Out :=
  match s.power.coolantSince with
  | none => .next s
  | some t =>
    if t.toNat + 1000000 * (s.power.budgetCut + 2) ≤ s.tick.toNat then
      .next { s with power := { s.power with budgetCut := s.power.budgetCut + 1 } }
    else .next s

/-- `BURST_EXHAUSTED` (01 R17): the allowance is used up; the next grant returns to SUSTAIN. -/
def execBurstExhausted (s : State) : Out :=
  if s.power.active = 1 && burstTicksLeft s = 0 then
    .next { s with power := { s.power with burstBarred := true } }
  else .next s

/-- `PROFILE` (13 R345): the profile asked for; 3 is ignored. -/
def execProfile (value : Word) (s : State) : Out :=
  let p := value.toNat % 4
  if p = 3 then .next s else .next { s with power := { s.power with profile := BitVec.ofNat 32 p } }

/-- `THERM_CLEAR` (13 R345): ones clear bits. -/
def execThermClear (value : Word) (s : State) : Out :=
  .next { s with power := { s.power with therm := s.power.therm &&& ~~~value } }

end Sys2Proof.Machine
end

