-- ==== Sys2Proof/Machine/Watch.lean ====
section
/-! DEFINITION. Watches at the homes, requests that leave for another package, and the hub cores' watch slots (08 R238–R241;
11 R330; 15 R394). -/

namespace Sys2Proof.Machine

/-! ### Requests to other packages (15 R394) -/

/-- OWNER of a strand's watch entry (08 R241). -/
def ownerWord (s : State) (st : Strand) : Word :=
  match st.place with
  | .vec core lane slot => BitVec.ofNat 32 (pkgNo s + core * 2 ^ 9 + lane * 2 ^ 17 + slot * 2 ^ 24)
  | .ctl quad c => BitVec.ofNat 32 (2 ^ 27 + pkgNo s + quad * 2 ^ 9 + c * 2 ^ 17)
  | .none => 0

/-- The identity that a strand writes into a cell: WPKG and WID (08 R232). -/
def winnerId (s : State) (st : Strand) : Nat :=
  let wid := match st.place with
    | .vec core lane _ => core * 2 ^ 7 + lane
    | .ctl quad c => 2 ^ 15 + quad * 2 ^ 7 + c
    | .none => 0
  pkgNo s * 2 ^ 16 + wid

/-- The request of an access to another package: with the LEASEID of a borrowed extent (11 R321, R322), and OWNER of a watch or the
identity of a decide-once request (08 R232, R241). -/
def awayRequest (s : State) (op acc : Nat) (tag : ReqTag) (fab : Nat) : OutMsg :=
  let o := findOp s op
  let lease := match o.bind (fun o => o.accs[acc]?) with
    | some a => if a.kind = 3 || a.kind = 4 then (borrowAt s a.index).leaseId else 0
    | none => 0
  let owner := match o, o.bind (fun o => findStrand s o.owner) with
    | some o, some st => (match o.what with
      | .watch _ _ _ => ownerWord s st
      | .docProp | .docRead | .docReset | .docStat => BitVec.ofNat 32 (winnerId s st)
      | _ => 0)
    | _, _ => 0
  .remoteReq op acc tag fab lease owner

/-- An access handed to the package switch towards another package; without a route the switch answers REMOTE_FAULT (04
R92), and with 256 tags out to the home, or 256 flits unacknowledged, it waits (15 R391, R394). -/
def sendAway (op acc : Nat) (die pkg : Nat) (fab : Nat) (s : State) : State :=
  if !reaches s pkg then failAcc op acc .remoteFault s
  else if tagsUsed s die fab || linkFull s pkg then s
  else
    let t := nextTag s die fab
    let m := awayRequest s op acc t fab
    sendTo pkg m (modAcc op acc (fun a => { a with state := .switched, seq := t.seq, sent := s.tick }) (takeSeq die fab s))

/-! ### Arming (08 R238, R239) -/

/-- The lowest free index of a die's watch table. -/
def freeWatch (s : State) (die : Nat) : Option Nat :=
  (List.range 4096).find? (fun i => (tget? s.mem.watches (die * 4096 + i)).isNone)

/-- A watch request as its home decides it: a status at once, or an entry armed. -/
def decideWatch (who : Watcher) (cmp : WCmp) (wide : Bool) (deadline : Option DWord) (cmpv : DWord) (fab : Nat)
    (s : State) : Option Nat × State :=
  let x := fabLocal fab
  let s := combineLines x (watchSize wide) s
  let late := match deadline with
    | some d => decide (d.toNat ≤ s.tick.toNat)
    | none => false
  if watchHolds cmp (memNat s.mem.bytes x (watchSize wide)) cmpv.toNat then (some 0, s)
  else if late then (some 1, s)
  else match freeWatch s (watchDie s x) with
    | none => (some 2, s)
    | some i =>
      let e : WatchEntry := { who := who, cmp := cmp, wide := wide, deadline := deadline, cmpv := cmpv, addr := fab,
                              status := none }
      (none, { s with mem := { s.mem with watches := tset s.mem.watches (watchDie s x * 4096 + i) (some e) } })

/-- The value that a watch request carries. -/
def watchValue (wide : Bool) (a : Access) : DWord := BitVec.ofNat 64 (a.data.toNat % 2 ^ (8 * watchSize wide))

/-- `WATCH_ARM_REQUEST` (08 R238–R240): a strand's watch reaches the home of the word; for a KIND 4 page that is the lender,
once the unit's DIRTY bytes have been written back. -/
def execWatchArmRequest (op : Nat) (s : State) : Out :=
  match findOp s op with
  | none => .next s
  | some o =>
    match o.what, o.accs[0]? with
    | .watch cmp wide deadline, some a =>
      if a.state != .waiting then .next s
      else if a.kind = 4 then
        let u := stageUnit s a.index a.fab
        if (borrowAt s a.index).state == .lost then .next (failAcc op 0 .lenderLost s)
        else match stagedAt s a.index u with
        | .dirty _ _ _ _ => .next (beginWriteback a.index u none false s)
        | .writing _ _ _ _ _ _ => .next s
        | _ => .next (sendAway op 0 o.die (borrowAt s a.index).lender (lenderFab s a.index a.fab) s)
      else if !isLocal s a.fab then .next (sendAway op 0 o.die (fabPkg a.fab) a.fab s)
      else if homeHeld s (fabLocal a.fab) a.size then .next s
      else if !ownServes s (fabLocal a.fab) then .next (failAcc op 0 .remoteFault s)
      else if poisonedAt s (fabLocal a.fab) a.size then .next (modAcc op 0 (fun a => { a with state := .failed .poison }) s)
      else if s.failure.fencedDies.contains (watchDie s (fabLocal a.fab)) then
        .next (modAcc op 0 (fun a => { a with state := .failed .remoteFault }) s)
      else
        let w := match findStrand s o.owner with
          | some st => ownerWord s st
          | none => 0
        match decideWatch (.strand op o.owner w) cmp wide deadline (watchValue wide a) a.fab s with
        | (some r, s') => .next (modAcc op 0 (fun a => { a with state := .done, result := BitVec.ofNat 128 r }) s')
        | (none, s') => .next (modAcc op 0 (fun a => { a with state := .switched }) s')
    | _, _ => .next s

/-- `WATCH_DEADLINE` (08 R239): an armed watch whose deadline has come is answered 1 and its entry freed. -/
def execWatchDeadline (entry : Nat) (s : State) : Out :=
  match tget? s.mem.watches entry with
  | none => .next s
  | some e =>
    match e.deadline with
    | none => .next s
    | some d => if e.status = none && decide (d.toNat ≤ s.tick.toNat) then .next (answerWatch entry 1 s) else .next s

/-! ### Hub cores (11 R330) -/

/-- The compare of a code (08 R237). -/
def cmpOfCode (n : Nat) : WCmp := if n = 0 then .eq else if n = 1 then .ne else if n = 2 then .geu else .ltu

/-- A hub slot. -/
def hubSlot (s : State) (die hart : Nat) : HubSlot := tget s.mem.hub .zero (hubKey die hart)

/-- A hub slot replaced. -/
def setHubSlot (die hart : Nat) (h : HubSlot) (s : State) : State :=
  { s with mem := { s.mem with hub := tput s.mem.hub .zero (hubKey die hart) h } }

/-- Whether a slot's watch is still armed, here or at another package, or is yet to be answered. -/
def hubArmed (s : State) (die hart : Nat) : Bool :=
  s.mem.watches.any (fun p => p.2.who == .hub die hart) || (hubSlot s die hart).asked.isSome
    || s.mem.hubOwed.any (fun p => p.1 == .hub die hart)

/-- A hub slot's watch sent to the home of another package's word, with HUB and its hart as OWNER (11 R330; log 71). -/
def askHub (die hart fab : Nat) (s : State) : State :=
  if !reaches s (fabPkg fab) then send (.hubFault hart .remoteFault) s
  else
    let op := s.mem.nextOp
    let s := setHubSlot die hart { hubSlot s die hart with asked := some op } s
    sendAwaited (fabPkg fab) die fab (.hubWatch op hart ⟨0, 0, 0⟩ fab) { s with mem := { s.mem with nextOp := op + 1 } }

/-- The reply of another package to a hub slot's watch (11 R330; log 71). -/
def hubReplied (op : Nat) (s : State) (r : RemoteReply) : State :=
  match s.mem.hub.find? (fun p => p.2.asked == some op) with
  | none => s
  | some p =>
    match r.fault with
    | some c => send (.hubFault (p.1 % 64) c) (setHubSlot (p.1 / 64) (p.1 % 64) { p.2 with asked := none } s)
    | none => hubAnswer (p.1 / 64) (p.1 % 64) (r.value.toNat % 4) s

/-- `HUB_WATCH_ARM` (11 R330): a write of HADDR sends the slot's watch to the home of the word, here or in another package; a slot
whose watch is armed is answered 3. A home that is rebuilding keeps the write waiting, and one that may not serve it answers the
hart with a fault (log 24, log 71). -/
def execHubWatchArm (die hart : Nat) (addr : DWord) (s : State) : Out :=
  let h := { hubSlot s die hart with haddr := addr }
  let ctl := h.hctl.toNat
  let fab := addr.toNat % 2 ^ 52
  let x := fabLocal fab
  let armed := hubArmed s die hart
  if !armed && isLocal s fab && homeHeld s x 8 then .next s
  else
  let s := setHubSlot die hart h s
  if armed then .next (hubAnswer die hart 3 s)
  else if !isLocal s fab then .next (askHub die hart fab s)
  else if isMmio s x || zoneOf (isPlain s) x = .unbacked || !ownServes s x || s.failure.fencedDies.contains (watchDie s x) then
    .next (send (.hubFault hart .remoteFault) s)
  else if poisonedAt s x (watchSize (bit ctl 2)) then .next (send (.hubFault hart .poison) s)
  else
    match decideWatch (.hub die hart) (cmpOfCode (ctl % 4)) (bit ctl 2) (if bit ctl 3 then some h.hdl else none)
        (if bit ctl 2 then h.hcmp else (loW h.hcmp).setWidth 64) fab s with
    | (some r, s') => .next (if r = 0 && unitPending s' x then oweHub (.hub die hart) x s' else hubAnswer die hart r s')
    | (none, s') => .next s'

/-- `HUB_REPLY_CLEAR` (11 R330): zero written to HREPLY. -/
def execHubReplyClear (die hart : Nat) (s : State) : Out := .next (setHubSlot die hart { hubSlot s die hart with hreply := 0 } s)

/-- A watch entry's 32 bytes as WENT shows them (08 R241). -/
def watchImage (e : WatchEntry) : List Byte :=
  let code := match e.cmp with
    | .eq => 0
    | .ne => 1
    | .geu => 2
    | .ltu => 3
  let own := match e.who with
    | .strand _ _ w => w.toNat
    | .hub _ hart => hart
    | .peer _ _ w => w.toNat
  let hub := match e.who with
    | .hub _ _ => true
    | .peer _ hub _ => hub
    | .strand _ _ _ => false
  leBytes 8 (2 ^ 63 + e.addr) ++ leBytes 8 e.cmpv.toNat ++ leBytes 8 (match e.deadline with
    | some d => d.toNat
    | none => 0)
    ++ leBytes 4 (code + 4 * flag e.wide + 8 * flag e.deadline.isSome + 16 * flag hub) ++ leBytes 4 own

end Sys2Proof.Machine
end

