-- ==== Sys2Proof/Machine/Mmio.lean ====
section
/-! DEFINITION. The MMIO ranges: launch queues, lease and borrow tables, watch pages and the power window (03 R66, R67; 04 R91;
11 R315, R317, R329, R330; 13 R345). -/

namespace Sys2Proof.Machine

/-- The state that an answer leaves. -/
def after (s : State) : Out → State
  | .next t => t
  | _ => s

/-! ### Reading -/

/-- A lease entry's 32 bytes (11 R315). -/
def leaseImage (x : Lease) : List Byte :=
  let st := match x.state with
    | .free => 0
    | .offered => 1
    | .granted => 2
    | .recalling => 3
    | .expired => 4
  leBytes 8 (st + x.extent % 2 ^ 11 * 2 ^ 16 + x.borrower % 2 ^ 9 * 2 ^ 32 + flag x.scrubbing * 2 ^ 48)
    ++ leBytes 8 (x.leaseId % 2 ^ 32) ++ leBytes 8 x.expiry.toNat ++ leBytes 8 x.deadline.toNat

/-- The code of a borrow state (11 R317). -/
def borrowCode : BorrowState → Nat
  | .free => 0
  | .requested => 1
  | .active => 2
  | .renewing => 3
  | .recalled => 4
  | .releasing => 5
  | .expired => 6
  | .lost => 7

/-- A borrow entry's 32 bytes (11 R317). -/
def borrowImage (x : Borrow) : List Byte :=
  leBytes 8 (borrowCode x.state + flag x.staged * 16 + x.lender % 2 ^ 9 * 2 ^ 16 + x.extent % 2 ^ 11 * 2 ^ 32)
    ++ leBytes 8 (x.leaseId % 2 ^ 32 + x.dur % 2 ^ 32 * 2 ^ 32) ++ leBytes 8 x.expiry.toNat ++ leBytes 8 x.stage.toNat

/-- The 8 bytes of the MMIO range at an aligned address; a write-only register gives a free value (log 23). -/
def mmioDword (s : State) (x : Nat) : Nat :=
  let open_ := Config.writeOnly s.fresh x % 2 ^ 64
  match zoneOf (isPlain s) x with
  | .doorbell =>
    let q := queueAt s ((x - 0x7F000000000) / 4096)
    let r := x % 4096
    if r = 0x18 then q.cons.toNat else if r = 0x20 then q.err.toNat
    else if r = 0 || r = 8 || r = 0x10 then open_ else 0
  | .leases =>
    let o := x - 0x7F000010000
    leNat (((leaseImage (leaseAt s (o / 32))).drop (o % 32)).take 8)
  | .borrows =>
    let o := x - 0x7F000020000
    leNat (((borrowImage (borrowAt s (o / 32))).drop (o % 32)).take 8)
  | .watches =>
    let o := x - 0x7F000040000
    let die := o / 8192
    let r := o % 8192
    let sel := (vget s.mem.wsel die 0).toNat
    if r = 0 then sel
    else if 0x20 ≤ r && r < 0x40 then
      (match tget? s.mem.watches (die * 4096 + sel) with
       | some e => leNat (((watchImage e).drop (r - 0x20)).take 8)
       | none => 0)
    else if 0x800 ≤ r && r < 0x1000 then open_
    else if 0x1000 ≤ r && r < 0x1800 then
      let h := hubSlot s die ((r - 0x1000) / 32)
      if r % 32 = 0 then h.hreply.toNat else if r % 32 = 8 then h.hmsia.toNat else if r % 32 = 16 then h.hmsid.toNat else 0
    else 0
  | .power =>
    let r := x % 4096
    if r = 0 then s.power.profile.toNat else if r = 8 then s.power.grant.toNat else if r = 0x10 then lowestClock s
    else if r = 0x18 then burstLeft s else if r = 0x20 then s.power.therm.toNat else 0
  | _ => 0

/-- A 4-byte or 8-byte read of the MMIO range. -/
def mmioRead (s : State) (x size : Nat) : Nat := mmioDword s (x / 8 * 8) / 2 ^ (8 * (x % 8)) % 2 ^ (8 * size)

/-! ### Writing -/

/-- `size` bytes at an offset of an 8-byte value replaced. -/
def mergeWord (old off size v : Nat) : Nat :=
  let m := 2 ^ (8 * off)
  old - old / m % 2 ^ (8 * size) * m + v % 2 ^ (8 * size) * m

/-- A write of a register of a launch queue (03 R66). DESIGN CHOICE: a QSIZE outside 4 to 16 is taken as written (log 88). -/
def writeQueue (q r off size v : Nat) (s : State) : State :=
  let x := queueAt s q
  if r = 0 then
    setQueue q { x with base := BitVec.ofNat 64 (mergeWord x.base.toNat off size v % 2 ^ 52 / 64 * 64) } s
  else if r = 8 && off = 0 then setQueue q { x with size := BitVec.ofNat 32 (v % 32) } s
  else if r = 0x10 && off = 0 then after s (execLaunchDoorbell (BitVec.ofNat 4 q) (BitVec.ofNat 32 v) s)
  else if r = 0x20 && off = 0 && v % 2 ^ 32 = 0 then after s (execQerrClear (BitVec.ofNat 4 q) s)
  else s

/-- A write into a lease entry: fields of a FREE entry, and the firmware's transitions (11 R315, R316, R329); an offer that is
ignored changes nothing. -/
def writeLease (i off size v : Nat) (s : State) : State :=
  let x := leaseAt s i
  let d := mergeWord (leNat (((leaseImage x).drop (off / 8 * 8)).take 8)) (off % 8) size v
  if off / 8 = 0 then
    let st := d % 8
    if x.state == .free then
      let y := { x with extent := field d 26 16, borrower := field d 40 32 }
      if st = 0 then setLease i y s
      else if st = 1 then
        let t := after s (execLeaseOffer i (field d 26 16) (setLease i y s))
        if (leaseAt t i).state == .offered then t else s
      else s
    else if x.state == .offered && st = 0 then after s (execLeaseWithdraw i s)
    else if x.state == .granted && st = 3 then after s (execLeaseRecall i s)
    else s
  else if x.state != .free then s
  else if off / 8 = 1 then setLease i { x with leaseId := d % 2 ^ 32 } s
  else if off / 8 = 2 then setLease i { x with expiry := BitVec.ofNat 64 d } s
  else setLease i { x with deadline := BitVec.ofNat 64 d } s

/-- A write into a borrow entry (11 R317, R318, R329). -/
def writeBorrow (i off size v : Nat) (s : State) : State :=
  let x := borrowAt s i
  let d := mergeWord (leNat (((borrowImage x).drop (off / 8 * 8)).take 8)) (off % 8) size v
  if off / 8 = 0 then
    let st := d % 16
    if x.state == .free then
      let y := { x with staged := bit d 4, lender := field d 24 16, extent := field d 42 32 }
      if st = 0 then setBorrow i y s
      else if st = 1 then
        let t := after s (execExtentRequest i (setBorrow i y s))
        if (borrowAt t i).state == .requested then t else s
      else s
    else if x.state == .requested && st = 0 then after s (execRequestCancel i s)
    else if x.state == .active && st = 5 then after s (execBorrowRelease i s)
    else if x.state == .expired && st = 2 then after s (execBorrowReactivate i s)
    else if (x.state == .expired || x.state == .lost) && st = 0 then after s (execBorrowFree i s)
    else s
  else if x.state != .free then s
  else if off / 8 = 1 then setBorrow i { x with leaseId := d % 2 ^ 32, dur := d / 2 ^ 32 } s
  else if off / 8 = 2 then setBorrow i { x with expiry := BitVec.ofNat 64 d } s
  else setBorrow i { x with stage := BitVec.ofNat 64 (d / 2 ^ 31 % 2 ^ 21 * 2 ^ 31) } s

/-- A write into a die's watch page (11 R330). -/
def writeWatch (die r off size v : Nat) (s : State) : State :=
  if r = 0 then
    if off = 0 then { s with mem := { s.mem with wsel := vset s.mem.wsel die (BitVec.ofNat 32 (v % 2 ^ 12)) } } else s
  else if 0x800 ≤ r && r < 0x1000 then
    let hart := (r - 0x800) / 32
    let h := hubSlot s die hart
    let m := fun (old : DWord) => BitVec.ofNat 64 (mergeWord old.toNat off size v)
    if r % 32 = 0 then setHubSlot die hart { h with hcmp := m h.hcmp } s
    else if r % 32 = 8 then setHubSlot die hart { h with hdl := m h.hdl } s
    else if r % 32 = 16 then if off = 0 then setHubSlot die hart { h with hctl := BitVec.ofNat 32 (v % 16) } s else s
    else after s (execHubWatchArm die hart (m h.haddr) s)
  else if 0x1000 ≤ r && r < 0x1800 then
    let hart := (r - 0x1000) / 32
    let h := hubSlot s die hart
    if r % 32 = 0 then if v % 2 ^ (8 * size) = 0 then after s (execHubReplyClear die hart s) else s
    else if r % 32 = 8 then setHubSlot die hart { h with hmsia := BitVec.ofNat 64 (mergeWord h.hmsia.toNat off size v) } s
    else if r % 32 = 16 then if off = 0 then setHubSlot die hart { h with hmsid := BitVec.ofNat 32 v } s else s
    else s
  else s

/-- A 4-byte or 8-byte write of the MMIO range; a register that is only read ignores it (log 23). -/
def mmioWrite (x size v : Nat) (s : State) : State :=
  match zoneOf (isPlain s) x with
  | .doorbell => writeQueue ((x - 0x7F000000000) / 4096) (x % 4096 / 8 * 8) (x % 8) size v s
  | .leases => writeLease ((x - 0x7F000010000) / 32) (x % 32) size v s
  | .borrows => writeBorrow ((x - 0x7F000020000) / 32) (x % 32) size v s
  | .watches => writeWatch ((x - 0x7F000040000) / 8192) (x % 8192 / 8 * 8) (x % 8) size v s
  | .power =>
    if x % 4096 = 0 then after s (execProfile (BitVec.ofNat 32 v) s)
    else if x % 4096 = 0x20 then after s (execThermClear (BitVec.ofNat 32 v) s)
    else s
  | _ => s

/-- `REGISTER_WRITE` (00 R4; 04 R91; 11 R329): a write of package-kernel code on a hub core to the MMIO ranges. -/
def execRegisterWrite (addr : Nat) (size : Nat) (value : DWord) (s : State) : Out :=
  if (size = 4 || size = 8) && addr % size = 0 && isMmio s addr then .next (mmioWrite addr size value.toNat s) else .next s

end Sys2Proof.Machine
end

