-- ==== Sys2Proof/Machine/Homes.lean ====
section
/-! DEFINITION. Accesses at their homes: loads and stores, atomics, deposits and decide-once requests, their parity deltas,
and their replies (04 R102–R107, R109; 08 R214–R236; 10 R295–R300; 15 R376–R379, R394, R395). -/

namespace Sys2Proof.Machine

/-! ### Order (08 R214) -/

/-- Whether an operation is a `pf` whose lines are on their way: it owes nothing. -/
def Op.prefetches (o : Op) : Bool := o.what.isLoad && !o.holds

/-- Whether an earlier access of the strand to the same bytes has still to take effect. `load` passes the strand's own
plain stores, whose data its die serves (10, accepted stores), but for die scratchpads (04 R89); stores of an open window keep
nothing waiting (log 25). -/
def strandHeld (s : State) (o : Op) (i : Nat) (a : Access) (load : Bool) : Bool :=
  s.mem.ops.any (fun p => p.owner == o.owner && decide (p.id < o.id) && !p.windowed
      && !(load && p.what.isStore && !dieSpace s a.fab) && !p.prefetches
      && p.accs.any (fun b => b.unordered && meets b.fab b.size a.fab a.size))
    || (o.accs.take i).any (fun b => b.unordered && meets b.fab b.size a.fab a.size)
    || s.engines.nears.any (fun c => c.owner == o.owner && decide (c.id < o.id) && !c.windowed && isLocal s a.fab
      && c.units.any (fun u => u.state == .waiting && ((unitsAt (fabLocal a.fab) a.size).contains (u.tgt / 256)
        || (!load && u.value.isNone && usesSrc c.op && (unitsAt (fabLocal a.fab) a.size).contains (u.src / 256)))))

/-- Whether an access may go to its home now. -/
def mayGo (s : State) (o : Op) (i : Nat) (a : Access) (load : Bool) : Bool :=
  a.state == .waiting && !o.gate && !o.windowed && !o.switchHeld && !strandHeld s o i a load
    && (load || !dieHeld s o.die o.id a.fab a.size)

/-! ### Performing writes -/

/-- An access whose write has been applied: performed at once, or when its parity delta is acknowledged (04 R106). -/
def wrote (op acc : Nat) (x : Nat) (delta : List Byte) (f : Access → Access) (s : State) : State :=
  modAcc op acc (fun a =>
    if hasParity s x then { f a with state := .applied, delta := delta } else { f a with state := .done }) (queueDelta op acc x s)

/-- Bytes written at their home by an access. -/
def homeWrite (op acc : Nat) (a : Access) (bs : List Byte) (f : Access → Access) (s : State) : State :=
  let x := fabLocal a.fab
  let delta := deltaOf s x bs
  wrote op acc x delta f (markModified (writeHome x bs s) x (a.wt || a.clevel == 2))

/-- `PARITY_DELTA_APPLY` (04 R106; 15 R377, R381, R382): the parity home applies the next delta of a unit, and the write is performed; a write to a
lost stack stands, but some requests have lost their reply. -/
def execParityDeltaApply (op acc : Nat) (s : State) : Out :=
  match deltaAt s (op, acc) with
  | some x => .next (if deltaRefused s x || deltaBehind s op acc x then s else settleOp op (deltaArrives (op, acc) s))
  | none => .next s

/-! ### Near copies -/

/-- The die's copy of a line replaced when the line is read at its home, if there is one (10 R295). -/
def replaceLine (die fab : Nat) (s : State) : State :=
  if (nearCopy? s die (fab / 128)).isSome then fillLine die fab s else s

/-! ### Loads -/

/-- A load's value: bytes with the die's accepted stores and the strand's own held ones over them. -/
def seen (s : State) (o : Op) (a : Access) (base : List Byte) : BitVec 128 :=
  BitVec.ofNat 128 (leNat (withAccepted s o.die (some o.owner) o.id a.fab base))

/-- The bytes of the die's near copy of an access. -/
def copyBytes (c : NearCopy) (a : Access) : List Byte := (c.bytes.drop (a.fab % 128)).take a.size

/-- The value of a thread's access, which the load's other accesses to the same bytes take too: all see one state of memory (08
R213). -/
def loadDone (op acc : Nat) (a : Access) (v : BitVec 128) : State → State :=
  modOp (fun o => { o with accs := o.accs.zipIdx.map (fun p =>
    if p.2 == acc || (p.1.unordered && a.kind != 5 && p.1.fab == a.fab && p.1.size == a.size)
    then { p.1 with state := .done, result := v } else p.1) }) op

/-- A load at the home in this package (04 R105, R107; 08 R215, R231; 15 R376–R378). -/
def loadHome (o : Op) (acc : Nat) (a : Access) (atPoint : Bool) (s : State) : State :=
  let x := fabLocal a.fab
  let combines := a.kind = 2
  if homeHeld s x a.size || (combines && writeHeld s x a.size) then s
  else if !ownServes s x then failAcc o.id acc .remoteFault s
  else if poisonedAt s x a.size then failAcc o.id acc .poison s
  else
    let s := if combines then combineLines x a.size s else s
    let v := seen s o a (memRead s.mem.bytes x a.size)
    let s := loadDone o.id acc a v s
    if atPoint then replaceLine o.die a.fab s
    else if copyable s o.die a.fab a.kind a.clevel && !a.stream then fillLine o.die a.fab s
    else s

/-- Whether an operation that would come to count in flight is held at the limit of 63 (02 R47). -/
def fetchHeld (s : State) (o : Op) : Bool := !o.remoteLoad && decide (63 ≤ inFlight s o.owner)

/-- Whether the die has taken a store to the bytes that is not yet applied: a load that leaves the package goes behind it (10,
accepted stores). -/
def storesAhead (s : State) (o : Op) (a : Access) : Bool :=
  s.mem.ops.any (fun p => p.die == o.die && decide (p.id < o.id) && p.what.isStore && !p.windowed
    && p.accs.any (fun b => b.accepted && meets b.fab b.size a.fab a.size))

/-- A load of a KIND 4 page: from the staged unit once it is present; one at the lender first writes DIRTY bytes back, then
takes the lender's value (08 R215; 11 R322). In LOST the lender cannot be read. -/
def loadStaged (o : Op) (acc : Nat) (a : Access) (atPoint : Bool) (s : State) : State :=
  let x := fabLocal a.fab
  let u := stageUnit s a.index a.fab
  let ask := fun (s : State) => fetchUnit a.index u (modAcc o.id acc (fun a => { a with state := .switched }) s)
  match (if atPoint || !(absentUnits s a.index a.fab a.size).isEmpty then leaseCause (borrowAt s a.index).state else none) with
  | some c => failAcc o.id acc c s
  | none =>
    if atPoint then
      if fetchHeld s o || storesAhead s o a then s
      else match stagedAt s a.index u with
        | .dirty _ _ _ _ => beginWriteback a.index u none false s
        | .writing _ _ _ _ _ _ => s
        | _ => ask (dropUnit a.index u s)
    else if (absentUnits s a.index a.fab a.size).isEmpty then
      if homeHeld s x a.size then s
      else if poisonedAt s x a.size then failAcc o.id acc .poison s
      else
        loadDone o.id acc a (seen s o a (memRead s.mem.bytes x a.size)) s
    else if fetchHeld s o then s
    else ask s

/-- Whether earlier accesses of the strand to MMIO pages keep one waiting (04 R101). -/
def mmioHeld (s : State) (o : Op) (i : Nat) : Bool :=
  s.mem.ops.any (fun p => p.owner == o.owner && decide (p.id < o.id) && p.accs.any (fun b => b.kind == 5 && b.unordered))
    || (o.accs.take i).any (fun b => b.unordered)

/-- A load at its home, here or in another package. -/
def loadAway (o : Op) (acc : Nat) (a : Access) (atPoint : Bool) (s : State) : State :=
  if isLocal s a.fab then loadHome o acc a atPoint s
  else if storesAhead s o a then s
  else sendAway o.id acc o.die (fabPkg a.fab) a.fab s

/-- A load on its way (08 R215). -/
def goLoad (o : Op) (acc : Nat) (a : Access) (atPoint : Bool) (s : State) : State :=
  if a.kind = 5 then
    if mmioHeld s o acc then s
    else
      let v := BitVec.ofNat 128 (mmioRead s (fabLocal a.fab) a.size)
      modAcc o.id acc (fun a => { a with state := .done, result := v }) { s with fresh := s.fresh + 1 }
  else if a.kind = 4 then loadStaged o acc a atPoint s
  else match (if atPoint then none else nearCopy? s o.die (a.fab / 128)) with
    | some c =>
      if copyable s o.die a.fab a.kind a.clevel then
        loadDone o.id acc a (seen s o a (copyBytes c a)) s
      else loadAway o acc a atPoint s
    | none => loadAway o acc a atPoint s

/-! ### Stores -/

/-- The poison of die-scratchpad words that one store instruction's accesses have written whole (15 R378). -/
def clearDieWords (op : Nat) (s : State) : State :=
  match findOp s op with
  | none => s
  | some o =>
    let done := o.accs.filter (fun a => !a.unordered && isLocal s a.fab)
    let places := done.map (fun a => (4, fabLocal a.fab))
    match done with
    | [] => s
    | a :: _ => if o.uniform then s else clearScratchPoison (coveredWords places a.size) s

/-- A store at its home in this package (04 R105, R106; 08 R217, R231); that of a `rel` replaces the die's near copy, which no
acceptance has updated (08 R214). -/
def storeHome (o : Op) (acc : Nat) (a : Access) (s : State) : State :=
  let x := fabLocal a.fab
  if writeHeld s x a.size then s
  else if !ownServes s x then failAcc o.id acc .remoteFault s
  else match zoneOf (isPlain s) x with
    | .die d =>
      if s.failure.fencedDies.contains d then failAcc o.id acc .poison s
      else clearDieWords o.id (homeWrite o.id acc a (leBytes a.size a.data.toNat) id s)
    | _ =>
      let s := if a.kind = 2 then combineLines x a.size s else s
      let s := homeWrite o.id acc a (leBytes a.size a.data.toNat) id s
      if o.what.isStore then s else replaceLine o.die a.fab s

/-- The cause of a store that an entry outside ACTIVE and RENEWING refuses (14 R358). -/
def storeCause (c : Cause) : Cause := if c = .lenderLost then .lenderLost else .leaseExpired

/-- A store to a KIND 4 page: to the staged units once they are present (11 R322). -/
def storeStaged (o : Op) (acc : Nat) (a : Access) (s : State) : State :=
  match leaseCause (borrowAt s a.index).state with
  | some c => failAcc o.id acc (storeCause c) s
  | none =>
    match absentUnits s a.index a.fab a.size with
    | [] =>
      if writeHeld s (fabLocal a.fab) a.size then s
      else dirtyBytes a.index a.fab a.size [o.owner] (homeWrite o.id acc a (leBytes a.size a.data.toNat) id s)
    | us =>
      if fetchHeld s o then s
      else us.foldl (fun s u => fetchUnit a.index u s) (modAcc o.id acc (fun a => { a with state := .switched }) s)

/-- A store on its way; a write of the doorbell window is a release at `sys` (03 R67). -/
def goStore (o : Op) (acc : Nat) (a : Access) (s : State) : State :=
  if a.kind = 5 then
    let x := fabLocal a.fab
    if mmioHeld s o acc || (zoneOf (isPlain s) x == .doorbell && !releaseReady s o.owner o.id .sys) then s
    else mmioWrite x a.size a.data.toNat (modAcc o.id acc (fun a => { a with state := .done }) s)
  else if a.kind = 4 then storeStaged o acc a s
  else if isLocal s a.fab then storeHome o acc a s
  else sendAway o.id acc o.die (fabPkg a.fab) a.fab s

/-- Whether an operation is a plain load. -/
def OpKind.plainLoad : OpKind → Bool
  | .load _ => true
  | _ => false

/-- `HOME_ACCESS` (04 R105): a load or store takes its place in the order of its bytes at their home. -/
def execHomeAccess (op acc : Nat) (s : State) : Out :=
  match findAcc s op acc with
  | none => .next s
  | some (o, a) =>
    match o.what with
    | .load _ | .loadv _ | .acq =>
      if mayGo s o acc a true then .next (goLoad o acc a (!o.what.plainLoad) s) else .next s
    | .store | .rel => if mayGo s o acc a false then .next (settleOp op (goStore o acc a s)) else .next s
    | _ => .next s

/-! ### Atomics (08 R222–R227) -/

/-- The new value of an atomic, if it writes, and the success of `abadd` (08 R223, R224). -/
def atomResult (fn : AtomFn) (bits old b d : Nat) : Option Nat × Bool :=
  let w := 2 ^ bits
  let pick := fun (p : Bool) => some (if p then old else b)
  match fn with
  | .add => (some ((old + b) % w), true)
  | .and => (some (old &&& b), true)
  | .or => (some (old ||| b), true)
  | .xor => (some (old ^^^ b), true)
  | .xchg => (some b, true)
  | .imin => (pick (decide (sgn bits old ≤ sgn bits b)), true)
  | .imax => (pick (decide (sgn bits b ≤ sgn bits old)), true)
  | .nmin => (pick (decide (old ≤ b)), true)
  | .nmax => (pick (decide (b ≤ old)), true)
  | .cas => (if old = d then some b else none, true)
  | .inc => (some (if b ≤ old then 0 else old + 1), true)
  | .badd => if old + b ≤ d then (some (old + b), true) else (none, false)
  | .fadd => (some (addNe fF32 old b), true)
  | .fmax => (some (fpMax fF32 false old b), true)
  | .faddBf16x2 =>
    (some (addNe fBF16 (old % 2 ^ 16) (b % 2 ^ 16) + 2 ^ 16 * addNe fBF16 (old / 2 ^ 16) (b / 2 ^ 16)), true)

/-- The atomic point of a line after an atomic of a core is sent to it, under a placement mode: 0 PREDICT, 1 NEAR, 2 FAR
(08 R226); the first acquisition of a line counts as a transfer (log 94). -/
def movePoint (s : State) (mode core line : Nat) : State :=
  let p := (s.mem.points.find? (fun p => p.line == line)).getD ⟨line, none, false, [], 0⟩
  let rest := s.mem.points.filter (fun p => p.line != line)
  let put := fun (p : Point) => { s with mem := { s.mem with points := rest ++ [p] } }
  if mode = 2 || (mode = 0 && p.far) then put { p with owner := none }
  else if p.owner = some core then s
  else
    let ts := p.transfers.filter (fun t => decide (s.tick.toNat < t.toNat + 1024)) ++ [s.tick]
    let far := mode = 0 && decide (4 ≤ ts.length)
    put { p with
      owner := if far then none else some core, far := far, transfers := if far then [] else ts, lastTransfer := s.tick }

/-- The value that an atomic of an operation works with. -/
def Op.atomic? (o : Op) : Option (AtomFn × Bool) :=
  match o.what with
  | .atomic fn wide => some (fn, wide)
  | .acqrel => some (.xchg, true)
  | _ => none

/-- An atomic at its point in this package. -/
def atomHome (o : Op) (acc : Nat) (a : Access) (fn : AtomFn) (s : State) : State :=
  let x := fabLocal a.fab
  if writeHeld s x a.size then s
  else if !ownServes s x then failAcc o.id acc .remoteFault s
  else if poisonedAt s x a.size then failAcc o.id acc .poison s
  else
    let s := if a.kind = 2 then combineLines x a.size s else s
    let s := if zoneOf (isPlain s) x = .hbm && a.kind != 2 && a.clevel != 2 then movePoint s o.mode o.core (x / 128)
             else s
    let old := memNat s.mem.bytes x a.size
    let r := atomResult fn (8 * a.size) old (a.data.toNat % 2 ^ (8 * a.size)) a.din.toNat
    let res := fun (a : Access) => { a with result := BitVec.ofNat 128 old, ok := r.2 }
    let s := match r.1 with
      | some v => homeWrite o.id acc a (leBytes a.size v) res s
      | none => modAcc o.id acc (fun a => { res a with state := .done }) s
    replaceLine o.die a.fab s

/-- `ATOMIC_AT_POINT` (08 R226): at the serving home for another package's line, at the lender for a KIND 4 page once the
unit's DIRTY bytes have been written back, and otherwise at the line's point in this package. -/
def execAtomicAtPoint (op acc : Nat) (s : State) : Out :=
  match findAcc s op acc with
  | none => .next s
  | some (o, a) =>
    match o.atomic? with
    | none => .next s
    | some (fn, _) =>
      if !mayGo s o acc a false then .next s
      else if a.kind = 4 then
        let u := stageUnit s a.index a.fab
        if (borrowAt s a.index).state == .lost then .next (failAcc op acc .lenderLost s)
        else match stagedAt s a.index u with
          | .dirty _ _ _ _ => .next (beginWriteback a.index u none false s)
          | .writing _ _ _ _ _ _ => .next s
          | _ => .next (sendAway op acc o.die (borrowAt s a.index).lender (lenderFab s a.index a.fab)
              (dropUnit a.index u s))
      else if isLocal s a.fab then .next (atomHome o acc a fn s)
      else .next (sendAway op acc o.die (fabPkg a.fab) a.fab s)

/-- `PREDICTOR_SWITCH_NEAR` (08 R226): 16,384 ticks without a transfer. -/
def execPredictorSwitchNear (line : Nat) (s : State) : Out :=
  match s.mem.points.find? (fun p => p.line == line) with
  | none => .next s
  | some p =>
    if p.far && decide (p.lastTransfer.toNat + 16384 ≤ s.tick.toNat) then
      .next { s with mem := { s.mem with
        points := s.mem.points.map (fun q => if q.line == line then { q with far := false } else q) } }
    else .next s

/-! ### Deposits (08 R228–R231) -/

/-- A deposit combined into its holder's partial. -/
def addPartial (core x : Nat) (fmt : CFmt) (isMax wt : Bool) (v : Nat) (s : State) : State :=
  let mine := fun (p : Partial) => p.addr == x && p.core == core && p.fmt == fmt && p.isMax == isMax
  let old := match s.mem.partials.find? mine with
    | some p => (p.value, p.wt)
    | none => (identityOf isMax, true)
  let p : Partial := ⟨x, core, fmt, isMax, BitVec.ofNat 32 (combine fmt isMax old.1.toNat v), old.2 && wt⟩
  { s with mem := { s.mem with partials := s.mem.partials.filter (fun p => !mine p) ++ [p] } }

/-- `CADD_DEPOSIT` (08 R230, R240): into the holder's partial, and the die keeps no older near copy of the line, so that the
strand's next load finds its deposit (08 R214); at the home at once while a watch is armed on the line, and
at the serving home of another package's frame (log 56). -/
def execCaddDeposit (op acc : Nat) (s : State) : Out :=
  match findAcc s op acc with
  | none => .next s
  | some (o, a) =>
    match o.what with
    | .cadd fmt isMax =>
      let x := fabLocal a.fab
      if !mayGo s o acc a false then .next s
      else if !isLocal s a.fab then .next (sendAway op acc o.die (fabPkg a.fab) a.fab s)
      else if lineWatched s x then
        if writeHeld s x a.size then .next s
        else
          let s := combineLine x s
          let n := cfmtSize fmt
          .next (settleOp op (homeWrite op acc a (leBytes n (combine fmt isMax (memNat s.mem.bytes x n) a.data.toNat)) id
            (dropCopy o.die (a.fab / 128) s)))
      else
        .next (settleOp op (modAcc op acc (fun a => { a with state := .done })
          (addPartial o.core x fmt isMax (a.wt || a.clevel == 2) (a.data.toNat % 2 ^ 32) (dropCopy o.die (a.fab / 128) s))))
    | _ => .next s

/-! ### Decide-once cells (08 R232–R235) -/

/-- What a request finds at a cell: VALUE, status and GEN of the reply, and the cell's new 16 bytes if it writes. -/
structure CellReply where
  value : Nat
  status : Nat
  gen : Nat
  write : Option (List Byte)
  deriving DecidableEq, Repr

/-- A decide-once request at the home of its cell (08 R233, R234); none for a reserved STATE. `who` is WPKG and WID. -/
def cellRequest (s : State) (x : Nat) (what : OpKind) (value e who : Nat) : Option CellReply :=
  let v := memNat s.mem.bytes x 8
  let h := memNat s.mem.bytes (x + 8) 8
  let st := field h 63 62
  let gen := field h 61 32
  if 2 ≤ st then none
  else
    some (match what with
      | .docProp =>
        if e ≠ gen then ⟨0, 2, gen, none⟩
        else if st = 1 then ⟨v, 1, gen, none⟩
        else ⟨value, 0, gen, some (leBytes 8 value ++ leBytes 8 (2 ^ 62 + gen * 2 ^ 32 + who))⟩
      | .docRead => if e ≠ gen then ⟨0, 2, gen, none⟩ else if st = 1 then ⟨v, 0, gen, none⟩ else ⟨0, 1, gen, none⟩
      | .docReset =>
        if e ≠ gen then ⟨0, 2, gen, none⟩
        else if st = 0 then ⟨0, 1, gen, none⟩
        else
          let g := (gen + 1) % 2 ^ 30
          ⟨0, 0, g, some (leBytes 8 0 ++ leBytes 8 (g * 2 ^ 32))⟩
      | _ => ⟨v, st, gen, none⟩)

/-- A reply's quad of registers (08 R233). -/
def cellResult (r : CellReply) : BitVec 128 := BitVec.ofNat 128 (r.value + r.status * 2 ^ 64 + r.gen * 2 ^ 96)

/-- `DOC_CELL_REQUEST` (08 R234, R235; 15 R398): a `dread` whose pair the die holds is answered from that copy; every other
request is performed at the cell's home. -/
def execDocCellRequest (op acc : Nat) (s : State) : Out :=
  match findAcc s op acc with
  | none => .next s
  | some (o, a) =>
    match o.what with
    | .docProp | .docRead | .docReset | .docStat =>
      let e := a.din.toNat % 2 ^ 30
      let x := fabLocal a.fab
      if !mayGo s o acc a false then .next s
      else match (if o.what = .docRead then docCopy? s o.die a.fab e else none) with
        | some c =>
          let r : BitVec 128 := BitVec.ofNat 128 (c.value.toNat + e * 2 ^ 96)
          .next (modAcc op acc (fun a => { a with state := .done, result := r }) s)
        | none =>
          if !isLocal s a.fab then .next (sendAway op acc o.die (fabPkg a.fab) a.fab s)
          else if writeHeld s x 16 then .next s
          else if !ownServes s x then .next (failAcc op acc .remoteFault s)
          else if poisonedAt s x 16 then .next (failAcc op acc .poison s)
          else
            let who := match findStrand s o.owner with
              | some st => winnerId s st
              | none => pkgNo s * 2 ^ 16
            match cellRequest s x o.what (a.data.toNat % 2 ^ 64) e who with
            | none => .next (failAcc op acc .docMisuse s)
            | some r =>
              let res := fun (a : Access) => { a with result := cellResult r }
              let s := match r.write with
                | some bs => homeWrite op acc a bs res s
                | none => modAcc op acc (fun a => { res a with state := .done }) s
              .next (replaceLine o.die a.fab s)
    | _ => .next s

/-- The decided pairs that the replies of a decide-once instruction leave in the die (08 R235). -/
def keepPairs (o : Op) (s : State) : State :=
  o.accs.foldl (fun s a =>
    let status := a.result.toNat / 2 ^ 64 % 2 ^ 32
    let keeps := a.state == .done && (match o.what with
      | .docProp => status == 0 || status == 1
      | .docRead => status == 0
      | _ => false)
    let c : DocCopy := ⟨o.die, a.fab, a.result.toNat / 2 ^ 96 % 2 ^ 30, BitVec.ofNat 64 a.result.toNat⟩
    if keeps && !s.mem.docs.contains c then { s with mem := { s.mem with docs := s.mem.docs ++ [c] } } else s) s

/-! ### Releases (08 R219, R221; 10 R297–R299) -/

/-- Whether a `pod` release is taken over by the package switch: its object lies in another package (10 R298). -/
def takenOver (s : State) (o : Op) : Bool :=
  o.scope == .pod && (match o.what with
    | .fence => false
    | _ => !o.accs.isEmpty && o.accs.all (fun a => !isLocal s a.fab))

/-- `RELEASE_PERFORM` (08 R219, R221; 10 R298; 11 R323): once everything earlier is complete and performed as its scope
needs, a release goes on; a `fence` is over, and acts as an acquire on its universal object. -/
def execReleasePerform (op : Nat) (s : State) : Out :=
  match findOp s op with
  | none => .next s
  | some o =>
    let far := takenOver s o
    let staged := o.scope == .pod || o.scope == .sys
    if !o.gate then .next s
    else if staged && stagedOwed s o.owner && s.mem.staged.any (fun p => match p.2 with
        | .dirty _ _ _ _ => owesUnit s o.owner p.2 && (borrowAt s (p.1 / 2 ^ 23)).state != .lost
        | _ => false) then .next (writeBackFor o.owner s)
    else if (staged && stagedOwed s o.owner) || !releaseReady s o.owner op (if far then .pkg else o.scope) then .next s
    else match o.what with
      | .fence =>
        let ctx := match findStrand s o.owner with
          | some st => st.who.context
          | none => 0
        .next (acquireDrops o.die ctx none o.scope (reap o.owner (dropOp op s)))
      | .service _ _ => .next s
      | _ => .next (modOp (fun o => { o with gate := false, switchHeld := far }) op s)

/-- The posted writes of this package that have left and are not yet acknowledged: stores and deposits of strands, writes of
copy engines, and write-backs of staged units (10 R298; 11 R323). -/
def postedOut (s : State) : Nat :=
  (s.mem.staged.filter (fun p => p.2.leaving && (borrowAt s (p.1 / 2 ^ 23)).state != .lost)).length
    + s.engines.copies.foldl (fun n c => n + c.unacked.length) 0
    + s.mem.ops.foldl (fun n o => if o.what.posted then
    n + (o.accs.filter (fun a => a.state == .switched && !isLocal s a.fab)).length else n) 0

/-- `SWITCH_RELEASE_FORWARD` (10 R298; 11 R332): the switch forwards a held `pod` release, behind its FENCE with HOPS raised to 1, once
every posted write it has forwarded is acknowledged. -/
def execSwitchReleaseForward (op : Nat) (s : State) : Out :=
  match findOp s op with
  | none => .next s
  | some o =>
    if !o.switchHeld || postedOut s != 0 then .next s
    else
      let dest := (o.accs.head?.map (fun a => fabPkg a.fab)).getD (pkgNo s)
      let s := sendTo dest (.fenceMsg (fenceBytes ⟨op % 2 ^ 16, 1, pkgNo s, 1, dest⟩)) (modOp (fun o => { o with switchHeld := false }) op s)
      .next (settleOp op (o.accs.zipIdx.foldl (fun s x => sendAway op x.2 o.die (fabPkg x.1.fab) x.1.fab s) s))

/-! ### Replies (14 R347–R349; 16 R414) -/

/-- A reply of another package taken by the access it answers. Another reply for the line that is still on its way to the die brings no
copy then: it may be older (10 R295). -/
def takeReply (op : Nat) (s : State) (r : RemoteReply) : State :=
  match findAcc s op r.acc with
  | none => s
  | some (o, a) =>
    let follower := match o.shared with
      | some (_, later) => later
      | none => false
    let away := !isLocal s a.fab || (a.kind == 4 && (match o.what with
      | .atomic _ _ | .acqrel | .watch _ _ _ => true
      | _ => false))
    if a.state != .switched || follower || !away then s
    else match (if peerMmio a.fab && a.kind != 4 then some Cause.remoteFault else r.fault) with
      | some c => failAcc op r.acc c s
      | none =>
        let late := s.mem.late.contains (op, r.acc)
        let s := if o.what.isLoad then loadDone op r.acc a (seen s o a (leBytes a.size r.value.toNat)) s
                 else modAcc op r.acc (fun a => { a with state := .done, result := r.value, ok := r.value.getLsbD 64 }) s
        if a.kind = 4 then s
        else
          let got := leBytes a.size r.value.toNat
          let line := peek s (a.fab / 128 * 128) 128
          let whole := overlay line ((a.fab % 128 : Nat) : Int) got
          let tick := if s.tick.toNat < r.supplied.toNat then s.tick else if r.supplied.toNat < a.sent.toNat then a.sent else r.supplied
          let s := lateLoads o.die (fun l => l == a.fab / 128) { s with mem := { s.mem with
            late := s.mem.late.filter (fun x => x != (op, r.acc)) } }
          match o.what with
          | .load _ =>
            if copyable s o.die a.fab a.kind a.clevel && !a.stream then keepFar late o.die (a.fab / 128) whole tick s
            else if late then dropCopy o.die (a.fab / 128) s else s
          | .loadv _ | .acq => if (nearCopy? s o.die (a.fab / 128)).isSome then keepFar late o.die (a.fab / 128) whole tick s else s
          | .rel | .atomic _ _ | .acqrel | .docProp | .docReset | .cadd _ _ => dropCopy o.die (a.fab / 128) s
          | _ => s

/-- The later twin takes the results of the operation that the other one sent (16 R414). -/
def takeShared (op : Nat) (s : State) : State :=
  match findOp s op with
  | none => s
  | some o =>
    match o.shared with
    | some (k, true) =>
      (match s.mem.shared.find? (fun x => x.1 == twinOf o.owner && x.2.1 == k) with
       | none => s
       | some x =>
         let s := { s with mem := { s.mem with shared := dropFirst (fun y => y == x) s.mem.shared } }
         modOp (fun o => { o with accs := o.accs.zipIdx.map (fun p => match x.2.2[p.2]? with
           | some b => { p.1 with state := if b.state == .applied then .done else b.state, result := b.result, ok := b.ok }
           | none => p.1) }) op s)
    | _ => s

/-- The results of an operation that a twin sent are kept for the other one. -/
def leaveShared (o : Op) (s : State) : State :=
  match o.shared with
  | some (k, false) => { s with mem := { s.mem with shared := s.mem.shared ++ [(o.owner, k, o.accs)] } }
  | _ => s

/-- Whether a strand is out of residency (02 R50). -/
def awayStrand (s : State) (id : StrandId) : Bool := s.work.evicted.any (fun e => e.strands.contains id)

/-- `REPLY_ARRIVE` (14 R348, R349; 09 R277; 11 R326, R330): replies of other packages to an instruction, a copy command, a hub slot's
watch or the elector are taken; once every answer of an instruction is there, its
registers are written or its cause is raised. No reply of a lost stack's home is accepted (15 R381), and the answer to a strand
out of residency waits for its return (02 R50; log 29). -/
def execReplyArrive (op : Nat) (replies : List RemoteReply) (s : State) : Out :=
  let s := replies.foldl (electReply op) (replies.foldl (hubReplied op) (replies.foldl (ackCopy op) s))
  let s := takeShared op (replies.foldl (takeReply op) s)
  match findOp s op with
  | none => .next s
  | some o =>
    let cut := o.accs.any (fun a => a.state == .applied && isLocal s a.fab && unsettledAt s (fabLocal a.fab))
    if awayStrand s o.owner then .next s
    else if o.holds && !o.gate && !o.accs.isEmpty && o.accs.all o.answered && !cut then
      .next (answerOp op (leaveShared o (keepPairs o s)))
    else .next (settleOp op s)

/-! ### Staged units (11 R322, R323; 15 R379, R426) -/

/-- The accesses that wait for a unit of a staging frame. -/
def waitsUnit (s : State) (borrow unit : Nat) (o : Op) (a : Access) : Bool :=
  a.kind == 4 && a.state == .switched && a.index == borrow && (match o.what with
    | .load _ | .loadv _ | .acq | .store | .rel => true
    | _ => false)
    && (let u := stageUnit s borrow a.fab
        (List.range ((a.fab + a.size - 1) / 256 + 1 - a.fab / 256)).any (fun i => u + i == unit))

/-- The accesses that a fetched unit serves: a load at the lender takes its value, the others go on. -/
def serveFetched (borrow unit : Nat) (s : State) : State :=
  s.mem.ops.foldl (fun s o =>
    o.accs.zipIdx.foldl (fun s x =>
      let a := x.1
      if !waitsUnit s borrow unit o a || !(absentUnits s borrow a.fab a.size).isEmpty then s
      else match o.what with
        | .loadv _ | .acq =>
          loadDone o.id x.2 a (seen s o a (memRead s.mem.bytes (fabLocal a.fab) a.size)) s
        | _ => modAcc o.id x.2 (fun a => { a with state := .waiting }) s) s) s

/-- `STAGED_UNIT_FETCHED` (11 R322; 15 R379, R426): an ABSENT unit becomes CLEAN, its age counted from the tick at which the
lender supplied it; a refused fetch leaves it ABSENT and fails what waits for it; a fetch that was overtaken is made again. -/
def execStagedUnitFetched (borrow unit : Nat) (reply : FetchReply) (s : State) : Out :=
  match stagedAt s borrow unit with
  | .fetching stale =>
    let dead := leaseCause (borrowAt s borrow).state
    (match (match reply.fault with
      | some c => some (dead.getD c)
      | none => dead) with
     | some c =>
       let s := setStaged borrow unit .absent { s with work := { s.work with cpUnits := s.work.cpUnits.map (fun u =>
         if u.1 == borrow && u.2.1 == unit then (borrow, unit, true) else u) } }
       let s := s.mem.ops.foldl (fun s o => o.accs.zipIdx.foldl (fun s x =>
         if waitsUnit s borrow unit o x.1 then failAcc o.id x.2 (if o.what.posted && dead.isSome then storeCause c else c) s else s) s) s
       .next ((s.engines.copies.filter (copyWaits s borrow unit)).foldl (fun s k => failCopy k.id (some borrow) c s) s)
     | none =>
       if stale then .next (fetchUnit borrow unit (setStaged borrow unit .absent s))
       else
         let bs := (List.range 256).map (fun i => reply.data.getD i 0)
         let tick := if s.tick.toNat < reply.supplied.toNat then s.tick else reply.supplied
         let s := setStaged borrow unit (.clean tick) (poke (stageAddr s borrow unit) bs s)
         .next (serveFetched borrow unit { s with work := { s.work with
           cpUnits := s.work.cpUnits.filter (fun u => !(u.1 == borrow && u.2.1 == unit)) } }))
  | _ => .next s

/-- `STAGED_UNIT_AGE_OUT` (11 R322): a CLEAN unit becomes ABSENT 131,072 ticks after its fetch; not in LOST. -/
def execStagedUnitAgeOut (borrow unit : Nat) (s : State) : Out :=
  match stagedAt s borrow unit with
  | .clean t =>
    if decide (t.toNat + 131072 ≤ s.tick.toNat) && (borrowAt s borrow).state != .lost then
      .next (setStaged borrow unit .absent s)
    else .next s
  | _ => .next s

/-- `STAGED_WRITEBACK_BEGIN` (11 R323): the write-back of a DIRTY unit begins. -/
def execStagedWritebackBegin (borrow unit : Nat) (s : State) : Out :=
  let st := (borrowAt s borrow).state
  match stagedAt s borrow unit with
  | .dirty _ _ by_ _ =>
    if st == .lost || st == .recalled || st == .releasing then .next s
    else
      let begun := by_.find? (fun id => (opsOf s id).any (fun o => o.gate && (o.scope == .pod || o.scope == .sys))
        || (match findStrand s id with
            | some st => st.writeBack.contains borrow || st.all.isEmpty
            | none => false))
      .next (beginWriteback borrow unit begun false s)
  | _ => .next s

/-- The report of a refused write-back that the engines began on their own (11 R323, 14 R359). -/
def writebackEntry (s : State) (borrow unit : Nat) (c : Cause) : FaultEntry :=
  { cause := causeCode c, detail := 0, flags := BitVec.ofNat 32 (2 ^ 20), handle := 0, strand := 0, whereW := 0,
    tmask := 0, epc := 0, addr := fabOf s (stageAddr s borrow unit), arg := BitVec.ofNat 64 borrow, func := 0, parks := none,
    em := .zero, disp := none }

/-- An entry that waited for its last write-back goes on (11 R318; log 70). -/
def endWriteback (borrow : Nat) (s : State) : State :=
  let x := borrowAt s borrow
  if x.state == .releasing && !writingBack s borrow then sendTo x.lender (.release x.lender x.leaseId) s else finishRecall borrow s

/-- A write-back that is refused: the unit stays DIRTY, and the refusal is reported as what began it asks (11 R323; 14 R358). -/
def refuseWriteback (borrow unit : Nat) (c : Cause) (s : State) : State :=
  match stagedAt s borrow unit with
  | .writing sent since t _ begun _ =>
    let s := setStaged borrow unit (.dirty t (merge sent since) [] s.tick) s
    endWriteback borrow (match begun with
      | some id => postedFailure id c (fabOf s (stageAddr s borrow unit)) borrow s
      | none => writeFault (writebackEntry s borrow unit c) s)
  | _ => s

/-- `STAGED_WRITEBACK_ACK` (11 R323): the unit becomes CLEAN, or stays DIRTY with what was stored since, which a recall or release
of the entry writes back at once; a unit that an acquire has dropped goes on to be ABSENT (10 R306). Refused, it stays
DIRTY and the refusal is reported. -/
def execStagedWritebackAck (borrow unit : Nat) (refused : Bool) (s : State) : Out :=
  match stagedAt s borrow unit with
  | .writing _ since t by_ _ drop =>
    if (borrowAt s borrow).state == .lost then .next s
    else if refused then .next (refuseWriteback borrow unit .leaseExpired s)
    else
      let x := (borrowAt s borrow).state
      let s := setStaged borrow unit (if !since.isEmpty then .dirty t since by_ s.tick else if drop then .absent else .clean t) s
      let s := endWriteback borrow
        (if !since.isEmpty && (x == .recalled || x == .releasing) then beginWriteback borrow unit none drop s else s)
      .next (if !drop then s
        else if !since.isEmpty then beginWriteback borrow unit none true s
        else if s.mem.ops.any (fun o => o.accs.any (waitsUnit s borrow unit o)) then fetchUnit borrow unit s
        else s)
  | _ => .next s

/-- `BACK_INVALIDATE` (11 R323): a CLEAN unit is dropped; a DIRTY one is written back first. -/
def execBackInvalidate (borrow unit : Nat) (s : State) : Out :=
  if (borrowAt s borrow).state == .lost then .next s
  else match stagedAt s borrow unit with
    | .clean _ | .fetching _ => .next (dropUnit borrow unit s)
    | _ => .next (beginWriteback borrow unit none true s)

/-! ### Copies in the L2 -/

/-- `NEAR_COPY_AGE_OUT` (04 R102): 32,768 ticks after its fill. -/
def execNearCopyAgeOut (die line : Nat) (s : State) : Out :=
  .next { s with mem := { s.mem with copies := s.mem.copies.filter (fun c =>
    !(c.die == die && c.line == line && decide (c.tick.toNat + 32768 ≤ s.tick.toNat))) } }

/-- `LINE_EVICTION` (04 R103; 08 R235): a die's L2 evicts a line: a near copy or decide-once pairs are dropped, a modified
line is written to HBM. -/
def execLineEviction (die line : Nat) (s : State) : Out :=
  .next { s with mem := { s.mem with
    copies := s.mem.copies.filter (fun c => !(c.die == die && c.line == line)),
    docs := s.mem.docs.filter (fun c => !(c.die == die && c.cell / 128 == line)),
    modified := s.mem.modified.filter (fun p => !(p.1 == die && pkgNo s * 2 ^ 36 + p.2 == line)) } }

end Sys2Proof.Machine
end

