-- ==== Sys2Proof/Machine/Outer.lean ====
section
/-! DEFINITION. Requests from outside the compute dies: peer packages, hub cores and endpoints, and the fence-count messages
of the switches (04 R92; 08 R232–R241; 10 R298, R311, R312; 11 R316, R332, R333; 15 R394, R395). -/

namespace Sys2Proof.Machine

/-- What a home makes of a request. -/
inductive Served where
  /-- it waits at the home -/
  | held
  | refused (c : Cause)
  | answer (value : BitVec 128) (after : State)
  /-- a watch, armed -/
  | armed (after : State)
  deriving DecidableEq, Repr

/-- The format and reduction of a deposit, as its request carries them: bits 2:1 FMT, bit 3 RED (08 R228, log 27). -/
def depositFmt (n : Nat) : CFmt := if n / 2 % 4 = 0 then .f32 else if n / 2 % 4 = 1 then .bf16 else if n / 2 % 4 = 2 then .f16 else .i32

/-- A write of a request at its home. -/
def outerWrite (x : Nat) (bs : List Byte) (s : State) : State := markModified (poke x bs s) x false

/-- A decide-once request that another agent sends. -/
def outerCell (what : OpKind) (r : OuterReq) (s : State) : Served :=
  match cellRequest s r.addr what (r.data.toNat % 2 ^ 64) (r.din.toNat % 2 ^ 30) r.who.toNat with
  | none => .refused .docMisuse
  | some c => .answer (cellResult c) (match c.write with
      | some bs => outerWrite r.addr bs s
      | none => s)

/-- Whether a request does more than read its word. -/
def outerWrites : OuterKind → Bool
  | .store | .sc | .deposit | .atomic _ | .docProp | .docReset => true
  | _ => false

/-- Whether it needs the word's bytes as they stand. -/
def outerReads : OuterKind → Bool
  | .store | .sc | .deposit => false
  | _ => true

/-- The message that a watch entry of a package is given up, or that its strand has moved: from then on the entry answers to that
message (02 R50; 08 R239–R241; log 29). -/
def peerWatch (tag : ReqTag) (entry : Nat) (moved : Option Word) (s : State) : State :=
  match tget? s.mem.watches entry with
  | some e =>
    (match e.who with
     | .peer t hub _ =>
       if t.pkg != tag.pkg then s
       else { s with mem := { s.mem with watches := tset s.mem.watches entry (moved.map (fun w => { e with who := .peer tag hub w })) } }
     | _ => s)
  | none => s

/-- A request performed at its home; `src` and the lease it carries name the borrower, `watcher` who receives the reply of a watch,
`hart` the hub core that reserves a line (log 84). An ordinary access combines its line first; a
deposit does not (08 R231). -/
def serveOuter (src : Nat) (watcher : Option Watcher) (hart : Option Nat) (r : OuterReq) (s : State) : Served :=
  let x := r.addr
  let deadDie := match zoneOf (isPlain s) x with
    | .die d => s.failure.fencedDies.contains d
    | _ => false
  if zoneOf (isPlain s) x = .unbacked || s.mem.mode = .fenced then .refused .remoteFault
  else if !lenderServes s src r.leaseId x then .refused (if r.leaseId = 0 then .remoteFault else .leaseExpired)
  else if homeHeld s x r.size || (outerWrites r.kind && writeHeld s x r.size) then .held
  else if deadDie || (outerReads r.kind && poisonedAt s x r.size) then .refused .poison
  else
    let s := if r.kind = .deposit then s else combineLines x r.size s
    let old := memNat s.mem.bytes x r.size
    let b := r.data.toNat % 2 ^ (8 * r.size)
    match r.kind with
    | .load => .answer (BitVec.ofNat 128 old) s
    | .store =>
      let s := outerWrite x (leBytes r.size b) s
      .answer 0 (if r.whole then clearScratchPoison [(4, x / 32)] s else s)
    | .lr =>
      (match hart with
       | none => .refused .remoteFault
       | some h => .answer (BitVec.ofNat 128 old) { s with mem := { s.mem with
           reserved := s.mem.reserved.filter (fun p => p.1 != h) ++ [(h, x / 128)] } })
    | .sc =>
      (match hart with
       | none => .refused .remoteFault
       | some h =>
         let mine := s.mem.reserved.contains (h, x / 128)
         let s := { s with mem := { s.mem with reserved := s.mem.reserved.filter (fun p => p.1 != h) } }
         if mine then .answer 0 (outerWrite x (leBytes r.size b) s) else .answer 1 s)
    | .atomic fn =>
      let res := atomResult fn (8 * r.size) old b r.din.toNat
      .answer (BitVec.ofNat 128 (old + flag res.2 * 2 ^ 64)) (match res.1 with
        | some v => outerWrite x (leBytes r.size v) s
        | none => s)
    | .deposit =>
      let n := cfmtSize (depositFmt r.din.toNat)
      let v := combine (depositFmt r.din.toNat) (bit r.din.toNat 3) (memNat s.mem.bytes x n) (r.data.toNat % 2 ^ (8 * n))
      .answer 0 (outerWrite x (leBytes n v) s)
    | .watch cmp wide deadline =>
      (match watcher with
       | none => .refused .remoteFault
       | some w =>
         match decideWatch w cmp wide deadline (BitVec.ofNat 64 (r.data.toNat % 2 ^ (8 * watchSize wide)))
             (pkgNo s * 2 ^ 43 + x) s with
         | (some status, s') =>
           (match w with
            | .peer _ true _ => if status = 0 && unitPending s' x then .armed (oweHub w x s') else .answer (BitVec.ofNat 128 status) s'
            | _ => .answer (BitVec.ofNat 128 status) s')
         | (none, s') => .armed s')
    | .docProp => outerCell .docProp r s
    | .docRead => outerCell .docRead r s
    | .docReset => outerCell .docReset r s
    | .docStat => outerCell .docStat r s
    | .watchFree _ | .watchMove _ | .reply _ => .answer 0 s

/-! ### Peer packages (04 R92; 15 R394, R395) -/

/-- A request taken into its home's duplicate filter. -/
def takeTag (tag : ReqTag) (home : Nat) (s : State) : State :=
  { s with links := { s.links with
      filter := s.links.filter.filter (fun e => !e.holds tag home) ++ [⟨tag, home, 0, none, false⟩] } }

/-- The entry of a request that its home has taken already. -/
def seenTag (s : State) (tag : ReqTag) (home : Nat) : Option FilterEntry :=
  s.links.filter.find? (fun e => e.home == home && e.tag == tag)

/-- A posted write of another package, forwarded and not yet answered, counts for the fences of its source (10
R298). -/
def countPosted (tag : ReqTag) (req : OuterReq) (dest : Nat) (held : Bool) (s : State) : State :=
  let posted := match req.kind with
    | .store | .deposit => true
    | _ => false
  let rest := s.links.unacked.filter (fun t => t.1 != tag)
  { s with links := { s.links with unacked := if held && posted then rest ++ [(tag, dest)] else rest } }

/-- Whether a `pod` release is held behind a FENCE that this switch still holds (11 R332). -/
def behindFence (s : State) (tag : ReqTag) (req : OuterReq) : Bool :=
  match req.fence with
  | some t => s.links.heldFences.any (fun m => m.src == tag.pkg && m.tag == t)
  | none => false

/-- A request or reply of another package that the switch routes onwards; its posted writes count for the fences of their source
until their answers have passed back (10 R298; 11 R331). -/
def forwardTransit (tag : ReqTag) (req : OuterReq) (pkg : Nat) (s : State) : State :=
  match req.kind with
  | .reply fault =>
    sendTo pkg (.transitReply tag req.data fault) { s with links := { s.links with unacked := s.links.unacked.filter (fun t => t.1 != tag) } }
  | _ =>
    if !reaches s pkg then sendTo tag.pkg (.remoteFault tag .remoteFault) s
    else if linkFull s pkg then s
    else sendTo pkg (.transit tag req) (countPosted tag req pkg true s)

/-- A request of another package at its home here; one already taken is not applied again (15 R394, R395). -/
def servePeer (tag : ReqTag) (req : OuterReq) (s : State) : State :=
  let h := homeNo s req.addr
  let watcher := Watcher.peer tag (bit req.din.toNat 0) req.who
  let serve := fun (_ : Unit) =>
    if isMmio s req.addr then replyPeer tag h 0 (some .remoteFault) (takeTag tag h s)
    else match serveOuter tag.pkg (some watcher) none req s with
      | .held => countPosted tag req (pkgNo s) true s
      | .refused c => replyPeer tag h 0 (some c) (takeTag tag h (countPosted tag req (pkgNo s) false s))
      | .answer v t => replyPeer tag h v none (takeTag tag h (countPosted tag req (pkgNo s) false t))
      | .armed t => takeTag tag h t
  match seenTag s tag h with
  | none => serve ()
  | some e =>
    if req.kind = .load then serve ()
    else if e.replied then replyPeer tag h e.reply e.fault s
    else s

/-- `CXL_MEM_REQUEST` (04 R92; 10 R298; 11 R316, R331, R332; 15 R394, R395): a request of another package, for a home here or for a
third package; a release behind a FENCE that is held waits. -/
def execCxlMemRequest (tag : ReqTag) (req : OuterReq) (s : State) : Out :=
  if behindFence s tag req then .next s
  else match req.dest with
    | some pkg => .next (forwardTransit tag req pkg s)
    | none =>
      match req.kind with
      | .watchFree entry => .next (peerWatch tag entry none s)
      | .watchMove entry =>
        let e := tget? s.mem.watches entry
        let h := homeNo s (match e with
          | some e => fabLocal e.addr
          | none => 0)
        .next (takeTag tag h (peerWatch tag entry (some req.who) s))
      | .reply _ => .next s
      | _ => .next (servePeer tag req s)

/-! ### Hub cores and endpoints (10 R311, R312; 11 R333) -/

/-- The identity that a hub core writes into a cell (08 R232). -/
def hubId (s : State) (hart : Nat) : Word := BitVec.ofNat 32 (pkgNo s * 2 ^ 16 + 2 ^ 15 + 0xFF * 2 ^ 7 + hart)

/-- `HUB_CORE_ACCESS` (08 R232; 10 R311; 11 R329): a hub core's access is served at the home agents, or, in machine or supervisor
mode and with 4 or 8 aligned bytes, at the MMIO ranges; each is performed before the hart's next (log 84). -/
def execHubCoreAccess (who : HubHart) (req : OuterReq) (s : State) : Out :=
  let hart := who.hart
  if isMmio s req.addr then
    if who.user || !(req.size = 4 || req.size = 8) || req.addr % req.size ≠ 0 then .next (send (.hubFault hart .protection) s)
    else match req.kind with
    | .load =>
      .next (send (.hubReply hart (BitVec.ofNat 128 (mmioRead s req.addr req.size))) { s with fresh := s.fresh + 1 })
    | .store =>
      .next (send (.hubReply hart 0) (after s (execRegisterWrite req.addr req.size (BitVec.ofNat 64 req.data.toNat) s)))
    | _ => .next (send (.hubFault hart .remoteFault) s)
  else match serveOuter (pkgNo s) none (some hart) { req with who := hubId s hart } s with
    | .held => .next s
    | .refused c => .next (send (.hubFault hart c) s)
    | .answer v t => .next (send (.hubReply hart v) t)
    | .armed t => .next t

/-- `ENDPOINT_DMA` (10 R312; 11 R333): a read or write of an endpoint on a flex port in service, taken through the IOMMU by the device
context of its port and served at the home agents, never at the MMIO ranges; or a message-signalled interrupt, which goes to the
hub cores. What the IOMMU makes of an address is free (log 87). -/
def execEndpointDma (port : Nat) (req : OuterReq) (s : State) : Out :=
  let p := vget s.links.ports port .untrained
  if !p.endpoint || !p.up || p.retraining then .next s
  else
  let n := s.fresh
  let s := { s with fresh := n + 1 }
  if req.kind = .store && Config.isMsi n port req.addr then
    .next (sendTo (512 + port) (.dmaReply port 0)
      (send (.interrupt (BitVec.ofNat 64 req.addr) (BitVec.ofNat 32 req.data.toNat)) s))
  else match Config.iommu n port req.addr with
  | none => .next (sendTo (512 + port) (.dmaFault port .protection) s)
  | some x =>
  let req := { req with addr := x }
  if isMmio s req.addr || !(req.kind = .load || req.kind = .store) then .next (sendTo (512 + port) (.dmaFault port .remoteFault) s)
  else match serveOuter (pkgNo s) none none req s with
    | .held => .next s
    | .refused c => .next (sendTo (512 + port) (.dmaFault port c) s)
    | .answer v t => .next (sendTo (512 + port) (.dmaReply port v) t)
    | .armed t => .next t

/-! ### Routes (01 R20; 11 R332; 15 R393, R396) -/

/-- Whether some port in service leads to a package. -/
def hasRoute (s : State) (pkg : Nat) : Bool := (outPort s pkg).isSome

/-- The packages that this one knows of, admitted or named as anchors by the boot configuration, and without a route, each with the
tick at which its last route went (11 R326; 15 R396). -/
def recomputeRoutes (s : State) : State :=
  let known := (merge s.links.admitted s.lending.anchors).filter (fun q => q != s.boot.pkg.getD (s.boot.slot % 512) && !s.links.lostPeers.contains q)
  let cut := known.filter (fun q => !hasRoute s q)
  { s with links := { s.links with noRoute := cut.map (fun q =>
      (q, match s.links.noRoute.find? (fun p => p.1 == q) with
          | some p => p.2
          | none => s.tick)) } }

/-! ### Fence counts (10 R298; 11 R332) -/

/-- The posted writes from a source that the switch has forwarded and that are not yet answered (10 R298). -/
def fenceCount (s : State) (src : Nat) : Nat :=
  if src = pkgNo s then postedOut s else (s.links.unacked.filter (fun t => t.1.pkg == src)).length

/-- A FENCE goes on to the next switch with HOPS raised; at its release's own package it ends (11 R332). -/
def forwardFence (m : FenceMsg) (s : State) : State :=
  let s := { s with links := { s.links with
    heldFences := s.links.heldFences.filter (fun x => x != m), forwarded := s.links.forwarded ++ [m] } }
  if m.dest = pkgNo s then s else sendTo m.dest (.fenceMsg (fenceBytes { m with hops := (m.hops + 1) % 2 ^ 16 })) s

/-- `FENCE_COUNT_MESSAGE` (11 R332; 15 R393): a FENCE waits for its source's count to be zero, then goes on, and a copy of one that
has gone on goes at once; a PROBE is answered; a PROBE-ACK in time admits its switch to `pod` traffic. -/
def execFenceCountMessage (msg : FenceMsg) (s : State) : Out :=
  if msg.code = 1 then
    if fenceCount s msg.src = 0 || s.links.forwarded.any (fun m => m.src == msg.src && m.tag == msg.tag) then
      .next (forwardFence msg s)
    else .next { s with links := { s.links with heldFences := merge s.links.heldFences [msg] } }
  else if msg.code = 2 then .next (sendTo msg.src (.fenceMsg (fenceBytes { msg with code := 3 })) s)
  else if msg.code = 3 then
    if s.links.probed.any (fun p => p.1 == msg.tag) then
      .next (recomputeRoutes { s with links := { s.links with
        probed := s.links.probed.filter (fun p => p.1 != msg.tag)
        refusedSwitches := s.links.refusedSwitches.filter (fun n => n != msg.tag) } })
    else .next s
  else .next s

/-- `PROBE_TIMEOUT` (01 R20; 11 R332): an external switch that has not answered PROBE within 10,000 ticks is refused `pod`
traffic. -/
def execProbeTimeout (switch : Nat) (s : State) : Out :=
  match s.links.probed.find? (fun p => p.1 == switch) with
  | some p =>
    if p.2.toNat + 10000 ≤ s.tick.toNat then
      .next (recomputeRoutes { s with links := { s.links with
        probed := s.links.probed.filter (fun p => p.1 != switch)
        refusedSwitches := merge s.links.refusedSwitches [switch] } })
    else .next s
  | none => .next s

end Sys2Proof.Machine
end

