-- ==== Sys2Proof/Machine/Image.lean ====
section
/-! DEFINITION. Pre-emption images of strands and control contexts, sealed block, quad and launch images, and the image area
(02 R51–R55; 16 R417–R420). -/

namespace Sys2Proof.Machine

/-! ### Bytes -/

/-- Bytes padded with zeros to a multiple. -/
def padTo (m : Nat) (bs : List Byte) : List Byte := bs ++ List.replicate (roundUp bs.length m - bs.length) 0

/-- The bytes `[off, off + n)` of a list, zero beyond its end. -/
def slice (bs : List Byte) (off n : Nat) : List Byte :=
  let x := (bs.drop off).take n
  x ++ List.replicate (n - x.length) 0

/-- The number in those bytes. -/
def numAt (bs : List Byte) (off n : Nat) : Nat := leNat (slice bs off n)

/-- A word there. -/
def wordAt (bs : List Byte) (off : Nat) : Word := BitVec.ofNat 32 (numAt bs off 4)

/-! ### Fragment and serial records (02 R52, R53) -/

/-- The deadline of a watch. -/
def watchDeadline (s : State) (op : Nat) : Nat :=
  match findOp s op with
  | none => 0
  | some o => match o.what with
    | .watch _ _ (some d) => d.toNat
    | _ => 0

/-- WKIND, WINDEX, WPHASE, WARG and WTICK of a wait (02 R52). A wait of kind 9 that is satisfied is saved as kind 0 (02
R50). -/
def waitFields (s : State) (st : Strand) (f : Fragment) : Nat × Nat × Nat × Nat × Nat :=
  match f.wait with
  | .bar n ph =>
    let e := match blockOf s st with
      | some b => (vget b.bars n ⟨0, 0, false, false⟩).expected
      | none => 0
    (1, n, flag ph, e, 0)
  | .gang sc ph => (2, scopeCode sc, ph % 2, 0, 0)
  | .reconv | .join => (3, 0, 0, 0, 0)
  | .pop q => (4, q.toNat, 0, 0, 0)
  | .push q => (5, q.toNat, 0, 0, 0)
  | .watch op =>
    (6, 0, 0, watchNumber s op, watchDeadline s op)
  | .nap t => (7, 0, 0, 0, t.toNat)
  | .owner t v => (8, t.toNat, flag v, 0, 0)
  | .header 4 =>
    (4, ((List.range 4).find? (fun q => bit f.head.toNat (12 + q) && (waiting st q).isEmpty)).getD 0, 0, 0, 0)
  | .header 8 => (8, field f.head.toNat 7 3, flag (bit f.head.toNat 8), 0, 0)
  | .header 9 | .limit => (if inFlight s st.who.id = 0 then 0 else 9, 0, 0, 0, 0)
  | .reply _ | .window => (9, 0, 0, 0, 0)
  | _ => (0, 0, 0, 0, 0)

/-- The state code of LINK; a header wait that is no blocking point counts as ready. -/
def waitState : Wait → Nat
  | .ready | .ended | .header 0 => 0
  | .suspended => 1
  | .reconv => 2
  | .join => 3
  | _ => 4

/-- A fragment record. -/
def fragBytes (s : State) (st : Strand) (f : Fragment) : List Byte :=
  let w := waitFields s st f
  let parent := match f.parent with
    | some p => st.fragIndex p
    | none => 63
  leBytes 8 (posWord f.hdr f.widx).toNat ++ leBytes 4 f.mask.toNat
    ++ leBytes 4 (parent + 256 * waitState f.wait) ++ leBytes 8 (if f.parent.isSome then f.reconv.toNat else 0)
    ++ leBytes 1 w.1 ++ leBytes 1 w.2.1 ++ leBytes 1 w.2.2.1 ++ leBytes 1 0 ++ leBytes 4 w.2.2.2.1
    ++ leBytes 8 w.2.2.2.2 ++ leBytes 8 0

/-- A serial record; the fall-through's word index stands in bits 55:52 (log 30). -/
def serialBytes (st : Strand) (r : Serial) : List Byte :=
  leBytes 8 (posWord r.fall r.fallWidx).toNat ++ leBytes 4 r.mask.toNat
    ++ leBytes 4 (r.aux.toNat + 2 ^ 8 * flag r.phase + 2 ^ 9 * st.fragIndex r.owner)

/-- A queue binding. -/
def bindBytes : Option Binding → List Byte
  | none => leBytes 8 0
  | some b => leBytes 8 (b.offset.toNat + 2 ^ 32 * (if b.quadSpace then 3 else 2) + 2 ^ 35 + 2 ^ 36 * flag b.consumer + 2 ^ 40 * b.drawn)

/-- A register's body. -/
def bodyBytes : RegVal → List Byte
  | .u v => leBytes 4 v.toNat
  | .a b t => leBytes 4 b.toNat ++ leBytes 4 t.toNat
  | .g vs => vs.toList.flatMap (fun v => leBytes 4 v.toNat)

/-- A strand's image (02 R51), with its size; `ctl` for kind 1, whose further parts follow. -/
def strandBytes (s : State) (st : Strand) (ctl : Bool) (more : List Byte) : List Byte :=
  let regs := (List.range st.allotV).map (fun i => vget st.regs i (.u 0))
  let tags := (List.range 64).foldl (fun n i =>
    n + (if i < st.allotV then (vget st.regs i (.u 0)).tagNo else 3) * 4 ^ i) 0
  let w := fun (x : Word) => leBytes 4 x.toNat
  let t := st.trap
  let two := fun (a b : Word) => leBytes 8 (pair a b).toNat
  let rest := leBytes 4 (st.allotV + 2 ^ 8 * st.allotG + 2 ^ 16 * (st.role.toNat % 8) + 2 ^ 20 * (st.prio.toNat % 4))
    ++ leBytes 4 (st.all.length + 2 ^ 8 * st.serials.length)
    ++ leBytes 16 tags
    ++ st.preds.toList.flatMap (fun p => leBytes 4 p.toNat) ++ leBytes 4 0
    ++ w st.fcr ++ w st.fflags ++ w st.ftrapen ++ w st.psf ++ w t.tcause
    ++ two st.lr 0 ++ two t.tvec t.tvech ++ two st.wdl st.wdlh ++ two t.taddr t.taddrh ++ two t.tepc t.tepch ++ leBytes 4 0
    ++ st.binds.toList.flatMap bindBytes
    ++ w st.qstatus ++ w t.emword ++ w t.emimm ++ w t.emclause ++ leBytes 16 0
    ++ st.all.flatMap (fragBytes s st) ++ st.serials.reverse.flatMap (serialBytes st) ++ regs.flatMap bodyBytes ++ more
  leBytes 4 (1 + 2 ^ 16 * flag ctl) ++ leBytes 4 (8 + rest.length) ++ rest

/-- The type of an element in bit 40 of its slot: 1 for integer, 0 otherwise (05 R123, log 32). -/
def typeBit (ty : CType) : Nat := if ty = .int then 2 ^ 40 else 0

/-- The image of a control context's own parts (02 R54). -/
def controlBytes (c : Control) : List Byte :=
  let bound := (List.range 16).filter (fun i => (vget c.ctiles i ⟨.openT, none, []⟩).bound.isSome)
  c.tiles.toList.flatMap (fun t => leBytes 8 t.desc.toNat)
    ++ c.hoff.toList.flatMap (fun v => leBytes 4 v.toNat)
    ++ c.hists.toList.flatMap (fun h => h.toList.flatMap (fun v => leBytes 4 v.toNat))
    ++ leBytes 4 c.mcnan.toNat ++ leBytes 4 c.mcovf.toNat ++ leBytes 4 c.mcsat.toNat ++ leBytes 4 0
    ++ leBytes 2 (bound.foldl (fun n i => n + 2 ^ i) 0) ++ leBytes 6 0
    ++ bound.flatMap (fun i => (List.range 1024).flatMap (fun e =>
        leBytes 8 ((tget (vget c.ctiles i ⟨.openT, none, []⟩).elems 0 e).toNat + typeBit (vget c.ctiles i ⟨.openT, none, []⟩).ty)))

/-- The image that a READ of a strand or control program gives (02 R51, R54; 14 R370). -/
def imageOf (s : State) (st : Strand) : List Byte :=
  match st.place with
  | .ctl quad c => strandBytes s st true (controlBytes (controlAt s (ctlKey quad c)))
  | _ => strandBytes s st false []

/-! ### Reading an image back (02 R55) -/

/-- The scope of a code. -/
def scopeOfCode (n : Nat) : Scope :=
  if n = 2 then .quad else if n = 3 then .die else if n = 4 then .pkg else .pod

/-- The phase of a gang that a WPHASE bit names: the current one, or the one before. -/
def gangPhase (s : State) (st : Strand) (sc : Scope) (ph : Nat) : Nat :=
  match findLaunch s st.who.id.handle with
  | none => 0
  | some l =>
    let p := (gangOf s l.handle sc (gangIndex l.record sc st.who.blockIdx)).phase
    if p % 2 = ph then p else p - 1

/-- A fragment read from its record: waits of kind 0 and 9 and those of a header end at once; one for a watch begins its
`wwait` again, with the deadline of the record (02 R55; 16 R420). A wait at a barrier whose mark is pending is that of the mark (08 R244; log 30). -/
def fragOf (s : State) (st : Strand) (id : Nat) (bs : List Byte) : Fragment :=
  let pc := BitVec.ofNat 64 (numAt bs 0 8)
  let link := numAt bs 12 4
  let n := numAt bs 25 1
  let ph := numAt bs 26 1
  let tick := BitVec.ofNat 64 (numAt bs 32 8)
  let mask : Mask := wordAt bs 8
  let w : Wait × Begun := match field link 10 8 with
    | 1 => (.suspended, .no)
    | 2 => (.reconv, .no)
    | 3 => (.join, .no)
    | 4 =>
      (match numAt bs 24 1 with
       | 1 => (.bar (n % 16) (ph == 1), if st.pendingBars.any (fun m => m.1 == n % 16 && m.2.1 == (ph == 1))
              then .holding (n % 16) (ph == 1) else .met (n % 16) (ph == 1))
       | 2 => (.gang (scopeOfCode n) (gangPhase s st (scopeOfCode n) ph), .ganged (scopeOfCode n) (gangPhase s st (scopeOfCode n) ph))
       | 3 => (.reconv, .no)
       | 4 => if posWidx pc = 0 then (.ready, .no) else (.pop (BitVec.ofNat 4 n), .no)
       | 5 => (.push (BitVec.ofNat 4 n), .no)
       | 6 => (.ready, .napping tick)
       | 7 => (.nap tick, .napping tick)
       | 8 => if posWidx pc = 0 then (.ready, .no) else (.owner (BitVec.ofNat 5 n) (ph == 1), .no)
       | _ => (.ready, .no))
    | _ => (.ready, .no)
  { Fragment.entry (posAddr pc) with
    id := id, widx := posWidx pc, mask := mask, parent := if field link 5 0 = 63 then none else some (field link 5 0), tabled := field link 5 0 != 63
    reconv := BitVec.ofNat 52 (numAt bs 16 8), wait := if mask = 0 && field link 10 8 = 0 then .ended else w.1, begun := w.2 }

/-- A serial record read back; a reconvergence address that the record's aux does not give is a free value (log 30). -/
def serialOf (s : State) (bs : List Byte) : Serial :=
  let pc := BitVec.ofNat 64 (numAt bs 0 8)
  let x := numAt bs 12 4
  let aux : BitVec 8 := BitVec.ofNat 8 x
  let brd := if posWidx pc = 0 then posAddr pc - 4 else posAddr pc + BitVec.ofNat 52 (4 * (posWidx pc - 1))
  { fall := posAddr pc, fallWidx := posWidx pc,
    reconv := if aux = 0 then BitVec.ofNat 52 (leNat (freeBytes s 0 8)) else brd + 4 * aux.setWidth 52,
    aux := aux, mask := wordAt bs 8, full := 0, phase := bit x 8, owner := field x 14 9 }

/-- The threads of the splits that serial records read back stand for, newest first: those that the owner runs and those its
records up to this one hold; threads that `xmwr` had cleared are not in an image (log 30). -/
def fillSerials (frags : List Fragment) (l : List Serial) : List Serial :=
  l.zipIdx.map (fun p =>
    let own := match frags.find? (fun f => f.id == p.1.owner) with
      | some f => f.mask
      | none => 0
    { p.1 with full := ((l.take (p.2 + 1)).filter (fun r => r.owner == p.1.owner)).foldl (fun m r => m ||| r.mask) own })

/-- A queue binding read back. -/
def bindOf (bs : List Byte) : Option Binding :=
  let x := leNat bs
  if bit x 35 then
    some { offset := BitVec.ofNat 32 x, quadSpace := field x 34 32 == 3, consumer := bit x 36, drawn := field x 48 40 }
  else none

/-- The tag of a register in a tag vector. -/
def tagOf (tags i : Nat) : Nat := tags / 4 ^ i % 4

/-- The size of a body by its tag. -/
def bodySize (tag : Nat) : Nat := if tag = 0 then 4 else if tag = 1 then 8 else if tag = 2 then 128 else 0

/-- A body read back. -/
def bodyOf (tag : Nat) (bs : List Byte) : RegVal :=
  if tag = 1 then .a (wordAt bs 0) (wordAt bs 4)
  else if tag = 2 then .g (Vector.ofFn (fun t : Fin 32 => wordAt bs (4 * t.val)))
  else .u (wordAt bs 0)

/-- Whether an image is none of a strand or control context (02 R51). -/
def imageBad (ctl : Bool) (bs : List Byte) : Bool :=
  let v := numAt bs 8 4
  let n := numAt bs 12 4
  numAt bs 0 4 != 1 + 2 ^ 16 * flag ctl || decide (bs.length < numAt bs 4 4) || decide (64 < field v 6 0)
    || field n 5 0 == 0

/-- The place of the bodies. -/
def bodyStart (bs : List Byte) : Nat := 0x100 + 48 * field (numAt bs 12 4) 5 0 + 16 * field (numAt bs 12 4) 13 8

/-- The place of a register's body. -/
def bodyAt (bs : List Byte) (i : Nat) : Nat :=
  (List.range i).foldl (fun n j => n + bodySize (tagOf (numAt bs 16 16) j)) (bodyStart bs)

/-- A strand that takes the values, masks and waits of an image; reserved bits read as zero (00 R4), and what the image does
not hold stays (02 R55). The address
held beside `psf` is a free value, and the handler's fragment the first that runs (log 31). -/
def readStrand (s : State) (st : Strand) (bs : List Byte) : Strand :=
  let head := numAt bs 8 4
  let count := numAt bs 12 4
  let v := field head 6 0
  let nf := field count 5 0
  let ns := field count 13 8
  let w := fun (off : Nat) => wordAt bs off
  let regs : Vector RegVal 64 := Vector.ofFn (fun i : Fin 64 =>
    if i.val < v then bodyOf (tagOf (numAt bs 16 16) i.val) (slice bs (bodyAt bs i.val) 128) else .u 0)
  let frags := (List.range nf).map (fun i => fragOf s st i (slice bs (0x100 + 48 * i) 48))
  let ser := fillSerials frags ((List.range ns).map (fun i => serialOf s (slice bs (0x100 + 48 * nf + 16 * i) 16))).reverse
  let t : TrapRegs := if w 0xE4 = w 0xEC then emulationHeader (w 0xE4) .zero else emulation [w 0xE4] (w 0xEC) .zero
  let tcause := w 0x50 &&& 0x8007FFFF
  let psf := w 0x4C &&& 0xC0FFFFFF
  let run := (frags.find? Fragment.live).getD (frags.headD (Fragment.entry 0))
  { st with
    allotV := v, allotG := field head 14 8, role := BitVec.ofNat 32 (field head 18 16)
    prio := BitVec.ofNat 32 (field head 21 20), regs := regs
    preds := Vector.ofFn (fun i : Fin 7 => wordAt bs (0x20 + 4 * i.val))
    fcr := w 0x40 &&& 7, fflags := w 0x44 &&& 0x3F, ftrapen := w 0x48 &&& 0x3F, psf := psf, lr := w 0x54
    psfAddr := if psf.getLsbD 31 then BitVec.ofNat 64 (leNat (freeBytes s 8 8)) else 0
    psfArg := if psf.getLsbD 31 then leNat (freeBytes s 16 2) else 0
    wdl := w 0x64, wdlh := w 0x68
    trap := { t with tcause := tcause, tvec := w 0x5C, tvech := w 0x60 &&& 0xFFFFFF, taddr := w 0x6C, taddrh := w 0x70,
                     tepc := w 0x74, tepch := w 0x78 &&& 0xFFFFFF, emimm := w 0xE8, emclause := w 0xEC }
    handler := if tcause.getLsbD 31 then some run.id else none
    binds := Vector.ofFn (fun i : Fin 12 => bindOf (slice bs (0x80 + 8 * i.val) 8))
    qstatus := w 0xE0 &&& 0xFFF0, cur := run, frags := frags.filter (fun f => f.id != run.id), nextFrag := nf, serials := ser
    resident := (((List.range v).filter (fun i => tagOf (numAt bs 16 16) i == 2)).take (field head 14 8)).map (BitVec.ofNat 6) }

/-- The writes of an image into the registers of a strand enter its lane's operand log (16 R405). -/
def logImage (st : Strand) (s : State) : State :=
  let k := st.place.laneKey
  let sites := (List.range st.allotV).map (fun i => RegSite.reg (BitVec.ofNat 6 i))
    ++ (List.finRange 7).map (fun i => RegSite.pred i)
  { s with opLog := tput s.opLog [] k (((sites.reverse.map (logEntry st st.cur)) ++ tget s.opLog [] k).take 32) }

/-- A restored c-tile from the slots of its elements: integer by bit 40, else float; only tiles with a type are bound (02 R54; 05 R123;
log 32). The first engine that takes an operation on it binds it. -/
def readCTile (slots : List Nat) : CTile :=
  let elems := slots.zipIdx.foldl (fun t p => tput t 0 p.2 (BitVec.ofNat 40 p.1)) []
  ⟨if slots.any (fun x => bit x 40) then .int else .float, none, elems⟩

/-- A control context that takes the parts of its image; reserved bits of a descriptor read as zero (00 R4, 02 R54). -/
def readControl (c : Control) (bs : List Byte) : Control :=
  let mask := numAt bs 0x530 2
  let bound := (List.range 16).filter (fun i => bit mask i)
  let tile := fun (i : Nat) => (bound.takeWhile (fun j => j != i)).length
  { c with
    tiles := Vector.ofFn (fun i : Fin 32 => ⟨BitVec.ofNat 64 (numAt bs (8 * i.val) 8) &&& 0x1FFFFFFFFFF0, false⟩)
    hoff := Vector.ofFn (fun i : Fin 8 => wordAt bs (0x100 + 4 * i.val))
    hists := Vector.ofFn (fun h : Fin 8 => Vector.ofFn (fun b : Fin 32 => wordAt bs (0x120 + 128 * h.val + 4 * b.val)))
    mcnan := wordAt bs 0x520, mcovf := wordAt bs 0x524, mcsat := wordAt bs 0x528
    ctiles := Vector.ofFn (fun i : Fin 16 =>
      if bound.contains i.val then
        readCTile ((List.range 1024).map (fun e => numAt bs (0x538 + 8192 * tile i.val + 8 * e) 8))
      else ⟨.openT, none, []⟩) }

/-! ### Sealed images (16 R419) -/

/-- An image with its header and seal. -/
def sealed (kind handle w0C w10 w14 w18 w1C gen : Nat) (at20 at60 body : List Byte) : List Byte :=
  let pre := leBytes 4 (1 + 2 ^ 16 * kind) ++ leBytes 4 (264 + body.length) ++ leBytes 4 handle ++ leBytes 4 w0C
    ++ leBytes 4 w10 ++ leBytes 4 w14 ++ leBytes 4 w18 ++ leBytes 4 w1C ++ slice at20 0 64 ++ slice at60 0 128
    ++ leBytes 32 0 ++ body ++ leBytes 4 gen
  pre ++ leBytes 4 (crc32c pre).toNat

/-- A named barrier's word. -/
def barrierBytes (b : Barrier) : List Byte :=
  leBytes 4 (b.arrived % 2 ^ 11 + 2 ^ 11 * (b.expected % 2 ^ 11) + 2 ^ 22 * flag b.set + 2 ^ 23 * flag b.phase)

/-- The pending marks of a strand. -/
def marksBytes (st : Strand) : List Byte :=
  leBytes 4 (st.pendingBars.foldl (fun n m => n + 2 ^ m.1 + flag m.2.1 * 2 ^ (16 + m.1)) 0)

/-- The queue words of a strand, with their counts. -/
def queueBytes (st : Strand) : List Byte :=
  let qs := [st.promises, st.completions, st.acks, st.events, st.pushed0, st.pushed1, st.pushed2]
  qs.flatMap (fun q => leBytes 4 q.length) ++ leBytes 4 0 ++ (qs.flatten).flatMap (fun w => leBytes 4 w.toNat)

/-- A strand of a block that has ended, as its image stands for it: one record without threads (log 33). -/
def endedStrand (l : Launch) (n sid : Nat) : Strand :=
  { roleStrand l (strandIdentity l n sid false) .none with
    cur := { Fragment.entry 0 with mask := 0, wait := .suspended }, allotV := 0, allotG := 0 }

/-- A block's strand of a number, if it is live. -/
def strandOfBlock (s : State) (l : Launch) (n : Nat) (twin : Bool) (sid : Nat) : Option Strand :=
  findStrand s (strandIdentity l n sid twin).id

/-- A block image. -/
def blockImage (s : State) (l : Launch) (b : Block) (gen : Nat) : List Byte :=
  let sts := (List.range l.record.strands).map (strandOfBlock s l b.idx b.twin)
  let one := fun (p : Option Strand × Nat) =>
    let st := p.1.getD (endedStrand l b.idx p.2)
    padTo 16 (strandBytes s st false []) ++ queueBytes st
  let lanes := sts.flatMap (fun x => match x with
    | some st => memRead s.mem.slices (laneAddr st 0) l.record.laneMem
    | none => List.replicate l.record.laneMem 0)
  sealed 2 l.handle b.idx (l.record.strands + 2 ^ 8 * flag b.abandoned) b.size l.record.laneMem (b.core / 4) gen
    (b.bars.toList.flatMap barrierBytes) (sts.flatMap (fun x => match x with
      | some st => marksBytes st
      | none => leBytes 4 0))
    (sts.zipIdx.flatMap one ++ lanes ++ memRead s.mem.scratch (coreBase b.core + b.base) b.size)

/-- A quad image. -/
def quadImage (s : State) (l : Launch) (r : QuadRegion) (gen : Nat) : List Byte :=
  let prog := r.context.bind (fun c => (controlAt s (ctlKey r.quad c)).running.bind (findStrand s))
  let ctx := match prog with
    | some st => padTo 16 (imageOf s st)
    | none => []
  sealed 3 l.handle r.quad (r.size / 2 ^ 20 + 2 ^ 8 * flag prog.isSome) 0 0 0 gen [] []
    (ctx ++ (List.range (r.size / 64)).flatMap (fun i => memRead s.mem.scratch (quadByte r (64 * i)) 64))

/-- A launch image: the unplaced runs that it lists. -/
def launchImage (l : Launch) (gen : Nat) : List Byte :=
  let runs := (l.free ++ l.runs.map (fun r => (r.lo, r.hi))).filter (fun p => decide (p.1 < p.2))
  sealed 4 l.handle 0 0 runs.length 0 0 gen (l.record.words.flatMap (fun w => leBytes 4 w.toNat)) []
    (runs.flatMap (fun p => leBytes 4 p.1 ++ leBytes 4 (p.2 - p.1)))

/-! ### The image area (16 R417) -/

/-- The bytes of the area that images use. -/
def imageSpan (s : State) : Nat := s.failure.imageSize - 0x1000

/-- AWP. -/
def awpOf (s : State) : Nat := memNat s.mem.bytes s.failure.imageBase 8

/-- ARP. -/
def arpOf (s : State) : Nat := memNat s.mem.bytes (s.failure.imageBase + 8) 8

/-- A filler image of a size. -/
def fillerImage (size : Nat) : List Byte :=
  let pre := slice (leBytes 4 (1 + 2 ^ 16 * 7) ++ leBytes 4 size) 0 (size - 8) ++ leBytes 4 0
  pre ++ leBytes 4 (crc32c pre).toNat

/-- Where images go from an AWP on: their places with what is written there, and the AWP after them. -/
def layImages (span : Nat) : Nat → List (List Byte) → List (Nat × List Byte) × Nat
  | awp, [] => ([], awp)
  | awp, img :: rest =>
    let need := roundUp img.length 4096
    let off := awp % 2 ^ 64 % span
    let gap := if span < off + need then span - off else 0
    let awp' := awp + gap
    let r := layImages span (awp' + need) rest
    ((if gap = 0 then [] else [(off, fillerImage gap)]) ++ (awp' % 2 ^ 64 % span, img) :: r.1, r.2)

/-- Images written into the area and AWP advanced, or none when they do not all fit. -/
def storeImages (imgs : List (List Byte)) (s : State) : Option State :=
  let span := imageSpan s
  let r := layImages span (awpOf s) imgs
  if span = 0 || imgs.any (fun i => decide (span < roundUp i.length 4096)) || decide (span < (r.2 + 2 ^ 64 - arpOf s) % 2 ^ 64) then none
  else
    let s := r.1.foldl (fun s p => poke (s.failure.imageBase + 0x1000 + p.1) p.2 s) s
    some (poke s.failure.imageBase (leBytes 8 (r.2 % 2 ^ 64)) s)

/-- An image of the area at a fabric address, if its header and seal are good (16 R420). -/
def readImage (s : State) (fab : Nat) : Option (List Byte) :=
  let x := fabLocal fab
  let lo := s.failure.imageBase + 0x1000
  let hi := s.failure.imageBase + s.failure.imageSize
  if !isLocal s fab || decide (x < lo) || decide (hi < x + 264) then none
  else
    let size := memNat s.mem.bytes (x + 4) 4
    let head := memNat s.mem.bytes x 4
    if size < 264 || hi < x + size || head % 2 ^ 16 != 1 || poisonedAt s x size then none
    else
      let bs := memRead s.mem.bytes x size
      if !(head / 2 ^ 16 == 2 || head / 2 ^ 16 == 3 || head / 2 ^ 16 == 4) then none
      else if (crc32c (bs.take (size - 4))).toNat != numAt bs (size - 4) 4 then none
      else some bs

end Sys2Proof.Machine
end

