-- ==== Sys2Proof/Machine/Dispose.lean ====
section
/-! DEFINITION. Killing strands, the disposition of fault-queue entries, and the compare of paired windows (14 R362, R364; 16
R407–R415). -/

namespace Sys2Proof.Machine

/-! ### Killing a strand (16 R407, R408) -/

/-- Whether an operation of a killed strand is dropped: loads and what only waits. -/
def OpKind.droppedByKill : OpKind → Bool
  | .load _ | .loadv _ | .acq | .fence | .watch _ _ _ | .docRead | .docStat => true
  | _ => false

/-- The watch entries of a strand freed, those that other packages hold by a message to them (08 R239; 02 R50; log 29). -/
def freeWatches (id : StrandId) (s : State) : State :=
  let far := s.mem.ops.filter (fun o => o.owner == id && o.farWatch s)
  let s := far.foldl (fun s o => sendTo (watchNumber s o.id / 65536) (.watchFree (watchNumber s o.id / 65536) (watchNumber s o.id % 65536)) s) s
  { s with mem := { s.mem with watches := s.mem.watches.filter (fun p => match p.2.who with
      | .strand _ st _ => st != id
      | _ => true) } }

/-- The outstanding operations of a strand as a kill leaves them: loads are dropped, held paired stores discarded; stores,
deposits and commands proceed. -/
def killOps (id : StrandId) (s : State) : State :=
  let ops := s.mem.ops.filter (fun o => o.owner != id || !(o.windowed || o.what.droppedByKill))
  let free := fun (o : Op) => match o.what with
    | .service _ _ => o
    | _ => if o.owner == id then { o with holds := false } else o
  let s := { s with
    mem := { s.mem with ops := ops.map free, shared := s.mem.shared.filter (fun x => x.1 != id) }
    engines := { s.engines with nears := s.engines.nears.filter (fun c => !(c.owner == id && c.windowed)) } }
  (opsOf s id).foldl (fun s o => sweepOp o.id s) s

/-- A control program's context after its kill: queued operations that no engine has taken are discarded, its c-tiles are unbound, and
its tiles stay where they are (16 R408). -/
def killControl (st : Strand) (s : State) : State :=
  match st.place with
  | .ctl quad c =>
    let k := ctlKey quad c
    let x := controlAt s k
    setControl k { x with
      queue := x.queue.filter (fun q => q.engine.isSome)
      gives := x.gives.filter (fun g => g.2.2.1 != st.who.id)
      ctiles := Vector.ofFn (fun i : Fin 16 => { x.ctiles[i] with bound := none }) } s
  | _ => s

/-- A strand is killed (16 R408): its block is marked abandoned, and with PAIR the same strand of the other twin is to be
killed too (16 R415); a checkpoint under way leaves the block without an image (16 R418). -/
def killNow (id : StrandId) (s : State) : State :=
  match findStrand s id with
  | none => s
  | some st =>
    let paired := isPaired s st
    let s := killControl st (killOps id (freeWatches id s))
    let s := modBlock st.who.id.handle st.who.blockIdx st.who.twin (fun b =>
      if st.place.isCtl then b else { b with abandoned := true }) s
    let s := { s with services := s.services.map (fun x =>
      if x.kind == .checkpoint && x.begun && x.arg.toNat == id.handle && !st.place.isCtl
      then { x with before := merge x.before [st.who.blockIdx] } else x) }
    let s := endStrand true id s
    if paired then modStrand (twinOf id) (fun x => { x with killing := true }) s else s

/-- `KILL_ACT` (16 R407, R408): a pending kill acts once nothing is in flight. -/
def execKillAct (st : StrandId) (s : State) : Out :=
  match findStrand s st with
  | none => .next s
  | some x => if x.killing && inFlight s st = 0 then .next (killNow st s) else .next s

/-- A strand is to be killed. -/
def markKill (id : StrandId) (s : State) : State := modStrand id (fun x => { x with killing := true }) s

/-- A strand out of residency, for the quad memory that it used at a place. -/
def outStrand (id : StrandId) (p : Place) : Strand :=
  { noStrand with place := p, who := { Identity.blank with id := id, twin := decide (2 ^ 40 ≤ id.index) } }

/-- A strand out of residency is killed: its watch entry is freed, its queues in quad memory are unbound, and its block ends with the
last of them (02 R50; 16 R408). Those in its block's scratch are unbound, and the block is marked abandoned, when the image is placed
again. -/
def killEvicted (id : StrandId) (s : State) : State :=
  let s := freeWatches id s
  let mine := s.work.evicted.flatMap (fun e => e.bound.filter (fun b => b.1 == id))
  let s := mine.foldl (fun s b => unbindAt (outStrand id b.2.1) b.2.2 true s) s
  let s := { s with mem := { s.mem with ops := s.mem.ops.filter (fun o => !(o.owner == id && o.farWatch s)) } }
  let evicted := s.work.evicted.map (fun e => { e with strands := e.strands.filter (fun x => x != id), bound := e.bound.filter (fun b => b.1 != id) })
  let done := evicted.filter (fun e => e.strands.isEmpty)
  let s := { s with work := { s.work with
    evicted := evicted.filter (fun e => !e.strands.isEmpty)
    heldAcks := s.work.heldAcks.filter (fun x => x.1 != id)
    launches := s.work.launches.map (fun l =>
      { l with ended := l.ended + (done.filter (fun e => e.handle == l.handle)).length }) } }
  match findLaunch s id.handle with
  | none => s
  | some l => leaveGangs id (id.index / max 1 l.record.strands) true s

/-! ### Dispositions (14 R364) -/

/-- The cause of a code. -/
def causeNamed (n : Nat) : Cause :=
  ([Cause.illegalEncoding, .privilege, .alignment, .arith, .brk, .promiseMissed, .queueMisuse, .tileOwner, .docMisuse,
    .operandMisuse, .engineMisuse, .translation, .protection, .leaseExpired, .leaseRecalled, .lenderLost, .remoteFault,
    .poison, .tornLaunch, .signatureMismatch].find? (fun c => causeCode c == n)).getD .syscall

/-- What the N16 does with an entry. -/
inductive Action where
  /-- nothing waits for it -/
  | ignore
  | resume | reflect | kill
  deriving DecidableEq, Repr

/-- The entry that is next to be disposed of: the oldest that `fqcons` has passed, leaving out those of halted strands (14
R371). -/
def nextDisp (s : State) : Option (Nat × FaultEntry) :=
  minBy (fun (p : Nat × FaultEntry) => (p.1 + 2 ^ 32 - s.kernel.fqcons.toNat) % 2 ^ 32)
    (s.kernel.written.filter (fun p => p.2.disp.isSome && (match p.2.parks with
      | some (id, _) => (match findStrand s id with
        | some st => !st.halted
        | none => true)
      | none => true)))

/-- The action on an entry. -/
def actionOf (s : State) (n : Nat) (e : FaultEntry) : Action :=
  match e.parks with
  | none => .ignore
  | some (id, fr) =>
    match findStrand s id with
    | none => .ignore
    | some st =>
      if (st.frag? fr).map (fun f => f.wait) != some (.parked n) then .ignore
      else
        let d := match e.disp with
          | some x => x.1.toNat
          | none => 0
        if e.cause = causeCode .poison || 2 < d then .kill
        else if d = 0 then .resume
        else if d = 2 || handlerActive st || posAddr (tvecOf st) = 0 then .kill
        else .reflect

/-- An entry disposed of. -/
def dropEntry (n : Nat) (s : State) : State :=
  { s with kernel := { s.kernel with written := tset s.kernel.written n none } }

/-- The next entry, when this is the action on it; then its effect. -/
def dispose (a : Action) (s : State) (k : FaultEntry → StrandId → Nat → State → State) : State :=
  match nextDisp s with
  | none => s
  | some (n, e) =>
    if actionOf s n e != a then s
    else match e.parks with
      | none => dropEntry n s
      | some (id, fr) => if a = .ignore then dropEntry n s else k e id fr (dropEntry n s)

/-- Whether an entry is that of a `sysc`. -/
def FaultEntry.sysc (e : FaultEntry) : Bool := e.flags.getLsbD 19

/-- `DISP_RESUME` (14 R364, R365): the fragment continues from EPC; a `sysc` completes with STATUS. An entry that nothing
waits for is passed over. -/
def execDispResume (s : State) : Out :=
  let s' := dispose .ignore s (fun _ _ _ s => s)
  .next (dispose .resume s' (fun e id fr s =>
    let status := match e.disp with
      | some x => x.2
      | none => 0
    modStrand id (Strand.modFrag fr (fun f =>
      { f with wait := .ready, begun := if e.sysc then .answered status else .no })) s))

/-- `DISP_REFLECT` (14 R364): the user handler is entered with the entry's cause; for a `sysc` with SYSCALL, after it. -/
def execDispReflect (s : State) : Out :=
  .next (dispose .reflect s (fun e id fr s =>
    let s := focus id fr s
    let em := keptEmulation e.em
    if e.sysc then
      let s := s.me.cur.heldPops.foldl (fun s q => commitPopOf id s.me.cur.deadPops q s) s
      let s := modCur (fun f => (if f.heldPops.isEmpty then f else f.endWindow none).past [e.em.emword]) s
      enterHandler { cause := .syscall, detail := e.func.toNat % 256, addr := e.arg, threads := e.tmask }
        (posWord s.me.cur.hdr s.me.cur.widx) em s
    else
      enterHandler { cause := causeNamed e.cause, detail := e.detail, addr := e.addr, threads := e.tmask,
                     after := e.flags.getLsbD 17, defer := e.flags.getLsbD 16 } e.epc em s))

/-- `DISP_KILL` (14 R364): the strand is to be killed. -/
def execDispKill (s : State) : Out := .next (dispose .kill s (fun _ id _ s => markKill id s))

/-- `FAULT_QUEUE_DRAIN` (14 R362): the oldest waiting entry is written once the ring has room. -/
def execFaultQueueDrain (s : State) : Out :=
  match s.kernel.waitingFaults with
  | [] => .next s
  | e :: r =>
    if hasRing s && ringRoom s then .next (storeFault e { s with kernel := { s.kernel with waitingFaults := r } })
    else .next s

/-! ### Paired windows (16 R414, R415) -/

/-- The primary twin that a compare names: a strand of a block, or a control program by its index in the launch. -/
def pairedId (s : State) (handle block strand : Nat) : StrandId :=
  if 0xFFFF0000 ≤ strand then ⟨handle, strand⟩
  else match findLaunch s handle with
    | some l => ⟨handle, block * l.record.strands + strand⟩
    | none => ⟨handle, strand⟩

/-- A strand whose window has matched; an instruction that waited to close the next one issues again (16 R412, R414). -/
def openWindow (st : Strand) : Strand :=
  let f := fun (x : Fragment) => if x.wait ≠ .window then x
    else if st.window.isEmpty then { x with wait := .ready, begun := .matched }
    else { x with wait := .ready, begun := .no, heldPops := [], deadPops := [] }
  { st with windowSig := none, cur := f st.cur, frags := st.frags.map f }

/-- The primary's held writes of the window that ends before an operation are issued. -/
def releaseHeld (id : StrandId) (upTo : Nat) (s : State) : State :=
  let held := (opsOf s id).filter (fun o => o.windowed && decide (o.id < upTo))
  let s := { s with
    mem := { s.mem with ops := s.mem.ops.map (fun o =>
      if o.owner == id && decide (o.id < upTo) then { o with windowed := false } else o) }
    engines := { s.engines with nears := s.engines.nears.map (fun c =>
      if c.owner == id && decide (c.id < upTo) then { c with windowed := false } else c) } }
  held.foldl (fun s o => if o.what.isStore then
    o.accs.foldl (fun s a => updateCopies o.die a.fab (leBytes a.size a.data.toNat) s) s else s) s

/-- The held writes of a twin's window that ends before an operation discarded. -/
def dropHeld (id : StrandId) (upTo : Nat) (s : State) : State :=
  { s with
    mem := { s.mem with ops := s.mem.ops.filter (fun o => !(o.owner == id && o.windowed && decide (o.id < upTo))) }
    engines := { s.engines with nears := s.engines.nears.filter (fun c =>
      !(c.owner == id && c.windowed && decide (c.id < upTo))) } }

/-- A mismatch (16 R415): held writes are discarded, both twin blocks are to be killed, and SIGNATURE_MISMATCH is written. -/
def mismatch (id : StrandId) (s : State) : State :=
  match findStrand s id with
  | none => s
  | some p =>
    let same := fun (st : Strand) => st.who.id.handle == id.handle && st.place.isCtl == p.place.isCtl
      && (if p.place.isCtl then st.who.id == id || st.who.id == twinOf id else st.who.blockIdx == p.who.blockIdx)
    let ids := ((strandsOf s).filter same).map (fun st => st.who.id)
    let s := ids.foldl (fun s i => modStrand i (fun st => { st with killing := true, window := [], windowSig := none })
      (dropHeld i s.mem.nextOp s)) s
    let first := if p.place.isCtl then reportIndex id
      else p.who.blockIdx * ((findLaunch s id.handle).map (fun l => l.record.strands)).getD 1
    writeFault { cause := causeCode .signatureMismatch, detail := 0, flags := BitVec.ofNat 32 (2 ^ 21),
                 handle := id.handle, strand := first, whereW := 0, tmask := 0, epc := 0,
                 addr := BitVec.ofNat 64 p.who.blockIdx, arg := 0, func := 0, parks := none, em := .zero, disp := none } s

/-- `SIGNATURE_COMPARE` (16 R414, R415): with both signatures at hand the primary's held writes are issued and the
secondary's discarded, or the twins mismatch. -/
def execSignatureCompare (handle block strand : Nat) (s : State) : Out :=
  let id := pairedId s handle block strand
  match findStrand s id, findStrand s (twinOf id) with
  | some p, some q =>
    (match p.windowSig, q.windowSig with
     | some a, some b =>
       if a = b then
         .next (modStrand id openWindow (modStrand (twinOf id) openWindow (dropHeld (twinOf id) q.windowEnd (releaseHeld id p.windowEnd s))))
       else .next (mismatch id s)
     | _, _ => .next s)
  | _, _ => .next s

/-- `SIGNATURE_TIMEOUT` (16 R415): one signature has waited 1,000,000 ticks for the other. -/
def execSignatureTimeout (handle block strand : Nat) (s : State) : Out :=
  let id := pairedId s handle block strand
  let late := fun (st : Strand) => st.windowSig.isSome && decide (st.windowAt.toNat + 1000000 ≤ s.tick.toNat)
  match findStrand s id, findStrand s (twinOf id) with
  | some p, some q =>
    if p.killing || q.killing then .next s
    else if (late p && q.windowSig.isNone) || (late q && p.windowSig.isNone) then .next (mismatch id s) else .next s
  | _, _ => .next s

end Sys2Proof.Machine
end

