-- ==== Sys2Proof/Machine/Services.lean ====
section
/-! DEFINITION. The service functions of `sysc`: invalidation, binding tables, eviction, checkpoint, restore and kill (04 R100;
08 R235; 09 R276, R290, R293; 02 R47–R50, R55; 16 R407, R417–R421). -/

namespace Sys2Proof.Machine

/-- A service in progress of a kind. -/
def serviceOf (s : State) (svc : Nat) (kind : SvcKind) : Option Service :=
  s.services.find? (fun x => x.id == svc && x.kind == kind)

/-- Whether a service may act: it is ordered as a release at `pkg` after its strand's earlier stores (09 R290). -/
def svcReady (s : State) (x : Service) : Bool :=
  match findOp s x.op with
  | some o => releaseReady s o.owner o.id .pkg
  | none => true

/-- A service changed. -/
def modService (id : Nat) (f : Service → Service) (s : State) : State :=
  { s with services := s.services.map (fun x => if x.id == id then f x else x) }

/-- A service is over: d receives its status (09 R289). -/
def endService (x : Service) (status : Nat) (s : State) : State :=
  let s := { s with services := s.services.filter (fun y => y.id != x.id) }
  answerOp x.op (modOp (fun o => { o with
    gate := false
    accs := o.accs.map (fun a => { a with state := .done, result := BitVec.ofNat 128 status }) }) x.op s)

/-- A service that acts for the first time. -/
def beginService (svc : Nat) (kind : SvcKind) (s : State) (k : Service → State → State) : State :=
  match serviceOf s svc kind with
  | none => s
  | some x => if x.begun || !svcReady s x then s else k x s

/-! ### INVAL (04 R100; 08 R235; 09 R276) -/

/-- Whether an INVAL names a page of an address-space number. -/
def invalNames (arg asn vpage units : Nat) : Bool :=
  (bit arg 12 || arg % 2 ^ 12 == asn)
    && (bit arg 13 || (decide (vpage ≤ field arg 51 16) && decide (field arg 51 16 < vpage + units)))

/-- The address-space number under which a strand's accesses are translated. -/
def asnOf (s : State) (id : StrandId) : Option Nat :=
  (findStrand s id).map (fun st => (contextAt s st.who.context).asn.toNat % 2 ^ 12)

/-- Whether an INVAL names a page of the leaf that an access of a strand uses, or a translation that it takes out of the caches maps
one; the leaf maps `units` units of 64 KiB. -/
def invalHits (s : State) (arg : Nat) (gone : List TlbEntry) (id : StrandId) (va units : Nat) : Bool :=
  let asn := (asnOf s id).getD (arg % 2 ^ 12)
  let page := va / 2 ^ 16 / units * units
  invalNames arg asn page units
    || gone.any (fun e => (e.global || e.asn == asn) && meets e.vpage e.units page units)

/-- The outstanding operations whose accesses may use what an INVAL takes away. A watch that is armed is none; one
still to be armed is (log 35). -/
def invalWaits (s : State) (arg : Nat) (gone : List TlbEntry) : List Nat :=
  (s.mem.ops.filter (fun o => (match o.what with
      | .service _ _ => false
      | .watch _ _ _ => o.accs.any (fun a => a.state == .waiting)
      | _ => true) && o.accs.any (fun a => invalHits s arg gone o.owner a.va.toNat 1))).map (fun o => o.id)
    ++ (s.engines.copies.filter (fun c => c.running && c.segs.flatten.any (fun g =>
        invalHits s arg gone c.owner g.va g.units))).map (fun c => c.id)
    ++ (s.engines.nears.filter (fun c => gone.any (fun e => e.global) || invalNames arg ((asnOf s c.owner).getD 0) 0 (2 ^ 36))).map (fun c => c.id)

/-- `INVAL` (04 R100; 09 R290): every cache drops the matching translations; the accesses that used them are still to
complete. -/
def execInval (svc : Nat) (s : State) : Out :=
  .next (beginService svc .inval s (fun x s =>
    let arg := x.arg.toNat
    if field arg 15 14 != 0 || field arg 63 52 != 0 then endService x 1 s
    else
      let hit := fun (e : TlbEntry) => invalNames arg (if e.global then arg % 2 ^ 12 else e.asn) e.vpage e.units
      let gone := s.mem.tlb.filter hit
      let waits := invalWaits s arg gone
      modService x.id (fun x => { x with
          begun := true
          before := waits
          frames := gone.map (fun e => (leafFrame e.leaf, e.units * 2 ^ 16)) })
        { s with mem := { s.mem with tlb := s.mem.tlb.filter (fun e => !hit e) } }))

/-- `INVAL_COMPLETE` (04 R100): the accesses are done; decide-once pairs of the page leave the caches, and copy commands
not yet taken translate again. -/
def execInvalComplete (svc : Nat) (s : State) : Out :=
  match serviceOf s svc .inval with
  | none => .next s
  | some x =>
    let busy := x.before.any (fun id => (findOp s id).isSome || s.engines.nears.any (fun c => c.id == id)
      || s.engines.copies.any (fun c => c.id == id && c.running))
    if !x.begun || busy then .next s
    else
      let arg := x.arg.toNat
      let inFrame := fun (cell : Nat) => bit arg 13 || x.frames.any (fun f => decide (f.1 ≤ cell) && decide (cell < f.1 + f.2))
      let s := { s with
        mem := { s.mem with docs := s.mem.docs.filter (fun c => !inFrame c.cell) }
        engines := { s.engines with copies := s.engines.copies.map (fun c =>
          if c.engine.isNone && c.segs.flatten.any (fun g => invalHits s arg [] c.owner g.va g.units || inFrame g.fab) then { c with stale := true } else c) } }
      .next (endService x 0 s)

/-! ### BINDLOAD (09 R293; 10 R301) -/

/-- The entries of a binding table; none if one of them breaks R293. -/
def bindTable (s : State) (at_ n : Nat) : Option (List BindEntry) :=
  (allSome ((List.range n).map (fun i =>
    let lo := peekNat s (at_ + 16 * i) 8
    let hi := peekNat s (at_ + 16 * i + 8) 8
    let region := field lo 51 16
    let units := lo % 2 ^ 16 + 1
    if field lo 63 52 != 0 || field hi 63 52 != 0 || field hi 2 1 != 0 || decide (2 ^ 36 < region + units)
        || peekRefused s (at_ + 16 * i) 16 || peekPoisoned s (at_ + 16 * i) 16 then none
    else some (bit hi 0, (⟨field hi 51 3, region, units⟩ : BindEntry))))).map (fun l =>
      (l.filter (fun p => p.1)).map (fun p => p.2))

/-- `BINDLOAD` (09 R290, R293): the context's binding table is taken anew from memory. -/
def execBindload (svc : Nat) (s : State) : Out :=
  .next (beginService svc .bindload s (fun x s =>
    let ctx := x.arg.toNat
    if 256 ≤ ctx then endService x 1 s
    else
      let c := contextAt s ctx
      match bindTable s (pair c.bindl c.bindh).toNat c.bindn.toNat with
      | none => endService x 1 { s with fresh := s.fresh + 1 }
      | some l =>
        endService x 0 { s with fresh := s.fresh + 1, kernel := { s.kernel with
          contexts := tput s.kernel.contexts (.start ctx) ctx { c with bindings := l } } }))

/-! ### Driving strands to an image (02 R48–R50; 14 R364; 16 R414, R418) -/

/-- Whether some strand of a launch is parked on an entry (14 R364). -/
def launchParked (s : State) (handle : Nat) : Bool :=
  (strandsOf s).any (fun st => st.who.id.handle == handle && st.all.any (fun f => match f.wait with
    | .parked _ => true
    | _ => false))

/-- Whether nothing of a strand is on its way but armed watches, and it is at a blocking point; a halted one
waits for RESUME (02 R50; 14 R371; 16 R414). -/
def quiet (s : State) (st : Strand) : Bool :=
  let id := st.who.id
  !st.halted && st.atBlockingPoint && inFlight s id == 0 && st.window.isEmpty && st.windowSig.isNone && !st.killing
    && (opsOf s id).all (fun o => match o.what with
      | .watch _ _ _ => o.accs.all (fun a => a.state == .switched)
      | .service _ _ => true
      | _ => false)
    && s.engines.nears.all (fun c => c.owner != id)
    && s.engines.controls.all (fun p => p.2.gives.all (fun g => g.2.2.1 != id))
    && (match st.place with
        | .ctl quad c => (controlAt s (ctlKey quad c)).queue.isEmpty
        | _ => true)

/-- The strands of a block, both twins' in a paired launch. -/
def blockStrands (s : State) (handle idx : Nat) : List Strand :=
  (strandsOf s).filter (fun st => st.who.id.handle == handle && !st.place.isCtl && st.who.blockIdx == idx)

/-- The running launch that a service names; status 2 otherwise. -/
def onLaunch (x : Service) (handle : Nat) (s : State) (k : Launch → State) : State :=
  match findLaunch s handle with
  | none => endService x 2 s
  | some l => k l

/-- `EVICT` (02 R49, R50; 09 R290): the strands of the block receive the request; a block that is not resident gives status
2 (log 36). -/
def execEvict (svc : Nat) (s : State) : Out :=
  .next (beginService svc .evict s (fun x s =>
    let arg := x.arg.toNat
    if field arg 31 30 != 0 then endService x 1 s
    else onLaunch x (arg % 2 ^ 30) s (fun l =>
      let idx := arg / 2 ^ 32
      if !s.work.blocks.any (fun b => b.handle == l.handle && b.idx == idx) then endService x 2 s
      else
        let s := (blockStrands s l.handle idx).foldl (fun s st =>
          modStrand st.who.id (fun y => { y with evicting := true }) s) s
        modService x.id (fun x => { x with begun := true }) s)))

/-- A strand leaves residency with its image: its watches stay armed at their homes (02 R50), and the replies of those in other
packages are awaited for it (log 29). -/
def dropEvicted (s : State) (st : Strand) : State :=
  let s := { s with mem := { s.mem with
    ops := s.mem.ops.filter (fun o => o.owner != st.who.id || o.farWatch s || (match o.what with
      | .service _ _ => true
      | _ => false)),
    shared := s.mem.shared.filter (fun y => y.1 != st.who.id) } }
  removeStrand st.who.id s

/-- A block leaves residency. -/
def leaveResidency (handle idx : Nat) (s : State) : State :=
  let sts := blockStrands s handle idx
  let s := sts.foldl dropEvicted s
  let e : Evicted := { handle := handle, idx := idx, strands := sts.map (fun st => st.who.id), bound := sts.flatMap (fun st =>
    (st.binds.toList.filterMap (fun b => b)).filterMap (fun b => if b.quadSpace then some (st.who.id, st.place, b) else none)) }
  { s with work := { s.work with
      blocks := s.work.blocks.filter (fun b => !(b.handle == handle && b.idx == idx))
      evicted := s.work.evicted ++ [e] } }

/-- Reading the registers of strands for an image wakes the banks of their lanes (02 R32). -/
def wakeLanes (sts : List Strand) (s : State) : State := sts.foldl (fun s st => wakeLane st.place.lane s) s

/-- `EVICTION_COMPLETE` (02 R50; 16 R417–R419): the image is written and the block leaves residency; without room for the
image nothing is written and the block goes on. -/
def execEvictionComplete (handle block : Nat) (s : State) : Out :=
  match s.services.find? (fun x => x.kind == .evict && x.begun && x.arg.toNat % 2 ^ 30 == handle
      && x.arg.toNat / 2 ^ 32 == block) with
  | none => .next s
  | some x =>
    match findLaunch s handle, s.work.blocks.find? (fun b => b.handle == handle && b.idx == block && !b.twin) with
    | some l, some b =>
      let sts := blockStrands s handle block
      if launchParked s handle || !sts.all (quiet s) then .next s
      else
        (match storeImages [blockImage s l b 0] s with
         | none => .next (endService x 3 (sts.foldl (fun s st => modStrand st.who.id (fun y => { y with evicting := false }) s) s))
         | some s => .next (endService x 0 (leaveResidency handle block (wakeLanes sts s))))
    | _, _ => .next (endService x 2 s)

/-! ### CHECKPOINT (16 R418) -/

/-- Whether a launch has a gang. -/
def Record.hasGangs (r : Record) : Bool := r.gq != 0 || r.gd != 0 || r.gp || r.gpod

/-- The resident strands and control programs of a launch. -/
def launchStrands (s : State) (handle : Nat) : List Strand := (strandsOf s).filter (fun st => st.who.id.handle == handle)

/-- The request of a checkpoint made to every strand of a launch that is resident. -/
def askCheckpoint (handle : Nat) (s : State) : State :=
  (launchStrands s handle).foldl (fun s st => modStrand st.who.id (fun y => { y with checkpointing := true }) s) s

/-- `CHECKPOINT` (16 R418): after the parked-strand rule, every strand and control program of the launch receives the
request. -/
def execCheckpoint (svc : Nat) (s : State) : Out :=
  .next (beginService svc .checkpoint s (fun x s =>
    let arg := x.arg.toNat
    if 2 ^ 30 ≤ arg then endService x 1 s
    else onLaunch x arg s (fun l =>
      if l.record.hasGangs then endService x 3 s
      else if launchParked s l.handle then s
      else
        modService x.id (fun x => { x with begun := true }) (askCheckpoint l.handle s))))

/-- The images of a checkpoint, in their order: quads, blocks but those with a strand killed meanwhile, launch. -/
def checkpointImages (s : State) (l : Launch) (cut : List Nat) (gen : Nat) : List (List Byte) :=
  let quads := sortBy (fun r => r.quad) (s.work.regions.filter (fun r => r.handle == l.handle && !r.twin))
  let blocks := sortBy (fun b => b.idx) (s.work.blocks.filter (fun b => b.handle == l.handle && !b.twin
    && !cut.contains b.idx))
  quads.map (fun r => quadImage s l r gen) ++ blocks.map (fun b => blockImage s l b gen) ++ [launchImage l gen]

/-- `CHECKPOINT_COMPLETE` (16 R418): the images are written, and the strands continue. -/
def execCheckpointComplete (svc : Nat) (s : State) : Out :=
  match serviceOf s svc .checkpoint with
  | none => .next s
  | some x =>
    match findLaunch s x.arg.toNat with
    | none => .next (endService x 2 s)
    | some l =>
      let sts := launchStrands s l.handle
      if !x.begun || launchParked s l.handle then .next s
      else if sts.any (fun st => !st.checkpointing) then .next (askCheckpoint l.handle s)
      else if !sts.all (quiet s) then .next s
      else
        let go := fun (s : State) => sts.foldl (fun s st => modStrand st.who.id (fun y => { y with checkpointing := false }) s) s
        let gen := l.generation + 1
        match storeImages (checkpointImages s l x.before gen) s with
        | none => .next (endService x 3 (go s))
        | some s =>
          let s := wakeLanes sts s
          let s := modLaunch l.handle (fun l => { l with generation := gen }) s
          let s := { s with work := { s.work with
            contexts := tput s.work.contexts 0 l.handle l.context, generations := tput s.work.generations 0 l.handle gen } }
          .next (endService x 0 (go s))

/-! ### RESTORE (02 R55; 16 R420, R421) -/

/-- How many block images of a launch and generation the image area holds from a place on. -/
def countBlocks (s : State) (handle gen : Nat) : Nat → Nat → Nat
  | 0, _ => 0
  | n + 1, at_ =>
    let span := imageSpan s
    if span = 0 || awpOf s ≤ at_ then 0
    else
      let x := s.failure.imageBase + 0x1000 + at_ % span
      let size := memNat s.mem.bytes (x + 4) 4
      let mine := memNat s.mem.bytes x 4 == 1 + 2 ^ 17 && memNat s.mem.bytes (x + 8) 4 == handle
        && memNat s.mem.bytes (x + size - 8) 4 == gen
      flag mine + countBlocks s handle gen n (at_ + max 4096 (roundUp size 4096))

/-- A launch image placed: the launch runs again under its handle, its unplaced runs free (16 R420). What the image does
not hold: the context is the one its checkpoint was taken in, and the blocks without an image count as ended (log 28). -/
def restoreLaunch (x : Service) (bs : List Byte) (s : State) : State :=
  let handle := numAt bs 8 4 % 2 ^ 30
  let gen := numAt bs (bs.length - 8) 4
  let ctx := tget s.work.contexts 0 handle
  let r := parseRecord (recordWords (slice bs 0x20 64))
  let runs := (List.range (numAt bs 0x14 4)).map (fun i => (numAt bs (0x100 + 8 * i) 4,
    numAt bs (0x100 + 8 * i) 4 + numAt bs (0x104 + 8 * i) 4))
  let left := runs.foldl (fun n p => n + (p.2 - p.1)) 0
  match rolesOf s ctx r with
  | none => endService x 1 s
  | some roles =>
    let held := countBlocks s handle gen (imageSpan s / 4096 + 1) (arpOf s)
    let l : Launch := { handle := handle, record := r, context := ctx, roles := roles, free := sortBy (fun p => p.1) runs,
                        runs := [], lost := [],
                        ended := r.blocks - left - held, order := s.work.acceptCount, generation := tget s.work.generations 0 handle, restored := true,
                        replay := none }
    endService x 0 { s with fresh := s.fresh + 1, work := { s.work with
      launches := s.work.launches.filter (fun y => y.handle != handle) ++ [l]
      acceptCount := s.work.acceptCount + 1 } }

/-- The quad memory of an image written back. -/
def putQuadMemory (r : QuadRegion) (bs : List Byte) (s : State) : State :=
  (List.range (r.size / 64)).foldl (fun s i =>
    { s with mem := { s.mem with scratch := memWrite s.mem.scratch (quadByte r (64 * i)) (slice bs (64 * i) 64) } }) s

/-- A quad image placed on one quad, for one twin. -/
def restoreOn (l : Launch) (quad home : Nat) (twin : Bool) (bs : List Byte) (s : State) : State :=
  let s := openQuad l quad home twin s
  let size := if bit (numAt bs 0x10 4) 8 then numAt bs 0x104 4 else 0
  let ctx := slice bs 0x100 size
  match regionOf s l.handle quad twin with
  | none => s
  | some r =>
    let s := { s with work := { s.work with regions := s.work.regions.map (fun y =>
      if y == r then { y with orig := numAt bs 0x0C 4 } else y) } }
    let s := putQuadMemory r (bs.drop (0x100 + roundUp size 16)) s
    match r.context with
    | none => s
    | some c =>
      let k := ctlKey quad c
      match (controlAt s k).running.bind (findStrand s) with
      | none => s
      | some st =>
        if size = 0 then endStrand false st.who.id s
        else
          let st' := readStrand s st ctx
          let s := setControl k (readControl (controlAt s k) (ctx.drop (bodyAt ctx (field (numAt ctx 8 4) 6 0)))) s
          logImage st' (modStrand st.who.id (fun _ => st') { s with fresh := s.fresh + 1 })

/-- The quads of live dies on which a launch's quad memory can be opened. -/
def openQuads (s : State) (l : Launch) (twin : Bool) : List Nat :=
  ((liveDies s).flatMap quadsOf).filter (fun q => quadFits s l.record q (4 * q) 0 && (regionOf s l.handle q twin).isNone
    && (regionOf s l.handle q (!twin)).isNone)

/-- The quads for the secondary twin of a quad, by the order of its dies (16 R411). -/
def openTwins (s : State) (l : Launch) (q : Nat) : List Nat :=
  sortBy (fun t => (t / 4 + 24 - q / 4) % 16) ((openQuads s l true).filter (fun t => t / 4 != q / 4))

/-- A quad image placed: on a quad with a free context and room, and for a paired launch with its twin on the first other die of
R411 that has room; it waits until there is one (16 R411, R420). -/
def restoreQuad (x : Service) (l : Launch) (bs : List Byte) (s : State) : State :=
  let placed := (openQuads s l false).findSome? (fun q =>
    let s' := restoreOn l q q false bs s
    if !l.record.pair then some s'
    else (openTwins s' l q).head?.map (fun t => restoreOn l t q true bs s'))
  match placed with
  | some t => endService x 0 t
  | none => s

/-- Where the strands of a block image lie in it: the image of strand `sid`, and the place after its words. -/
def strandSlots (bs : List Byte) : Nat → Nat → List Nat
  | 0, at_ => [at_]
  | n + 1, at_ =>
    let words := at_ + roundUp (numAt bs (at_ + 4) 4) 16
    let count := (List.range 7).foldl (fun k i => k + numAt bs (words + 4 * i) 4) 0
    at_ :: strandSlots bs n (words + 32 + 4 * count)

/-- The words of a strand's queues read back, seven lists in the order of R419. -/
def queueWords (bs : List Byte) (at_ : Nat) (i : Nat) : List Word :=
  let before := (List.range i).foldl (fun k j => k + numAt bs (at_ + 4 * j) 4) 0
  (List.range (numAt bs (at_ + 4 * i) 4)).map (fun j => wordAt bs (at_ + 32 + 4 * (before + j)))

/-- A named barrier read back. -/
def barrierOf (w : Nat) : Barrier := ⟨field w 10 0, field w 21 11, bit w 22, bit w 23⟩

/-- A strand of a block image at a place. -/
def strandOfImage (s : State) (bs : List Byte) (slots : List Nat) (l : Launch) (n sid : Nat) (twin : Bool) (p : Place) : Strand :=
  let at_ := slots.getD sid 0
  let img := slice bs at_ (numAt bs (at_ + 4) 4)
  let q := at_ + roundUp (numAt bs (at_ + 4) 4) 16
  let marks := numAt bs (0x60 + 4 * sid) 4
  let st := readStrand s (roleStrand l (strandIdentity l n sid twin) p) img
  let phaseOf := fun (i : Nat) => bit (numAt bs (0x20 + 4 * i) 4) 23
  { st with
    promises := queueWords bs q 0, completions := queueWords bs q 1, acks := queueWords bs q 2, events := queueWords bs q 3
    pushed0 := queueWords bs q 4, pushed1 := queueWords bs q 5, pushed2 := queueWords bs q 6
    pendingBars := ((List.range 16).filter (fun i => bit marks i)).map (fun i =>
      (i, bit marks (16 + i), phaseOf i != bit marks (16 + i))) }

/-- The lane memory and scratch of a block image written back (16 R420). -/
def putBlockMemory (l : Launch) (n : Nat) (twin : Bool) (bs : List Byte) (at_ : Nat) (s : State) : State :=
  let lane := l.record.laneMem
  let s := (List.range l.record.strands).foldl (fun s sid =>
    match findStrand s (strandIdentity l n sid twin).id with
    | none => s
    | some st => { s with mem := { s.mem with
        slices := memWrite s.mem.slices (laneAddr st 0) (slice bs (at_ + lane * sid) lane) } }) s
  match s.work.blocks.find? (fun b => b.handle == l.handle && b.idx == n && b.twin == twin) with
  | none => s
  | some b => { s with mem := { s.mem with
      scratch := memWrite s.mem.scratch (coreBase b.core + b.base) (slice bs (at_ + lane * l.record.strands) b.size) } }

/-- The `wwait` at a fragment's place. -/
def watchWord (s : State) (st : Strand) (f : Fragment) : Option (Word × Reg) :=
  match fetchAt s st f.wordAddr with
  | .word w => (match decodeOne w with
    | .ok (.wwait d _ _ _ _ _) => some (w, d)
    | _ => none)
  | .held | .absent _ _ | .bad _ _ _ _ => none

/-- A watch at another package's home that a restored strand reclaims: the home is told the strand's new place, and its reply
ends the wait; one that has come already ends it at once (02 R50; 08 R241; log 29). -/
def reclaimFar (id : StrandId) (frag entry : Nat) (s : State) : State :=
  match findStrand s id, s.mem.ops.find? (fun o => o.owner == id && o.farWatch s && watchNumber s o.id == entry) with
  | some st, some o =>
    (match st.frag? frag with
     | none => s
     | some f =>
       let s := modStrand id (Strand.modFrag frag (fun f => { f with wait := .watch o.id, begun := .sent o.id })) s
       let s := modOp (fun o => { o with
         frag := frag, die := st.place.die, core := st.place.core, pc := f.hdr, widx := f.widx, head := f.head }) o.id s
       sendTo (entry / 65536) (.watchMove (entry / 65536) (entry % 65536) (ownerWord s st)) s)
  | _, _ => s

/-- A fragment of an EVICT image that waited for a watch reclaims its entry: its reply goes to the restored lane, or the
status that it holds completes the wait (02 R50; 16 R420). -/
def reclaimWatch (id : StrandId) (frag entry : Nat) (s : State) : State :=
  if entry / 65536 ≠ pkgNo s then reclaimFar id frag entry s
  else
  let key := entry % 65536
  match findStrand s id, tget? s.mem.watches key with
  | some st, some e =>
    (match st.frag? frag, e.who with
     | some f, .strand _ who _ =>
       (match watchWord s st f with
        | none => s
        | some (w, d) =>
          if who != id then s
          else
            let opId := s.mem.nextOp
            let a := { newAccess f.mask 0 e.addr (watchSize e.wide) 0 0 0 with
              state := match e.status with
                | some _ => .done
                | none => .switched
              result := BitVec.ofNat 128 (e.status.getD 0) }
            let o : Op := { id := opId, owner := id, frag := frag, die := st.place.die, core := st.place.core,
                            what := .watch e.cmp e.wide e.deadline, dst := d, scope := .lane, gate := false, holds := true,
                            uniform := true, full := f.mask == BitVec.allOnes 32, remote := false, switchHeld := false,
                            windowed := false, shared := none, pc := f.hdr, widx := f.widx, head := f.head, mode := (contextAt s st.who.context).aplace.toNat % 4, word := w, accs := [a] }
            let e' := { e with who := .strand opId id (ownerWord s st) }
            let s := modStrand id (Strand.modFrag frag (fun f => { f with wait := .watch opId, begun := .sent opId })) s
            { s with mem := { s.mem with
                ops := s.mem.ops ++ [o], nextOp := opId + 1
                watches := tset s.mem.watches key (if e.status.isSome then none else some e') } })
     | _, _ => s)
  | _, _ => s

/-- The watches that the strands of an EVICT image reclaim. -/
def reclaimAll (bs : List Byte) (slots : List Nat) (l : Launch) (n : Nat) (twin : Bool) (s : State) : State :=
  (List.range l.record.strands).foldl (fun s sid =>
    let at_ := slots.getD sid 0
    (List.range (field (numAt bs (at_ + 12) 4) 5 0)).foldl (fun s i =>
      let rec_ := at_ + 0x100 + 48 * i
      if numAt bs (rec_ + 24) 1 = 6 && field (numAt bs (rec_ + 12) 4) 10 8 = 4 then
        reclaimWatch (strandIdentity l n sid twin).id i (numAt bs (rec_ + 28) 4) s
      else s) s) s

/-- A block image placed on a core, for one twin; strands that had ended or were killed out of residency stay away; of
the latter the queues of the block are unbound, and the block is marked abandoned (16 R408). -/
def restoreTwin (l : Launch) (core home n : Nat) (twin : Bool) (bs : List Byte) (live : List StrandId) (s : State) : State :=
  let slots := strandSlots bs l.record.strands 0x100
  let s0 := s
  let mk := fun (sid : Nat) (p : Place) => strandOfImage s0 bs slots l n sid twin p
  let blk := fun (b : Block) => { b with
    bars := Vector.ofFn (fun i : Fin 16 => barrierOf (numAt bs (0x20 + 4 * i.val) 4)), abandoned := bit (numAt bs 0x10 4) 8 }
  let s := putBlock l core home n twin mk blk s
  let s := putBlockMemory l n twin bs (slots.getD l.record.strands 0) s
  let s := (List.range l.record.strands).foldl (fun s sid =>
    let id := (strandIdentity l n sid twin).id
    match findStrand s id with
    | none => s
    | some st =>
      if st.all.all (fun f => f.mask = 0) then
        modBlock l.handle n twin (fun b => { b with strands := b.strands - 1 }) (removeStrand id s)
      else if !live.contains id then
        let s := (st.binds.toList.filterMap (fun b => b)).foldl (fun s b => if b.quadSpace then s else unbindAt st b true s) s
        modBlock l.handle n twin (fun b => { b with strands := b.strands - 1, abandoned := true }) (removeStrand id s)
      else
        let acks := (s.work.heldAcks.filter (fun x => x.1 == id)).map (fun x => x.2)
        let s := { s with work := { s.work with heldAcks := s.work.heldAcks.filter (fun x => x.1 != id) } }
        logImage st (modStrand id (fun y => { y with acks := y.acks ++ acks }) s)) s
  let s := if numAt bs (bs.length - 8) 4 = 0 then reclaimAll bs slots l n twin s else s
  { s with fresh := s.fresh + 1 }

/-- A block image placed on its quad, which for the image of a checkpoint is the one restored from it, both twins together; it waits until the quad image is
placed and there is room (16 R420). -/
def restoreBlock (x : Service) (l : Launch) (bs : List Byte) (s : State) : State :=
  let n := numAt bs 0x0C 4
  let orig := numAt bs 0x1C 4
  let evicted := s.work.evicted.find? (fun e => e.handle == l.handle && e.idx == n)
  let live := match evicted with
    | some e => if numAt bs (bs.length - 8) 4 = 0 then e.strands else []
    | none => []
  let live := if live.isEmpty then [false, true].flatMap (fun t =>
    (List.range l.record.strands).map (fun i => (strandIdentity l n i t).id)) else live
  let on := fun (p : QuadRegion → Nat) => s.work.regions.find? (fun r => r.handle == l.handle && p r == orig && !r.twin)
  match (if numAt bs (bs.length - 8) 4 = 0 then (on (fun r => r.quad)).or (on (fun r => r.orig)) else on (fun r => r.orig)) with
  | none => s
  | some r =>
    match chooseCore s l false (coresOf r.quad) with
    | none => s
    | some core =>
      let whole := fun (s' : State) (twin : Bool) => (List.range l.record.strands).all (fun i =>
        let id := (strandIdentity l n i twin).id
        !live.contains id || (findStrand s' id).isSome || ((strandOfImage s bs (strandSlots bs l.record.strands 0x100) l n i twin .none).all.all (fun f => f.mask = 0)))
      let done := fun (s : State) => endService x 0 { s with work := { s.work with
        evicted := s.work.evicted.filter (fun e => !(e.handle == l.handle && e.idx == n)) } }
      let s' := restoreTwin l core r.quad n false bs live s
      if !whole s' false then s
      else if !l.record.pair then done s'
      else
        let quads := (s'.work.regions.filter (fun y => y.handle == l.handle && y.twin && y.home == r.quad)).map (fun y => y.quad)
        match chooseCore s' l true (quadCores quads) with
        | none => s
        | some c =>
          let s2 := restoreTwin l c r.quad n true bs live s'
          if whole s2 true then done s2 else s

/-- `RESTORE` (02 R55; 16 R420): a sealed image is placed. Status 1 for an image that is none, 2 for a checkpoint's image of a
launch that runs without having been restored, and for a block or quad image without its launch or its place (log 36). -/
def execRestore (svc : Nat) (s : State) : Out :=
  .next (beginService svc .restore s (fun x s =>
    if 2 ^ 52 ≤ x.arg.toNat then endService x 1 s
    else match readImage s x.arg.toNat with
      | none => endService x 1 s
      | some bs =>
        let kind := field (numAt bs 0 4) 18 16
        let gen := numAt bs (bs.length - 8) 4
        let l? := findLaunch s (numAt bs 8 4 % 2 ^ 30)
        let n := numAt bs 0x0C 4
        let resident := fun (l : Launch) => s.work.blocks.any (fun b => b.handle == l.handle && b.idx == n)
        match l? with
        | none => if kind = 4 then restoreLaunch x bs s else endService x 2 s
        | some l =>
          if gen != 0 && !l.restored then endService x 2 s
          else if kind = 4 then restoreLaunch x bs s
          else if kind = 3 then restoreQuad x l bs s
          else if resident l || (gen = 0 && !s.work.evicted.any (fun e => e.handle == l.handle && e.idx == n)) then endService x 2 s
          else restoreBlock x l bs s))

/-! ### KILL (09 R290; 16 R407) -/

/-- `KILL` (09 R290; 16 R407): the strand is to be killed; the call completes once it has been. A strand out of residency is
killed at once. -/
def execKill (svc : Nat) (s : State) : Out :=
  match serviceOf s svc .kill with
  | none => .next s
  | some x =>
    let arg := x.arg.toNat
    let id : StrandId := ⟨arg % 2 ^ 30, arg / 2 ^ 32⟩
    if x.begun then (if (findStrand s id).isNone then .next (endService x 0 s) else .next s)
    else if !svcReady s x then .next s
    else if field arg 31 30 != 0 then .next (endService x 1 s)
    else if (findLaunch s id.handle).isNone then .next (endService x 2 s)
    else match findStrand s id with
      | some st =>
        if st.all.isEmpty then .next (endService x 2 s)
        else .next (modService x.id (fun x => { x with begun := true }) (markKill id s))
      | none =>
        if s.work.evicted.any (fun e => e.strands.contains id) then
          .next (endService x 0 (killEvicted (twinOf id) (killEvicted id s)))
        else .next (endService x 2 s)

end Sys2Proof.Machine
end

