-- ==== Sys2Proof/Machine/Failure.lean ====
section
/-! DEFINITION. Failing memory, dies, packages and links: patrol reads, rebuilds, the loss of a stack, fencing, the loss of a
peer, retries and retraining (15 R372–R396). -/

namespace Sys2Proof.Machine

/-! ### Errors in the memory arrays (15 R374–R376) -/

/-- The data unit of a stripe that lies on a stack. -/
def unitOn (stripe stack : Nat) : Nat := stripe * 15 + (if stack < parityStack stripe then stack else stack - 1)

/-- The data units of a stripe. -/
def stripeUnits (stripe : Nat) : List Nat := (List.range 15).map (fun i => stripe * 15 + i)

/-- The stack of a stripe's unit, and its channel, as one number; `unit` is 2^32 + the stripe for its parity unit. -/
def unitChannel (unit : Nat) : Nat :=
  if 2 ^ 32 ≤ unit then parityStack (unit - 2 ^ 32) * 32 + (unit - 2 ^ 32) % 32
  else stackOf false (unit * 256) * 32 + channelOf false (unit * 256)

/-- Whether a unit of HBM or of its parity lies on the lost stack, whose home agents have stopped (15 R381). -/
def onLostStack (s : State) (unit : Nat) : Bool :=
  match s.mem.mode with
  | .degraded l => unitChannel unit / 32 == l
  | _ => false

/-- WHERE of a unit's record; no fabric address names a parity unit, so there it is a free value (log 38). -/
def unitWhere (s : State) (unit : Nat) : DWord :=
  if 2 ^ 32 ≤ unit && unit < 2 ^ 33 then BitVec.ofNat 64 (leNat (freeBytes s unit 8)) else fabOf s (unit * 256)

/-- A unit of HBM or of its parity marked poisoned, with its record (15 R376, R378, R380). -/
def poisonAny (unit : Nat) (s : State) : State :=
  if 2 ^ 32 ≤ unit && unit < 2 ^ 33 then
    if s.mem.poisoned.contains unit then s
    else logEvent 3 (unitChannel unit / 32) (unitWhere s unit) 0
      { s with fresh := s.fresh + 1, mem := { s.mem with poisoned := s.mem.poisoned ++ [unit] } }
  else poisonUnit unit s

/-- A rebuild begins: its stripe is frozen (15 R376). -/
def beginRebuild (unit stripe : Nat) (s : State) : State :=
  if s.mem.rebuilds.any (fun r => r.unit == unit) then s
  else { s with mem := { s.mem with rebuilds := s.mem.rebuilds ++ [⟨unit, stripe⟩] } }

/-- An uncorrectable unit of a stripe, by the state of the package's memory (15 R374, R380). -/
def badUnit (unit stripe : Nat) (s : State) : State :=
  let data := decide (unit < 2 ^ 32)
  match s.mem.mode with
  | .fenced => s
  | .plain => if data then poisonUnit unit s else s
  | .parity => if data && s.mem.poisoned.contains unit then s else beginRebuild unit stripe s
  | .degraded l =>
    if parityStack stripe = l then (if data then poisonUnit unit s else s)
    else if unit = unitOn stripe l then s
    else poisonUnit (unitOn stripe l) (poisonAny unit s)

/-- A scratchpad word marked poisoned, with its record (15 R372, R378): kind 1 a lane slice, 2 a core scratchpad, 4 a die
scratchpad. -/
def poisonWord (kind word : Nat) (s : State) : State :=
  if s.mem.poisonedScratch.contains (kind, word) then s
  else
    let x := word * 32
    let place := if kind = 4 then (fabOf s x).toNat
      else if kind = 2 then x / 2 ^ 40 % 2 ^ 8 + x % 2 ^ 32 * 2 ^ 16
      else x / 2 ^ 23 % 2 ^ 8 + x / 2 ^ 16 % 2 ^ 7 * 2 ^ 8 + x % 2 ^ 16 * 2 ^ 16
    logEvent 3 0xFFFF (BitVec.ofNat 64 place) (BitVec.ofNat 64 kind)
      { s with mem := { s.mem with poisonedScratch := s.mem.poisonedScratch ++ [(kind, word)] } }

/-- An error in an array that no home agent patrols, with the same numbering of its place (log 39): kinds 1, 2 and 4 are
scratchpad words, kind 5 a unit whose line a core holds near with ownership. -/
def badWord (kind word : Nat) (s : State) : State :=
  if kind = 1 then (if word < 2 ^ 26 then poisonWord 1 word s else s)
  else if kind = 2 then (if word < 2 ^ 43 then poisonWord 2 word s else s)
  else if kind = 4 then
    (match zoneOf (isPlain s) (word * 32) with
     | .die d => if s.failure.fencedDies.contains d then s else poisonWord 4 word s
     | _ => s)
  else if kind = 5 && s.mem.points.any (fun p => p.owner.isSome && p.line / 2 == word) then poisonUnit word s
  else s

/-- `HBM_PATROL_READ` (15 R374, R375, R428): a home agent reads a unit. The number names data units by address / 256, pool
units likewise, parity units by 2^32 + stripe, and places of other arrays from 2^40 on by their kind and word (log 39). -/
def execHbmPatrolRead (unit : Nat) (found : ArrayCheck) (s : State) : Out :=
  let zone := zoneOf (isPlain s) (unit * 256)
  match found with
  | .good => .next s
  | .correctable =>
    if 2 ^ 40 ≤ unit then .next s
    else if 2 ^ 32 ≤ unit && unit < 2 ^ 33 then
      .next (if isPlain s || onLostStack s unit then s else logEvent 1 (unitChannel unit / 32) (unitWhere s unit) 0 { s with fresh := s.fresh + 1 })
    else if (zone = .hbm && !onLostStack s unit) || zone = .pool then .next (logEvent 1 (logUnit s (unit * 256)) (unitWhere s unit) 0 s)
    else .next s
  | .uncorrectable =>
    if 2 ^ 40 ≤ unit then .next (badWord ((unit - 2 ^ 40) % 8) ((unit - 2 ^ 40) / 8) s)
    else if 2 ^ 32 ≤ unit && unit < 2 ^ 33 then .next (if isPlain s then s else badUnit unit (unit - 2 ^ 32) s)
    else if zone = .hbm then .next (badUnit unit (unit / 15) s)
    else if zone = .pool then .next (poisonUnit unit s)
    else .next s

/-! ### Fencing the package (15 R390) -/

/-- The package is fenced: strands stop, launches are no longer accepted, and every trained port carries the notice. -/
def fencePackage (arg : Nat) (s : State) : State :=
  if s.mem.mode = .fenced then s
  else
    let s := logEvent 6 (pkgNo s) 0 (BitVec.ofNat 64 arg) { s with mem := { s.mem with mode := .fenced } }
    ((List.range 18).filter (fun i => (vget s.links.ports i .untrained).up)).foldl (fun s i =>
      sendTo (512 + i) (.fencedNotice (pkgNo s)) s) s

/-- `HUB_FIRMWARE_FAILURE` (15 R372, R390). -/
def execHubFirmwareFailure (s : State) : Out := .next (fencePackage 2 s)

/-! ### Losing a stack (15 R380–R383) -/

/-- Whether an access is to an address of HBM on a stack. -/
def onStack (s : State) (l : Nat) (a : Access) : Bool :=
  let x := fabLocal a.fab
  isLocal s a.fab && zoneOf (isPlain s) x == .hbm && stackOf (isPlain s) x == l

/-- Rebuilds under way when a stack is lost: one of a unit on it ends; for another the stripe has lost two units. -/
def cutRebuild (l : Nat) (s : State) (r : Rebuild) : State :=
  if unitChannel r.unit / 32 = l then s
  else
    let s := poisonAny r.unit s
    if parityStack r.stripe = l then s else poisonUnit (unitOn r.stripe l) s

/-- Writes whose delta was on the way to a parity home on the lost stack: they are performed (15 R383). -/
def performOn (l : Nat) (s : State) : State :=
  let parity := fun (x : Nat) => parityStack (stripeOf x) == l
  let s := s.mem.ops.foldl (fun s o => o.accs.zipIdx.foldl (fun s p =>
    if p.1.state == .applied && isLocal s p.1.fab && zoneOf (isPlain s) (fabLocal p.1.fab) == .hbm && parity (fabLocal p.1.fab)
    then settleOp o.id (modAcc o.id p.2 (fun a => { a with state := .done }) s) else s) s) s
  { s with engines := { s.engines with nears := s.engines.nears.map (fun c => { c with units := c.units.map (fun u =>
      if u.state == .applied && parity u.tgt then { u with state := .done } else u) }) } }

/-- Requests to the lost stack whose reply is not at its requester lose it: reads are sent again, and what returned other data ends with
REMOTE_FAULT (15 R381, R382; log 40). -/
def loseReplies (l : Nat) (s : State) : State :=
  s.mem.ops.foldl (fun s o =>
    let again := match o.what with
      | .load _ | .loadv _ | .acq | .docRead | .docStat => true
      | _ => false
    if !o.holds then s
    else o.accs.zipIdx.foldl (fun s p =>
      if p.1.state == .done && onStack s l p.1 && (again || replyDied o) then
        modAcc o.id p.2 (fun a => { a with state := if again then .waiting else .failed .remoteFault }) s
      else s) s) s

/-- A stack is lost (15 R380): in PARITY the take-over begins, in DEGRADED and PLAIN the package is fenced. -/
def loseStack (l arg : Nat) (s : State) : State :=
  match s.mem.mode with
  | .fenced => s
  | .plain => fencePackage 1 (logEvent 4 l 0 (BitVec.ofNat 64 arg) s)
  | .degraded m => if m = l then s else fencePackage 0 (logEvent 4 l 0 (BitVec.ofNat 64 arg) s)
  | .parity =>
    let cut := s.mem.rebuilds
    let s := { s with mem := { s.mem with mode := .degraded l, lostAt := some s.tick, settled := false, rebuilds := [] } }
    performOn l (loseReplies l (cut.foldl (cutRebuild l) (logEvent 4 l 0 (BitVec.ofNat 64 arg) s)))

/-- `STACK_BASE_DIE_SILENT` (15 R380): the base die has not answered for 10,000 ticks. -/
def execStackBaseDieSilent (stack : Nat) (s : State) : Out := .next (if stack < 16 then loseStack stack 0 s else s)

/-- A write taken out of the order of its bytes (15 R382). -/
def withdraw (x : Nat) (delta : List Byte) (s : State) : State :=
  { s with mem := { s.mem with bytes := memWrite s.mem.bytes x (xorBytes (memRead s.mem.bytes x delta.length) delta) } }

/-- A withdrawn write's issuer receives REMOTE_FAULT: through `psf` for a store, a deposit, or a request that has been
answered already (log 40), else by its reply. -/
def withdrawAcc (o : Op) (i : Nat) (a : Access) (s : State) : State :=
  let s := withdraw (fabLocal a.fab) a.delta s
  if o.what.posted then failAcc o.id i .remoteFault s
  else
    let s := modAcc o.id i (fun a => { a with state := .failed .remoteFault }) s
    if o.holds then s else settleOp o.id (postedFailure o.owner .remoteFault (BitVec.ofNat 64 a.fab) a.index s)

/-- Every write to the lost stack whose delta has not been applied, withdrawn. -/
def withdrawAll (l : Nat) (s : State) : State :=
  let s := s.mem.ops.foldl (fun s o => o.accs.zipIdx.foldl (fun s p =>
    if p.1.state == .applied && onStack s l p.1 then withdrawAcc o p.2 p.1 s else s) s) s
  s.engines.nears.foldl (fun s c => c.units.zipIdx.foldl (fun s p =>
    if p.1.state == .applied && stackOf false p.1.tgt == l then
      modNear c.id p.2 (fun u => { u with state := .failed .remoteFault }) (withdraw p.1.tgt p.1.delta s)
    else s) s) s

/-- Lines homed on the lost stack leave the dies' caches (15 R381). -/
def dropLines (l : Nat) (s : State) : State :=
  let on := fun (x : Nat) => zoneOf (isPlain s) x == .hbm && stackOf (isPlain s) x == l
  { s with mem := { s.mem with
      copies := s.mem.copies.filter (fun c => !(isLocal s (c.line * 128) && on (fabLocal (c.line * 128))))
      modified := s.mem.modified.filter (fun p => !on (p.2 * 128)) } }

/-- Armed watches on words of a stack evaluated afresh (15 R381). -/
def reevalStack (l : Nat) (s : State) : State :=
  s.mem.watches.foldl (fun s p =>
    let e := p.2
    if e.status = none && isLocal s e.addr && zoneOf (isPlain s) (fabLocal e.addr) == .hbm
        && stackOf (isPlain s) (fabLocal e.addr) == l && watchHolds e.cmp (watchedWord s e) e.cmpv.toNat
    then answerWatch p.1 0 s else s) s

/-- `SETTLE_POINT` (15 R381, R382): 2,000 ticks after the loss late deltas are refused, their writes are withdrawn, and the
proxy homes take over. -/
def execSettlePoint (s : State) : Out :=
  match s.mem.mode, s.mem.lostAt with
  | .degraded l, some t =>
    if s.mem.settled || s.tick.toNat < t.toNat + 2000 then .next s
    else
      let s := dropLines l (withdrawAll l s)
      let s := { s with mem := { s.mem with settled := true } }
      .next (if s.failure.fencedDies.contains l then s else reevalStack l s)
  | _, _ => .next s

/-! ### Rebuilds and the error log (15 R373, R375, R376) -/

/-- A rebuild counts for its channel; the 16th within 1,000,000,000 ticks fails the channel, and its stack is lost. -/
def countRebuild (unit : Nat) (s : State) : State :=
  let c := unitChannel unit
  let l := s.mem.rebuildTicks.filter (fun p => decide (s.tick.toNat < p.2.toNat + 1000000000)) ++ [(c, s.tick)]
  let s := { s with mem := { s.mem with rebuildTicks := l } }
  if 16 ≤ (l.filter (fun p => p.1 == c)).length then loseStack (c / 32) 1 s else s

/-- A unit rebuilt from the others of its stripe. -/
def rebuildUnit (unit stripe : Nat) (s : State) : State :=
  if 2 ^ 32 ≤ unit then recomputeParity stripe s
  else
    let v := ((stripeUnits stripe).filter (fun u => u != unit)).foldl
      (fun v u => xorBytes v (memRead s.mem.bytes (u * 256) 256)) (memRead s.mem.parity (stripe * 256) 256)
    { s with mem := { s.mem with bytes := memWrite s.mem.bytes (unit * 256) v } }

/-- `UNIT_REBUILD_COMPLETE` (15 R375, R376): once every delta of the stripe has been applied, the unit is rebuilt and the
freeze released; two uncorrectable units of one stripe are poisoned instead, and its parity is recomputed (log 78). -/
def execUnitRebuildComplete (unit : Nat) (s : State) : Out :=
  match s.mem.rebuilds.find? (fun r => r.unit == unit) with
  | none => .next s
  | some r =>
    if stripeBusy s r.stripe then .next s
    else
      let mine := s.mem.rebuilds.filter (fun x => x.stripe == r.stripe)
      let s := { s with mem := { s.mem with rebuilds := s.mem.rebuilds.filter (fun x => x.stripe != r.stripe) } }
      if 2 ≤ mine.length then
        .next (recomputeParity r.stripe (mine.foldl (fun s x => poisonAny x.unit s) s))
      else
        let s := logEvent 2 (unitChannel unit / 32) (unitWhere s unit) 0 (rebuildUnit unit r.stripe s)
        .next (countRebuild unit { s with fresh := s.fresh + 1 })

/-- A report of lost ranges that was kept back reaches the firmware when it holds fewer than 4,096 records again (15 R373). -/
def takeLater (s : State) : State :=
  match s.failure.logLater with
  | [] => s
  | r :: rest =>
    if s.failure.logHeld.length < 4096 then takeRecord r { s with failure := { s.failure with logLater := rest } } else s

/-- `ERROR_LOG_FLUSH` (15 R373): the oldest held record is written once the ring has room. -/
def execErrorLogFlush (s : State) : Out :=
  match s.failure.logHeld with
  | [] => .next (takeLater s)
  | r :: rest =>
    if logRoom s then .next (takeLater (putRecord r { s with failure := { s.failure with logHeld := rest } })) else .next s

/-! ### Fencing a die (15 R384–R389) -/

/-- The end of a watch whose home is gone. -/
def failWatch (key : Nat) (e : WatchEntry) (s : State) : State :=
  let s' := { s with mem := { s.mem with watches := tset s.mem.watches key none } }
  match e.who with
  | .hub _ hart => send (.hubFault hart .remoteFault) s'
  | .peer tag _ _ => replyPeer tag (homeNo s (fabLocal e.addr)) 0 (some .remoteFault) s'
  | .strand op _ _ => modAcc op 0 (fun a => { a with state := .failed .remoteFault }) s'

/-- The watches that a die holds end with REMOTE_FAULT. -/
def failWatches (die : Nat) (s : State) : State :=
  (s.mem.watches.filter (fun p => p.1 / 4096 == die)).foldl (fun s p => failWatch p.1 p.2 s) s

/-- Runs of indices in order, those that touch joined. -/
def joinRuns : List (Nat × Nat) → List (Nat × Nat)
  | [] => []
  | p :: r =>
    match joinRuns r with
    | q :: t => if q.1 ≤ p.2 then (p.1, max p.2 q.2) :: t else p :: q :: t
    | [] => [p]

/-- Runs sorted and joined. -/
def orderRuns (l : List (Nat × Nat)) : List (Nat × Nat) :=
  joinRuns (sortBy (fun p => p.1) (l.filter (fun p => decide (p.1 < p.2))))

/-- The blocks of a launch placed on a die, one index each for twins. -/
def blocksOnDie (s : State) (handle die : Nat) : List Nat :=
  (s.work.blocks.filter (fun b => b.handle == handle && b.core / 16 == die)).map (fun b => b.idx)

/-- Indices of a fenced die's range go back to the master, and blocks placed there too with IDEM; without it they are lost,
with one record for each run of them (15 R387). -/
def returnRanges (die : Nat) (l : Launch) (gone : List Nat) (s : State) : State :=
  let mine := (l.runs.filter (fun r => r.die == die)).map (fun r => (r.lo, r.hi))
  let placed := orderRuns (gone.map (fun n => (n, n + 1)))
  let back := if l.record.idem then mine ++ placed else mine
  let lost := if l.record.idem then [] else placed
  let s := modLaunch l.handle (fun l => { l with
    free := orderRuns (l.free ++ back), runs := l.runs.filter (fun r => r.die != die)
    lost := l.lost ++ lost.map (fun p => (die, p.1, p.2)) }) s
  lost.foldl (fun s p => logEvent 10 die (BitVec.ofNat 64 ((p.2 - p.1) * 2 ^ 32 + p.1)) (BitVec.ofNat 64 l.handle) s) s

/-- Operations of a fenced die's strands: accesses that had not reached their home are discarded (15 R386). -/
def discardOps (die : Nat) (s : State) : State :=
  let cut := fun (o : Op) => match o.what with
    | .service _ _ => o
    | _ => if o.die == die then
        { o with gate := false, windowed := false, switchHeld := false, accs := o.accs.map (fun a =>
            if a.state == .waiting then { a with state := .done } else a) }
      else o
  let s := { s with mem := { s.mem with ops := s.mem.ops.map cut } }
  s.mem.ops.foldl (fun s o => if o.die == die then sweepOp o.id s else s) s

/-- The writes that a fenced die's L2 has applied to lines it held near, and whose deltas no parity home has applied: the lines fall
back to what the homes hold, and the requests of other dies go there (15 R377, R386). -/
def withdrawNear (die : Nat) (s : State) : State :=
  let near := fun (x : Nat) => s.mem.points.any (fun p => p.line == x / 128 && (match p.owner with
    | some c => c / 16 == die
    | none => false))
  s.mem.ops.foldl (fun s o => o.accs.zipIdx.foldl (fun s p =>
    let x := fabLocal p.1.fab
    if p.1.state == .applied && isLocal s p.1.fab && hasParity s x && near x && !unsettledAt s x then
      modAcc o.id p.2 (fun a => { a with state := if o.die == die then .done else .waiting, delta := [] }) (withdraw x p.1.delta s)
    else s) s) s

/-- Near-memory commands of strands: units that no engine has written are discarded. -/
def discardNears (ids : List StrandId) (s : State) : State :=
  { s with engines := { s.engines with nears := s.engines.nears.map (fun c =>
      if ids.contains c.owner then { c with units := c.units.map (fun u =>
        if u.state == .waiting then { u with state := .failed .remoteFault } else u) } else c) } }

/-- What a fenced die held: near copies, pairs, translations, partials and the ownership of lines. The writes of its copy engines
that have left stay counted until they are answered (10 R298). -/
def clearDie (die : Nat) (s : State) : State :=
  { s with
    mem := { s.mem with
      copies := s.mem.copies.filter (fun c => c.die != die)
      docs := s.mem.docs.filter (fun c => c.die != die)
      tlb := s.mem.tlb.filter (fun e => agentDie e.agent != die)
      modified := s.mem.modified.filter (fun p => p.1 != die)
      partials := s.mem.partials.filter (fun p => p.core / 16 != die)
      points := s.mem.points.map (fun p => match p.owner with
        | some c => if c / 16 = die then { p with owner := none } else p
        | none => p) }
    work := { s.work with regions := s.work.regions.filter (fun r => r.quad / 4 != die) }
    engines := { s.engines with
      controls := s.engines.controls.filter (fun p => p.1 / 16 != die)
      copies := (s.engines.copies.filter (fun c => c.quad / 4 != die || !c.unacked.isEmpty)).map (fun c =>
        if c.quad / 4 = die then { c with decided := true, posted := true } else c) } }

/-- The master distributor and its deputy after a fence (15 R387, R388): records read but not accepted are read again. -/
def failOver (die : Nat) (s : State) : State :=
  let live := liveDies s
  let m := if s.work.master = die then (if live.contains s.work.deputy then s.work.deputy else live.headD 0) else s.work.master
  let d := ((live.filter (fun e => e != m)).headD m)
  let changed := m != s.work.master
  let s := { s with work := { s.work with master := m, deputy := d } }
  if changed then
    { s with work := { s.work with
        queues := s.work.queues.map (fun (q : LaunchQueue) => { q with rereads := 0, nextRead := 0 })
        graphRecs := s.work.graphRecs.filter (fun g => match g.source with
          | .queue _ => false
          | .strand _ => true) } }
  else s

/-- The strands that a fence ends: those on the die, the rest of their blocks' twins, and the twins of its control
programs (log 41). -/
def fencedStrands (s : State) (die : Nat) : List StrandId :=
  ((strandsOf s).filter (fun st =>
    st.place.die == die
      || (!st.place.isCtl && (blocksOnDie s st.who.id.handle die).contains st.who.blockIdx)
      || (st.place.isCtl && isPaired s st && (match findStrand s (twinOf st.who.id) with
          | some t => t.place.die == die
          | none => false)))).map (fun st => st.who.id)

/-- A compute die is fenced (15 R384–R389). -/
def fenceDie (die reason : Nat) (s : State) : State :=
  if 16 ≤ die || s.failure.fencedDies.contains die then s
  else
    let s := logEvent 5 die 0 (BitVec.ofNat 64 reason)
      { s with failure := { s.failure with fencedDies := s.failure.fencedDies ++ [die] } }
    let s := failWatches die (loseStack die 2 s)
    let s := (s.engines.copies.filter (fun c => c.quad / 4 == die)).foldl (fun s c => failCopy c.id none .remoteFault s) s
    let ids := fencedStrands s die
    let launches := s.work.launches
    let gone := launches.map (fun l => (l, (blocksOnDie s l.handle die).eraseDups))
    let hit := fun (b : Block) => (blocksOnDie s b.handle die).contains b.idx
    let s := { s with work := { s.work with blocks := s.work.blocks.filter (fun b => !hit b) } }
    let here := ids.filter (fun id => match findStrand s id with
      | some st => st.place.die == die
      | none => false)
    let s := discardNears here (ids.foldl (fun s id => killNow id s) s)
    let s := gone.foldl (fun s p => returnRanges die p.1 p.2 s) s
    updateMirror (failOver die (clearDie die (discardOps die (withdrawNear die s))))

/-- `DIE_FENCE` (15 R384): by an error of its control logic (1) or of its links (2); 0 is the self-test of R339. -/
def execDieFence (die reason : Nat) (s : State) : Out := .next (if reason ≤ 2 then fenceDie die reason s else s)

/-! ### Losing a peer package (15 R395, R396, R398) -/

/-- The package that a request which has left is bound for. -/
def boundFor (s : State) (o : Op) (a : Access) : Nat :=
  if a.kind == 4 then (match o.what with
    | .atomic _ _ | .acqrel | .watch _ _ _ => (borrowAt s a.index).lender
    | _ => fabPkg a.fab)
  else fabPkg a.fab

/-- Whether an access has been sent to a package other than this one, by this operation itself. -/
def sentAway (s : State) (o : Op) (a : Access) : Bool :=
  a.state == .switched && boundFor s o a != pkgNo s && (match o.shared with
    | some (_, later) => !later
    | none => true)

/-- The write-backs of a lost lease will never be acknowledged; those of a strand's release are failed writes of it (11
R323). -/
def cutWriteback (borrow unit : Nat) (s : State) : State :=
  match stagedAt s borrow unit with
  | .writing sent since t _ begun _ =>
    let s := setStaged borrow unit (.dirty t (merge sent since) [] s.tick) s
    (match begun with
     | some id => postedFailure id .lenderLost (fabOf s (stageAddr s borrow unit)) borrow s
     | none => s)
  | .dirty t m _ d => setStaged borrow unit (.dirty t m [] d) s
  | _ => s

/-- A borrow entry whose lender is lost (11 R318; 15 R396): accesses that wait for its units fail. -/
def loseBorrow (i : Nat) (s : State) : State :=
  let x := borrowAt s i
  let s := leaveActive i (setBorrow i { x with state := .lost, lastRenewal := none } s)
  let s := (stagedOf s i).foldl (fun s u => cutWriteback i u s) s
  let waits := fun (o : Op) (a : Access) => a.kind == 4 && a.index == i && a.state == .switched && !sentAway s o a
  failAccs waits .lenderLost s

/-- What this package holds of a lost one: its lease and borrow entries, watches, tags and held fences (15 R396; log 79). -/
def dropPeer (q : Nat) (s : State) : State :=
  let s := { s with links := { s.links with
    lostPeers := merge s.links.lostPeers [q], admitted := s.links.admitted.filter (fun p => p != q)
    noRoute := s.links.noRoute.filter (fun p => p.1 != q), unacked := s.links.unacked.filter (fun t => t.1.pkg != q && t.2 != q)
    awaited := s.links.awaited.filter (fun a => a.dest != q), queued := s.links.queued.filter (fun m => m.1 != q)
    ports := Vector.ofFn (fun (i : Fin 18) =>
      let p := s.links.ports[i]
      if p.up then p else { p with buffer := p.buffer.filter (fun m => m.1 != q) })
    filter := s.links.filter.filter (fun e => e.tag.pkg != q)
    heldFences := s.links.heldFences.filter (fun m => m.src != q) } }
  let s := s.lending.leases.foldl (fun s p =>
    if p.2.borrower == q && (p.2.state == .granted || p.2.state == .recalling) then
      setLease p.1 { p.2 with state := .expired, scrubbing := true, deadline := 0 } s else s) s
  let s := { s with mem := { s.mem with
      watches := s.mem.watches.filter (fun p => match p.2.who with
        | .peer tag _ _ => tag.pkg != q
        | _ => true)
      hubOwed := s.mem.hubOwed.filter (fun p => match p.1 with
        | .peer tag _ _ => tag.pkg != q
        | _ => true) } }
  s.lending.borrows.foldl (fun s p =>
    if p.2.lender == q && p.2.state != .free && p.2.state != .requested && p.2.state != .lost then loseBorrow p.1 s else s) s

/-- What waits for a lost package besides the accesses of strands: copy commands with writes out to it, hub slots with watches there,
and an election on its cell (09 R277; 11 R326, R330; 15 R396, R401). -/
def cutOthers (q : Nat) (s : State) : State :=
  let s := (s.engines.copies.filter (fun c => c.unacked.any (fun x => x.2.1 == q))).foldl (fun s c =>
    pruneCopies (failCopy c.id ((c.unacked.find? (fun x => x.2.1 == q)).bind (fun x => x.2.2)) .remoteFault
      (modCopy c.id (fun c => { c with unacked := c.unacked.filter (fun x => x.2.1 != q) }) s))) s
  let s := (s.mem.hub.filter (fun p => p.2.asked.isSome && fabPkg (p.2.haddr.toNat % 2 ^ 52) == q)).foldl (fun s p =>
    send (.hubFault (p.1 % 64) .remoteFault) (setHubSlot (p.1 / 64) (p.1 % 64) { p.2 with asked := none } s)) s
  match s.lending.electing with
  | some e => if s.lending.anchors.getD (e.term % s.lending.anchors.length) 0 = q then deadCell e s else s
  | none => s

/-- The pod gangs as a lost package leaves them: its strands count as ended. Whether others are still awaited is a free
value (log 2). -/
def podGangs (s : State) : State :=
  (s.work.launches.filter (fun l => l.record.gpod)).foldl (fun s l => gangCheck l.handle .pod 0 s)
    { s with fresh := s.fresh + 1 }

/-- A peer is declared lost (15 R396). -/
def losePeer (q arg : Nat) (s : State) : State :=
  if q = pkgNo s || s.links.lostPeers.contains q then s
  else
    let s := logEvent 9 q 0 (BitVec.ofNat 64 arg) s
    let sent := fun (o : Op) (a : Access) => sentAway s o a && boundFor s o a == q
    podGangs (cutOthers q (failAccs sent .remoteFault (dropPeer q s)))

/-- `FENCED_NOTICE` (15 R396): a peer's fenced notice arrives. -/
def execFencedNotice (pkg : Nat) (s : State) : Out := .next (losePeer pkg 1 s)

/-- `NO_ROUTE_TIMEOUT` (15 R396): no route to a peer for 1,000,000 ticks. -/
def execNoRouteTimeout (pkg : Nat) (s : State) : Out :=
  if s.links.noRoute.any (fun p => p.1 == pkg && decide (p.2.toNat + 1000000 ≤ s.tick.toNat)) then .next (losePeer pkg 0 s)
  else .next s

/-- `ATTESTATION_REPORT` (11 R313, R325; 13 R341; 15 R396): a verified report admits the peer, unless it requires a part of CXL
that is not supported; one that fails at readmission
declares it lost, with a free ARG (log 42). -/
def execAttestationReport (pkg : Nat) (verified : Bool) (s : State) : Out :=
  if pkg = pkgNo s || 512 ≤ pkg then .next s
  else if verified then
    if s.links.unfit.contains pkg then .next s
    else .next (firstElection (recomputeRoutes { s with links := { s.links with
      admitted := merge s.links.admitted [pkg], lostPeers := s.links.lostPeers.filter (fun p => p != pkg) } }))
  else if s.links.admitted.contains pkg || s.links.lostPeers.contains pkg then
    let s := { s with links := { s.links with lostPeers := s.links.lostPeers.filter (fun p => p != pkg) } }
    .next (losePeer pkg (leNat (freeBytes s 0 8)) { s with fresh := s.fresh + 1 })
  else .next s

/-! ### Requests sent again (15 R393, R395) -/

/-- The key of a request's attempts. -/
def attemptKey (op acc : Nat) : Nat := op * 64 + acc

/-- A request that has left, sent again unchanged. -/
def resend (o : Op) (acc : Nat) (a : Access) (s : State) : State :=
  let fab := if a.kind == 4 then lenderFab s a.index a.fab else a.fab
  sendTo (boundFor s o a) (awayRequest s o.id acc ⟨pkgNo s, o.die, a.seq⟩ fab) s

/-- `REQUEST_RETRY` (15 R395): without a reply for 1,000,000 ticks a request is sent again, up to 4 times; then it completes
with REMOTE_FAULT; so does a watch that its home has not answered yet (log 43). -/
def execRequestRetry (op acc : Nat) (s : State) : Out :=
  match findAcc s op acc with
  | none => .next s
  | some (o, a) =>
    if !sentAway s o a || s.tick.toNat < a.sent.toNat + 1000000 then .next s
    else
      let n := tget s.links.attempts 0 (attemptKey op acc)
      let clear := fun (v : Nat) (s : State) =>
        { s with links := { s.links with attempts := tput s.links.attempts 0 (attemptKey op acc) v } }
      if n < 4 && linkFull s (boundFor s o a) then .next s
      else if n < 4 then .next (resend o acc a (modAcc op acc (fun a => { a with sent := s.tick }) (clear (n + 1) s)))
      else .next (settleOp op (failAcc op acc .remoteFault (clear 0 s)))

/-- Whether a request of the package's own agents is still waited for. -/
def stillAwaited (s : State) : OutMsg → Bool
  | .stageFetch _ borrow unit _ => (match stagedAt s borrow unit with
    | .fetching _ => true
    | _ => false)
  | .stageWrite _ borrow unit _ _ => (match stagedAt s borrow unit with
    | .writing _ _ _ _ _ _ => (borrowAt s borrow).state != .lost
    | _ => false)
  | .engineWrite _ cmd ix _ _ _ | .engineRead _ cmd ix _ _ _ => (match findCopy s cmd with
    | some c => c.unacked.any (fun x => x.1 == ix)
    | none => false)
  | .cellReq op _ _ _ _ _ => (match s.lending.electing with
    | some e => e.op == op
    | none => false)
  | .hubWatch op _ _ _ => s.mem.hub.any (fun p => p.2.asked == some op)
  | _ => false

/-- A request of the package's own agents that completes with REMOTE_FAULT (15 R395). -/
def failAwaited (m : OutMsg) (s : State) : State :=
  match m with
  | .stageFetch _ borrow unit _ => after s (execStagedUnitFetched borrow unit ⟨[], some .remoteFault, s.tick⟩ s)
  | .stageWrite _ borrow unit _ _ => refuseWriteback borrow unit .remoteFault s
  | .engineWrite _ cmd ix _ _ _ | .engineRead _ cmd ix _ _ _ => ackCopy cmd s ⟨ix, 0, some .remoteFault, s.tick⟩
  | .cellReq op _ _ _ _ _ => electReply op s ⟨0, 0, some .remoteFault, s.tick⟩
  | .hubWatch op _ _ _ => hubReplied op s ⟨0, 0, some .remoteFault, s.tick⟩
  | _ => s

/-- Such a request that was held leaves once a tag is free (15 R394); one without an answer for 1,000,000 ticks is sent again, up to 4
times, and then completes with REMOTE_FAULT (15 R395). -/
def retryAwaited (a : Awaited) (s : State) : State :=
  let rest := s.links.awaited.filter (fun x => x != a)
  let gone := { s with links := { s.links with awaited := rest } }
  if !stillAwaited s a.msg then gone
  else if a.held then
    (match a.msg.asks s with
     | some (t, fab) => if tagsUsed s t.die fab then s else sendAwaited a.dest t.die fab a.msg s
     | none => gone)
  else if s.tick.toNat < a.sent.toNat + 1000000 then s
  else if 4 ≤ a.tries then failAwaited a.msg gone
  else if linkFull s a.dest then s
  else sendTo a.dest a.msg { s with links := { s.links with awaited := rest ++ [⟨a.dest, a.msg, s.tick, a.tries + 1, false⟩] } }

/-! ### Links (15 R391–R393) -/

/-- A port. -/
def portAt (s : State) (i : Nat) : Port := vget s.links.ports i .untrained

/-- A port replaced. -/
def setPort (i : Nat) (p : Port) (s : State) : State := { s with links := { s.links with ports := vset s.links.ports i p } }

/-- A port out of service, with its record; what is in its replay buffer stays there for other routes (15 R393). -/
def portDown (i : Nat) (p : Port) (s : State) : State :=
  logEvent 8 i 0 0 (setPort i { p with up := false, retraining := false, replays := [], attempts := 0, retried := false } s)

/-- Persistent replays: delivery stops while the port retrains (15 R392). -/
def retrain (i : Nat) (p : Port) (s : State) : State := setPort i { p with retraining := true, replays := [], attempts := 0 } s

/-- `LINK_REPLAY` (15 R391, R392): a replay of a port; 64 within 1,000,000 ticks, or more than 4 of one flit, are
persistent. -/
def execLinkReplay (port : Nat) (sameFlit : Bool) (s : State) : Out :=
  let p := portAt s port
  if 18 ≤ port || !p.up || p.retraining then .next s
  else
    let ts := p.replays.filter (fun t => decide (s.tick.toNat < t.toNat + 1000000)) ++ [s.tick]
    let n := if sameFlit then p.attempts + 1 else 1
    let p := { p with replays := ts, attempts := n }
    if 64 ≤ ts.length || 4 < n then .next (retrain port p s) else .next (setPort port p s)

/-- What the retraining of a port comes to under the setting of the package kernel that holds then (01 R16, R17; 15 R392): automatic
steps down with a record, or at 32 GT/s takes the port out of service; a fixed rate is kept for one retraining, and the next one at
that rate takes the port out of service. The retraining at which a newly asked rate takes effect is not counted as the one at that
rate (log 76). -/
def retrained (i : Nat) (asked : Option Nat) (p : Port) (s : State) : State :=
  let q := { p with retraining := false }
  match asked with
  | none =>
    if p.rate ≤ 32 then portDown i { q with fixed := false } s
    else logEvent 7 i 0 (BitVec.ofNat 64 (p.rate / 2)) (setPort i { q with fixed := false, rate := p.rate / 2, retried := false } s)
  | some r =>
    if p.fixed && p.rate == r then (if p.retried then portDown i q s else setPort i { q with retried := true } s)
    else setPort i { q with fixed := true, rate := r, retried := false } s

/-- `RETRAIN_COMPLETE` (01 R17; 15 R392): delivery resumes, or the port goes out of service. -/
def execRetrainComplete (train : Retrain) (s : State) : Out :=
  let port := train.port
  let asked := train.asked
  let p := portAt s port
  if p.retraining && port < 18 && (asked == none || asked == some 128 || asked == some 64 || asked == some 32) then
    .next (retrained port asked p s)
  else .next s

/-- Requests from the replay buffer of a port out of service sent again, in order, by the routes there are; what cannot leave
is left over (15 R393). -/
def resendAll : List (Nat × OutMsg) → State → State × List (Nat × OutMsg)
  | [], s => (s, [])
  | m :: r, s =>
    if reaches s m.1 && !portFull s m.1 then resendAll r (sendFlit m.1 m.2 s)
    else
      let x := resendAll r s
      (x.1, m :: x.2)

/-- `ROUTE_RECOMPUTE` (15 R393): the switch routes around a port out of service, and sends again the requests that had left
on it without an acknowledgement of the link partner. -/
def execRouteRecompute (port : Nat) (s : State) : Out :=
  let p := portAt s port
  if 18 ≤ port || p.up || p.endpoint then .next s
  else
    let x := resendAll (p.buffer.filter (fun m => m.2.isRequest)) (recomputeRoutes s)
    .next (setPort port { p with buffer := x.2 } x.1)

/-- A port trains: to a peer package, to an endpoint on a flex port, or to an external switch, which is probed; a peer that
requires a part of CXL that the N16 does not support is not admitted, and such a switch is refused; requests that the port still
held from its last service are sent again (01 R9, R20; 11 R313, R332, R333; 13 R339; 15 R393). -/
def trainPort (port : Nat) (partner : Partner) (s : State) : State :=
  let p := portAt s port
  let peer := match partner with
    | .package n => some n
    | .unfit n => n
    | _ => none
  let s := setPort port { p with
    up := true, retraining := false, replays := [], attempts := 0, retried := false, peer := peer
    endpoint := partner == .endpoint, buffer := [] } s
  let s := match partner with
    | .switch => sendTo (512 + port) (.fenceMsg (fenceBytes ⟨port, 0, pkgNo s, 2, 0⟩)) { s with links := { s.links with
        probed := s.links.probed.filter (fun x => x.1 != port) ++ [(port, s.tick)] } }
    | .unfit none => { s with links := { s.links with refusedSwitches := merge s.links.refusedSwitches [port] } }
    | .unfit (some n) => { s with links := { s.links with unfit := merge s.links.unfit [n] } }
    | .package n => { s with links := { s.links with unfit := s.links.unfit.filter (fun x => x != n) } }
    | .endpoint => s
  (resendAll (p.buffer.filter (fun m => m.2.isRequest)) (recomputeRoutes s)).1

/-- Whether a port may train to a partner: endpoints are on flex ports only (01 R9). -/
def mayTrain (s : State) (port : Nat) (partner : Partner) : Bool :=
  port < 18 && !(portAt s port).up && (match partner with
    | .package n => s.boot.pkg != some n
    | .endpoint => decide (14 ≤ port)
    | _ => true)

/-- `LINK_TRAINING` (11 R325): a port trains after start-up. -/
def execLinkTraining (port : Nat) (partner : Partner) (s : State) : Out :=
  .next (if mayTrain s port partner then trainPort port partner s else s)

/-! ### What a tick brings about of itself -/

/-- The write-backs that are due: a unit has been DIRTY for 65,536 ticks (11 R323). -/
def overdueUnits (s : State) : List (Nat × Nat) :=
  s.mem.staged.filterMap (fun p => match p.2 with
    | .dirty _ _ _ t => if t.toNat + 65536 ≤ s.tick.toNat then some (p.1 / 2 ^ 23, p.1 % 2 ^ 23) else none
    | _ => none)

/-- The FENCEs of a slice whose source's count has come to zero go on, with HOPS raised (10 R298; 11 R332). -/
def forwardFences (s : State) : State :=
  (s.links.heldFences.filter (fun m => fenceCount s m.src == 0)).foldl (fun s m => forwardFence m s) s

/-- The compares of paired windows in which a signature waits for the other (16 R415). -/
def lateSignatures (s : State) : List (State → Out) :=
  (strandsOf s).flatMap (fun st => if st.windowSig.isNone then [] else
    [execSignatureTimeout st.who.id.handle st.who.blockIdx (if st.place.isCtl then reportIndex st.who.id else st.who.sid)])

/-- The retries of requests that have left (15 R395). -/
def lateRequests (s : State) : List (State → Out) :=
  s.mem.ops.flatMap (fun o => o.accs.zipIdx.flatMap (fun p =>
    if p.1.state == .switched then [execRequestRetry o.id p.2] else []))

/-- The shank's grant of an interval that has begun, unless the agenda brings it next: every 8,000 ticks, on what the dies are found to
ask for (01 R17; 13 R342; log 22). -/
def dueGrant (s : State) : Out :=
  match s.agenda.head? with
  | some (some (.grantInterval _)) => .next s
  | _ => execGrantInterval ((List.range 16).map (Config.demand s.fresh)) s

/-- The steps that a tick brings about (01 R17; 08 R226, R239; 11 R316, R318, R320, R323, R327, R332; 13 R343; 15 R381, R395, R396,
R400, R403; 16 R415). -/
def dueSteps (s : State) : List (State → Out) :=
  s.lending.borrows.flatMap (fun p => [execGuardReached p.1, execRenewalDue p.1, execRenewalRetry p.1])
    ++ s.lending.leases.flatMap (fun p => [execLeaseExpiry p.1, execRecallDeadline p.1])
    ++ s.mem.watches.map (fun p => execWatchDeadline p.1)
    ++ (overdueUnits s).map (fun p => execStagedWritebackBegin p.1 p.2)
    ++ s.mem.points.map (fun p => execPredictorSwitchNear p.line)
    ++ s.links.probed.map (fun p => execProbeTimeout p.1)
    ++ s.links.noRoute.map (fun p => execNoRouteTimeout p.1)
    ++ s.engines.copies.map (fun c => execPromiseDecision c.id)
    ++ (List.range 16).map (fun q => execTornReread (BitVec.ofNat 4 q))
    ++ lateSignatures s ++ lateRequests s ++ s.links.awaited.map (fun a s => .next (retryAwaited a s))
    ++ [execSettlePoint, execHeartbeatSend, execHeartbeatTimeout, execBurstExhausted, execCoolantBudgetStep, dueGrant]

/-- The watches of hub cores whose satisfying write is performed are answered (11 R330). -/
def answerHubs (s : State) : State :=
  s.mem.hubOwed.foldl (fun s p =>
    if unitPending s p.2 then s
    else
      let s := { s with mem := { s.mem with hubOwed := dropFirst (fun q => q == p) s.mem.hubOwed } }
      match p.1 with
      | .hub die hart => hubAnswer die hart 0 s
      | .peer tag _ _ => replyPeer tag (homeNo s p.2) 0 none s
      | .strand _ _ _ => s) s

/-- Operations whose last access was performed by a delta that another write brought along (15 R377) leave. -/
def settleAll (s : State) : State :=
  (s.mem.ops.filter (fun o => !o.accs.isEmpty && o.accs.all (fun a => a.state == .done))).foldl (fun s o => settleOp o.id s) s

/-- What a tick brings about comes about in the step in which the counter reaches it; then the cobbler matches what has reached it,
and FENCEs that need wait no longer go on (11 R328, R332; log 82). -/
def dueNow (s : State) : State := forwardFences (matchAll (settleAll (answerHubs ((dueSteps s).foldl (fun s i => after s (i s)) s))))

end Sys2Proof.Machine
end

