-- ==== Sys2Proof/Machine/Shake.lean ====
section
/-! DEFINITION. SHAKE256, the function of FIPS 202 that 01 R11 and 13 R339–R341 name (log 12). -/

namespace Sys2Proof.Machine

/-- The round constants of Keccak-f[1600]. -/
def keccakRounds : List (BitVec 64) :=
  [0x0000000000000001, 0x0000000000008082, 0x800000000000808A, 0x8000000080008000, 0x000000000000808B, 0x0000000080000001,
   0x8000000080008081, 0x8000000000008009, 0x000000000000008A, 0x0000000000000088, 0x0000000080008009, 0x000000008000000A]
  ++ [0x000000008000808B, 0x800000000000008B, 0x8000000000008089, 0x8000000000008003, 0x8000000000008002, 0x8000000000000080,
   0x000000000000800A, 0x800000008000000A, 0x8000000080008081, 0x8000000000008080, 0x0000000080000001, 0x8000000080008008]

/-- The rotation of the word in column `x` and row `y`, at place `x + 5 y`. -/
def keccakTurns : List Nat :=
  [0, 1, 62, 28, 27, 36, 44, 6, 55, 20, 3, 10, 43] ++ [25, 39, 41, 45, 15, 21, 8, 18, 2, 61, 56, 14]

/-- A word of a state of 25. -/
def keccakAt (l : List (BitVec 64)) (x y : Nat) : BitVec 64 := l.getD (x % 5 + 5 * (y % 5)) 0

/-- A state by its words. -/
def keccakOf (f : Nat → Nat → BitVec 64) : List (BitVec 64) := (List.range 25).map (fun i => f (i % 5) (i / 5))

/-- One round. -/
def keccakRound (l : List (BitVec 64)) (rc : BitVec 64) : List (BitVec 64) :=
  let c := fun (x : Nat) => keccakAt l x 0 ^^^ keccakAt l x 1 ^^^ keccakAt l x 2 ^^^ keccakAt l x 3 ^^^ keccakAt l x 4
  let cs := (List.range 5).map c
  let d := fun (x : Nat) => cs.getD ((x + 4) % 5) 0 ^^^ (cs.getD ((x + 1) % 5) 0).rotateLeft 1
  let a := keccakOf (fun x y => keccakAt l x y ^^^ d x)
  let b := keccakOf (fun x y =>
    let u := (x + 3 * y) % 5
    (keccakAt a u x).rotateLeft (keccakTurns.getD (u + 5 * x) 0))
  (keccakOf (fun x y => keccakAt b x y ^^^ (~~~(keccakAt b (x + 1) y) &&& keccakAt b (x + 2) y))).modifyHead (fun w => w ^^^ rc)

/-- The permutation. -/
def keccak (l : List (BitVec 64)) : List (BitVec 64) := keccakRounds.foldl keccakRound l

/-- A block of 136 bytes taken into a state. -/
def keccakAbsorb (l : List (BitVec 64)) (block : List Byte) : List (BitVec 64) :=
  keccak ((List.range 25).map (fun i => l.getD i 0 ^^^ BitVec.ofNat 64 (leNat ((block.drop (8 * i)).take 8))))

/-- `n` blocks of 136 bytes taken in. -/
def keccakAbsorbAll : Nat → List Byte → List (BitVec 64) → List (BitVec 64)
  | 0, _, l => l
  | n + 1, bs, l => keccakAbsorbAll n (bs.drop 136) (keccakAbsorb l (bs.take 136))

/-- The bytes of `n` blocks given out. -/
def keccakSqueeze : Nat → List (BitVec 64) → List Byte
  | 0, _ => []
  | n + 1, l => (l.take 17).flatMap (fun w => leBytes 8 w.toNat) ++ keccakSqueeze n (keccak l)

/-- `n` bytes of SHAKE256 of a message. -/
def shake256 (bs : List Byte) (n : Nat) : List Byte :=
  let fill := 136 - bs.length % 136
  let tail : List Byte := if fill = 1 then [0x9F] else 0x1F :: List.replicate (fill - 2) 0 ++ [0x80]
  let msg := bs ++ tail
  (keccakSqueeze ((n + 135) / 136) (keccakAbsorbAll (msg.length / 136) msg (List.replicate 25 0))).take n

end Sys2Proof.Machine
end

