-- ==== Sys2Proof/Machine/Startup.lean ====
section
/-! DEFINITION. Reset, the boot sequence, measurements and attestation (11 R325, R326; 13 R339–R341; 15 R372, R389; 16 R417). -/

namespace Sys2Proof.Machine

/-- `RESET` (13 R339): the machine right after reset, with a boot configuration to be read at stage 1. What the world outside
has chosen and seen stays (log 2). -/
def execReset (cfg : BootConfig) (s : State) : Out :=
  .next { State.reset with
    agenda := s.agenda, outbox := s.outbox, fresh := s.fresh
    boot := { State.reset.boot with config := cfg } }

/-- m ← SHAKE256(m ‖ digest, 64 bytes), a register and a digest as their 64 bytes in ascending order (13 R340; log 12). -/
def extendMeasure (m digest : BitVec 512) : BitVec 512 :=
  BitVec.ofNat 512 (leNat (shake256 (leBytes 64 m.toNat ++ leBytes 64 digest.toNat) 64))

/-- A measurement register extended with the digest of an image (13 R340). -/
def measure (stage : Nat) (digest : BitVec 512) (s : State) : State :=
  { s with boot := { s.boot with
      measures := vset s.boot.measures stage (extendMeasure (vget s.boot.measures stage 0) digest) } }

/-- Stage 1 (11 R326; 13 R339): the boot configuration is read. -/
def readConfig (s : State) : State :=
  let c := s.boot.config
  { s with
    mem := { s.mem with mode := if c.plain then .plain else .parity }
    lending := { s.lending with anchors := c.anchors, electCell := c.electCell }
    boot := { s.boot with slot := c.slot } }

/-- Stage 2 (13 R339; 15 R372, R373, R389; 16 R417): every tick counter is 0; HBM is zero, and so is its parity; the hub
firmware's areas are laid out; dies that fail their self-test are fenced. -/
def releaseDies (res : StageResult) (s : State) : State :=
  let zone := fun (x : Nat) => zoneOf (isPlain s) x == .hbm
  let s := { s with
    tick := 0
    mem := { s.mem with bytes := s.mem.bytes.filter (fun c => !zone c.1), parity := [] }
    failure := { s.failure with
      logBase := res.logBase, logSize := res.logSize, imageBase := res.imageBase, imageSize := res.imageSize } }
  let s := if 6 ≤ res.logSize then poke (res.logBase + 0x10) (leBytes 4 res.logSize ++ leBytes 4 s.failure.logDrop) s else s
  res.badDies.foldl (fun s d => fenceDie d 0 s) s

/-- Stage 3 (13 R339): the ports train, each with its partner. -/
def trainAll (ports : List (Nat × Partner)) (s : State) : State :=
  ports.foldl (fun s x => if mayTrain s x.1 x.2 then trainPort x.1 x.2 s else s) s

/-- Stage 5 (11 R325; 13 R339): the package kernel takes the number of the slot; an admitted package without a heartbeat runs the
election from term 0; the launch queues open once fabric time is set. -/
def startKernel (s : State) : State :=
  let s := { s with boot := { s.boot with pkg := some (s.boot.slot % 512) } }
  openQueues (firstElection s)

/-- What a stage does once its image verifies. -/
def runStage (n : Nat) (res : StageResult) (s : State) : State :=
  if n = 1 then readConfig s
  else if n = 2 then releaseDies res s
  else if n = 3 then trainAll res.ports s
  else s

/-- `BOOT_STAGE` (13 R339, R340): the next stage runs; one whose image does not verify stops the module and is reported with
reason 1. Stage 6 stands for the end of the sequence. -/
def execBootStage (res : StageResult) (s : State) : Out :=
  let n := s.boot.stage
  if s.boot.failed.isSome || 6 ≤ n then .next s
  else if n = 5 then .next (startKernel { s with boot := { s.boot with stage := 6 } })
  else if !res.verified then .next (send (.bootFailure n 1) { s with boot := { s.boot with failed := some n } })
  else
    let s := measure n res.digest s
    .next (runStage n res { s with boot := { s.boot with stage := n + 1 } })

/-- The bytes of an attestation report before its signature (13 R341). -/
def attestationBytes (s : State) (nonce : DWord) : List Byte :=
  leBytes 4 1 ++ leBytes 4 (s.boot.pkg.getD 0xFFFFFFFF) ++ leBytes 8 nonce.toNat ++ leBytes 8 s.tick.toNat
    ++ s.boot.measures.toList.flatMap (fun m => leBytes 64 m.toNat)

/-- The signature field of a report: over the SHAKE256 digest of the bytes before it, at most 1,280 bytes (13 R341; log 12). -/
def reportSig (bs : List Byte) : List Byte := (Config.sign (shake256 bs 64)).take 1280

/-- `ATTESTATION_REQUEST` (13 R341): a signed report is returned. -/
def execAttestationRequest (nonce : DWord) (s : State) : Out :=
  let bs := attestationBytes s nonce
  .next (send (.attestation bs (reportSig bs)) s)

end Sys2Proof.Machine
end

