-- ==== Sys2Proof/Machine/Debug.lean ====
section
/-! DEFINITION. The debugger (14 R370, R371; 02 R32, R51–R55; 16 R405). -/

namespace Sys2Proof.Machine

/-- `ARM` (14 R370): `brkpt` may halt strands on the lane. -/
def execArm (lane : LaneId) (s : State) : Out :=
  .next { s with boot := { s.boot with armed := merge s.boot.armed [lane] } }

/-- `DISARM` (14 R370). -/
def execDisarm (lane : LaneId) (s : State) : Out :=
  .next { s with boot := { s.boot with armed := s.boot.armed.filter (fun l => l != lane) } }

/-- A strand that the debugger halts; its fragments give up the issue slot (02 R24; 14 R370). -/
def Strand.halt (x : Strand) : Strand :=
  { x with halted := true, cur := x.cur.unslot, frags := x.frags.map Fragment.unslot }

/-- `HALT` (14 R370): a strand is taken at its next instruction boundary. -/
def execHalt (st : StrandId) (s : State) : Out := .next (modStrand st Strand.halt s)

/-- A recorded cause delivered, if its fragment is still there (14 R371). -/
def deliverRecorded (st : StrandId) (r : Recorded) (s : State) : State :=
  match (findStrand s st).bind (fun x => x.frag? r.frag) with
  | none => s
  | some _ =>
    takeCause { cause := r.cause, detail := r.detail, addr := r.addr, threads := r.threads, after := r.after, defer := r.defer }
      r.epc (keptEmulation r.em) (focus st r.frag s)

/-- `RESUME` (14 R370, R371): the strand issues again, and the causes recorded while it was halted are delivered. -/
def execDebugResume (st : StrandId) (s : State) : Out :=
  match findStrand s st with
  | none => .next s
  | some x =>
    if !x.halted then .next s
    else
      .next (x.reports.foldl (fun s r => deliverRecorded st r s)
        (modStrand st (fun x => { x with halted := false, stepping := none, reports := [] }) s))

/-- Whether an earlier STEP of a strand is still to be made: the fragment it names is there and ready (log 89). -/
def Strand.stepDue (x : Strand) : Bool := (x.stepping.bind x.frag?).any (fun g => g.wait == .ready)

/-- `STEP` (14 R370): a named fragment of a halted strand is to issue one instruction. -/
def execStep (st : StrandId) (frag : Nat) (s : State) : Out :=
  match findStrand s st with
  | none => .next s
  | some x =>
    match x.frag? frag with
    | none => .next s
    | some f =>
      if !x.halted || x.stepDue || f.wait != .ready || x.reports.any (fun r => r.frag == frag) then .next s
      else .next (modMe (fun x => { x with stepping := some frag }) (focus st frag s))

/-- `DEBUG_READ` (14 R370; 02 R32): a halted strand's state in the layout of its image, and the causes recorded for it; drowsy
registers wake. -/
def execDebugRead (st : StrandId) (s : State) : Out :=
  match findStrand s st with
  | none => .next s
  | some x =>
    if !x.halted then .next s
    else .next (send (.debugImage st (imageOf s x) x.reports) (wakeLane x.place.lane s))

/-- The record of fragment `i` in an image. -/
def fragRecord (bs : List Byte) (i : Nat) : List Byte := slice bs (0x100 + 48 * i) 48

/-- The number of the fragment that an index of a written image names: one that stands keeps its own. -/
def fragNumber (x : Strand) (i : Nat) : Nat := ((x.all[i]?).map (fun f => f.id)).getD (x.nextFrag + i)

/-- The parent that a record names. -/
def recordParent (x : Strand) (bs : List Byte) : Option Nat :=
  let p := field (numAt bs 12 4) 5 0
  if p = 63 then none else some (fragNumber x p)

/-- A fragment whose record `was` is overwritten: what the record does not change, and what it does not hold (its latches, what
its instruction has begun, the clause it is in), stays (14 R370). -/
def writeFrag (s : State) (x : Strand) (was now : List Byte) (f : Fragment) : Fragment :=
  let n := fragOf s x f.id now
  let same := fun (off k : Nat) => slice was off k == slice now off k
  let f := if same 0 8 then f
           else { f with hdr := n.hdr, widx := n.widx, inClause := false, k := 0, begun := .no, tf := none, redo := [] }
  let f := { f with
    mask := n.mask
    parent := if field (numAt was 12 4) 5 0 = field (numAt now 12 4) 5 0 then f.parent else recordParent x now
    reconv := if same 16 8 then f.reconv else n.reconv }
  if n.wait = .ended then { f with wait := .ended }
  else if field (numAt was 12 4) 10 8 = field (numAt now 12 4) 10 8 && same 24 24 then f
  else { f with wait := n.wait, begun := n.begun, heldPops := [], deadPops := [] }

/-- The fragments that an image leaves a strand with. -/
def writtenFrags (s : State) (x : Strand) (bs : List Byte) : List Fragment :=
  let old := imageOf s x
  (List.range (field (numAt bs 12 4) 5 0)).map (fun i => match x.all[i]? with
    | some f => writeFrag s x (fragRecord old i) (fragRecord bs i) f
    | none => { fragOf s x (fragNumber x i) (fragRecord bs i) with parent := recordParent x (fragRecord bs i) })

/-- The serial records, newest first; one whose bytes are as before stays as it is. -/
def writtenSerials (s : State) (x : Strand) (frags : List Fragment) (bs : List Byte) : List Serial :=
  let old := imageOf s x
  let at_ := fun (b : List Byte) (i : Nat) => slice b (0x100 + 48 * field (numAt b 12 4) 5 0 + 16 * i) 16
  let ns := field (numAt bs 12 4) 13 8
  let new := (fillSerials frags ((List.range ns).map (fun i =>
    let r := serialOf s (at_ bs i)
    { r with owner := fragNumber x r.owner })).reverse).reverse
  (new.zipIdx.map (fun p => match x.serials.reverse[p.2]? with
    | some r => if at_ old p.2 == at_ bs p.2 then r else p.1
    | none => p.1)).reverse

/-- A strand with the fields of an image; fields that the image does not hold are not written (14 R370). -/
def writeStrand (s : State) (x : Strand) (bs : List Byte) : Strand :=
  let old := imageOf s x
  let y := readStrand s x bs
  let frags := writtenFrags s x bs
  let cur := ((frags.find? (fun f => f.id == x.cur.id)).or (frags.find? Fragment.live)).getD x.cur
  { y with
    cur := cur, frags := frags.filter (fun f => f.id != cur.id), serials := writtenSerials s x frags bs
    nextFrag := x.nextFrag + frags.length
    handler := if handlerActive x == handlerActive y then x.handler else y.handler.map (fun _ => cur.id)
    psfAddr := x.psfAddr, psfArg := x.psfArg
    trap := if slice old 0xE4 12 == slice bs 0xE4 12 then keptEmulation x.trap y.trap else y.trap
    resident := (x.resident.filter (fun r => (vget y.regs r.toNat (.u 0)).tagNo == 2)).take y.allotG }

/-- `DEBUG_WRITE` (14 R370; 16 R405): a halted strand's state takes the values of an image; the writes are logged. -/
def execDebugWrite (st : StrandId) (image : List Byte) (s : State) : Out :=
  match findStrand s st with
  | none => .next s
  | some x =>
    if !x.halted || imageBad x.place.isCtl image then .next s
    else
      let y := writeStrand s x image
      let s := match x.place with
        | .ctl quad c =>
          let k := ctlKey quad c
          setControl k (readControl (controlAt s k) (image.drop (bodyAt image (field (numAt image 8 4) 6 0)))) s
        | _ => s
      .next (logImage y (modStrand st (fun _ => y) { s with fresh := s.fresh + 1 }))

end Sys2Proof.Machine
end

