-- ==== Sys2Proof/Machine/Fp.lean ====
section
/-! DEFINITION. Majors 0x10–0x1A: floating point, conversion, packing and FP64 (07 R183–R192). -/

namespace Sys2Proof.Machine

/-- The mode and FTZ of the executing strand (05 R124). -/
def modeOf (s : State) : RMode × Bool := (rmOf s.me.fcr, ftzOf s.me.fcr)

/-- A function on one element made to act on a word of a type: packed types position by position (07 R183). -/
def byType (ty : FType) (f : BinFmt → List Nat → Nat × FlagSet) (xs : List Word) : Nat × FlagSet :=
  let lo := fun (x : Word) => x.toNat % 2 ^ 16
  let hi := fun (x : Word) => x.toNat / 2 ^ 16
  match ty with
  | .f32 => f fF32 (xs.map (fun x => x.toNat))
  | .f16x2 =>
    let p := f fF16 (xs.map lo)
    let q := f fF16 (xs.map hi)
    (p.1 + 2 ^ 16 * q.1, p.2.join q.2)
  | .bf16x2 =>
    let p := f fBF16 (xs.map lo)
    let q := f fBF16 (xs.map hi)
    (p.1 + 2 ^ 16 * q.1, p.2.join q.2)

/-- An instruction of major 0x10 or 0x11–0x13 on its elements. -/
def fpOp (ty : FType) (f : RMode → Bool → BinFmt → List Nat → Nat × FlagSet) :
    State → List RegVal → RegVal × FlagSet :=
  perThreadF (fun s xs => byType ty (f (modeOf s).1 (modeOf s).2) xs)

/-- The first, second and third of a list of elements. -/
def e0 (l : List Nat) : Nat := l.getD 0 0
/-- The second. -/
def e1 (l : List Nat) : Nat := l.getD 1 0
/-- The third. -/
def e2 (l : List Nat) : Nat := l.getD 2 0

/-- `fadd` (07 R183). -/
def execFadd (d : Reg) (nw : Bool) (a b : Sel) (ty : FType) (s : State) : Out :=
  .next (vecOp (.fadd d nw a b ty) d nw [a, b] (fpOp ty (fun rm z f l => fpAdd f rm z (e0 l) (e1 l))) s)

/-- `fsub` (07 R183). -/
def execFsub (d : Reg) (nw : Bool) (a b : Sel) (ty : FType) (s : State) : Out :=
  .next (vecOp (.fsub d nw a b ty) d nw [a, b] (fpOp ty (fun rm z f l => fpSub f rm z (e0 l) (e1 l))) s)

/-- `fmul` (07 R183). -/
def execFmul (d : Reg) (nw : Bool) (a b : Sel) (ty : FType) (s : State) : Out :=
  .next (vecOp (.fmul d nw a b ty) d nw [a, b] (fpOp ty (fun rm z f l => fpMul f rm z (e0 l) (e1 l))) s)

/-- `fmin` (07 R183). -/
def execFmin (d : Reg) (nw : Bool) (a b : Sel) (ty : FType) (s : State) : Out :=
  .next (vecOp (.fmin d nw a b ty) d nw [a, b] (fpOp ty (fun _ z f l => (fpMin f z (e0 l) (e1 l), noFlags))) s)

/-- `fmax` (07 R183). -/
def execFmax (d : Reg) (nw : Bool) (a b : Sel) (ty : FType) (s : State) : Out :=
  .next (vecOp (.fmax d nw a b ty) d nw [a, b] (fpOp ty (fun _ z f l => (fpMax f z (e0 l) (e1 l), noFlags))) s)

/-- `fscale` (07 R183). -/
def execFscale (d : Reg) (nw : Bool) (a b : Sel) (ty : FType) (s : State) : Out :=
  .next (vecOp (.fscale d nw a b ty) d nw [a, b] (fpOp ty (fun rm z f l => fpScale f rm z (e0 l) (sgn (1 + f.eb + f.m) (e1 l)))) s)

/-- `fcopysign` (07 R183). -/
def execFcopysign (d : Reg) (nw : Bool) (a b : Sel) (ty : FType) (s : State) : Out :=
  .next (vecOp (.fcopysign d nw a b ty) d nw [a, b] (fpOp ty (fun _ _ f l => (fpCopysign f (e0 l) (e1 l), noFlags))) s)

/-- `fabsd` (07 R183). -/
def execFabsd (d : Reg) (nw : Bool) (a b : Sel) (ty : FType) (s : State) : Out :=
  .next (vecOp (.fabsd d nw a b ty) d nw [a, b] (fpOp ty (fun rm z f l => fpAbsd f rm z (e0 l) (e1 l))) s)

/-- `ffma` (07 R184). -/
def execFfma (d : Reg) (nw : Bool) (a b c : Sel) (s : State) : Out :=
  .next (vecOp (.ffma d nw a b c) d nw [a, b, c]
    (fpOp .f32 (fun rm z f l => fpFma f rm z (e0 l) (e1 l) (e2 l))) s)

/-- `hfma` (07 R184). -/
def execHfma (d : Reg) (nw : Bool) (a b c : Sel) (s : State) : Out :=
  .next (vecOp (.hfma d nw a b c) d nw [a, b, c]
    (fpOp .f16x2 (fun rm z f l => fpFma f rm z (e0 l) (e1 l) (e2 l))) s)

/-- `bfma` (07 R184). -/
def execBfma (d : Reg) (nw : Bool) (a b c : Sel) (s : State) : Out :=
  .next (vecOp (.bfma d nw a b c) d nw [a, b, c]
    (fpOp .bf16x2 (fun rm z f l => fpFma f rm z (e0 l) (e1 l) (e2 l))) s)

/-- An instruction of major 0x14 (07 R185). -/
def f32Op (f : RMode → Bool → Nat → Nat × FlagSet) : State → List RegVal → RegVal × FlagSet :=
  fpOp .f32 (fun rm z _ l => f rm z (e0 l))

/-- `fneg` (07 R185, R186). -/
def execFneg (d : Reg) (nw : Bool) (a : Sel) (s : State) : Out :=
  .next (vecOp (.fneg d nw a) d nw [a] (f32Op (fun _ _ x => ((x + 2 ^ 31) % 2 ^ 32, noFlags))) s)

/-- `fabs` (07 R185, R186). -/
def execFabs (d : Reg) (nw : Bool) (a : Sel) (s : State) : Out :=
  .next (vecOp (.fabs d nw a) d nw [a] (f32Op (fun _ _ x => (x % 2 ^ 31, noFlags))) s)

/-- `frcp` (07 R185, R186). -/
def execFrcp (d : Reg) (nw : Bool) (a : Sel) (s : State) : Out :=
  .next (vecOp (.frcp d nw a) d nw [a] (f32Op (fpRcp)) s)

/-- `frsq` (07 R185, R186). -/
def execFrsq (d : Reg) (nw : Bool) (a : Sel) (s : State) : Out :=
  .next (vecOp (.frsq d nw a) d nw [a] (f32Op (fun _ z x => fpRsq z x)) s)

/-- `fsqrt` (07 R185, R186). -/
def execFsqrt (d : Reg) (nw : Bool) (a : Sel) (s : State) : Out :=
  .next (vecOp (.fsqrt d nw a) d nw [a] (f32Op (fpSqrt)) s)

/-- `fexp2` (07 R185, R186). -/
def execFexp2 (d : Reg) (nw : Bool) (a : Sel) (s : State) : Out :=
  .next (vecOp (.fexp2 d nw a) d nw [a] (f32Op (fun _ z x => fpExp2 z x)) s)

/-- `flog2` (07 R185, R186). -/
def execFlog2 (d : Reg) (nw : Bool) (a : Sel) (s : State) : Out :=
  .next (vecOp (.flog2 d nw a) d nw [a] (f32Op (fun _ z x => fpLog2 z x)) s)

/-- `fsin` (07 R185, R186). -/
def execFsin (d : Reg) (nw : Bool) (a : Sel) (s : State) : Out :=
  .next (vecOp (.fsin d nw a) d nw [a] (f32Op (fun _ z x => fpTrig .sin z x)) s)

/-- `fcos` (07 R185, R186). -/
def execFcos (d : Reg) (nw : Bool) (a : Sel) (s : State) : Out :=
  .next (vecOp (.fcos d nw a) d nw [a] (f32Op (fun _ z x => fpTrig .cos z x)) s)

/-- `ftanh` (07 R185, R186). -/
def execFtanh (d : Reg) (nw : Bool) (a : Sel) (s : State) : Out :=
  .next (vecOp (.ftanh d nw a) d nw [a] (f32Op (fun _ z x => fpTanh z x)) s)

/-- `fsigm` (07 R185, R186). -/
def execFsigm (d : Reg) (nw : Bool) (a : Sel) (s : State) : Out :=
  .next (vecOp (.fsigm d nw a) d nw [a] (f32Op (fun _ z x => fpSigm z x)) s)

/-- `frnd.ne` (07 R185, R186). -/
def execFrndNe (d : Reg) (nw : Bool) (a : Sel) (s : State) : Out :=
  .next (vecOp (.frndNe d nw a) d nw [a] (f32Op (fun _ z x => fpRound .ne z x)) s)

/-- `frnd.z` (07 R185, R186). -/
def execFrndZ (d : Reg) (nw : Bool) (a : Sel) (s : State) : Out :=
  .next (vecOp (.frndZ d nw a) d nw [a] (f32Op (fun _ z x => fpRound .z z x)) s)

/-- `frnd.dn` (07 R185, R186). -/
def execFrndDn (d : Reg) (nw : Bool) (a : Sel) (s : State) : Out :=
  .next (vecOp (.frndDn d nw a) d nw [a] (f32Op (fun _ z x => fpRound .dn z x)) s)

/-- `frnd.up` (07 R185, R186). -/
def execFrndUp (d : Reg) (nw : Bool) (a : Sel) (s : State) : Out :=
  .next (vecOp (.frndUp d nw a) d nw [a] (f32Op (fun _ z x => fpRound .up z x)) s)

/-- `fclass` (07 R185, R186). -/
def execFclass (d : Reg) (nw : Bool) (a : Sel) (s : State) : Out :=
  .next (vecOp (.fclass d nw a) d nw [a] (f32Op (fun _ _ x => (fpClass x, noFlags))) s)

/-- `ffract` (07 R185, R186). -/
def execFfract (d : Reg) (nw : Bool) (a : Sel) (s : State) : Out :=
  .next (vecOp (.ffract d nw a) d nw [a] (f32Op (fpFract)) s)

/-- `fcmp` (07 R187): no flag; FTZ applies. -/
def execFcmp (pd : PredNo) (cmb : Combine) (a b : Sel) (cond : FCond) (s : State) : Out :=
  .next (predOp (.fcmp pd cmb a b cond) pd [] [a, b]
    (fun s v t =>
      let x := decodeBin fF32 (flushOperand fF32 (ftzOf s.me.fcr) (opnd v 0 t).toNat)
      let y := decodeBin fF32 (flushOperand fF32 (ftzOf s.me.fcr) (opnd v 1 t).toNat)
      combinePred cmb ((predMask s pd).getLsbD t.val) (fpCond cond x y)) s)

/-- `fcmp.f64` (07 R187): FTZ never applies. -/
def execFcmpF64 (pd : PredNo) (cmb : Combine) (a b : Reg) (cond : FCond) (s : State) : Out :=
  .next (predOp (.fcmpF64 pd cmb a b cond) pd [a, nextReg a 1, b, nextReg b 1] []
    (fun s _ t => combinePred cmb ((predMask s pd).getLsbD t.val)
      (fpCond cond (decodeBin fF64 (pairAt s a t).toNat) (decodeBin fF64 (pairAt s b t).toNat))) s)

/-! ### Conversions (06 R160; 07 R189–R192) -/

/-- Where position `p` of an element lies in a word: its lowest bit and the width it takes up (06 R160). -/
def posBits (f : Fmt) (p : Nat) : Nat × Nat :=
  match fmtBits f with
  | 32 => (0, 32)
  | 16 => (16 * p, 16)
  | 4 => (4 * p, 4)
  | _ => (8 * p, 8)

/-- The element at a position. -/
def getPos (f : Fmt) (p : Nat) (x : Word) : Nat := x.toNat / 2 ^ (posBits f p).1 % 2 ^ fmtBits f

/-- A word with the element at a position replaced. -/
def setPos (f : Fmt) (p : Nat) (x : Word) (v : Nat) : Word :=
  let b := posBits f p
  let m : Word := BitVec.ofNat 32 ((2 ^ b.2 - 1) * 2 ^ b.1)
  (x &&& ~~~m) ||| (BitVec.ofNat 32 (v * 2 ^ b.1) &&& m)

/-- One `fcvt` (07 R189, R190): `a` the source word, `old` the destination word. -/
def cvtWord (src dst : Fmt) (rm : RMode) (pos : Nat) (ftz : Bool) (a old : Word) : Word × FlagSet :=
  if src = dst then
    match src with
    | .f32 => let r := toInteger rm (-(2 ^ 31 : Nat)) (2 ^ 31 - 1 : Nat) (sourceFmt .f32 ftz a.toNat); (BitVec.ofInt 32 r.1, r.2)
    | .i8 => let r := convertTo .f32 rm ftz (fvOfInt a.toInt); (BitVec.ofNat 32 r.1, r.2)
    | .n8 => let r := toInteger rm 0 (2 ^ 32 - 1 : Nat) (sourceFmt .f32 ftz a.toNat); (BitVec.ofInt 32 r.1, r.2)
    | _ => let r := convertTo .f32 rm ftz (fvOfInt a.toNat); (BitVec.ofNat 32 r.1, r.2)
  else
    let r := convertTo dst rm ftz (sourceFmt src ftz (getPos src pos a))
    (setPos dst pos old r.1, r.2)

/-- `fcvt` (07 R189, R190): a narrow result keeps the other positions of d, which then is a source (R170). -/
def execFcvt (d : Reg) (nw : Bool) (a : Sel) (src dst : Fmt) (rm : RMode) (pos : BitVec 2) (s : State) : Out :=
  .next (vecOp (.fcvt d nw a src dst rm pos) d nw [a]
    (fun s v =>
      let old := reg s d
      let f := fun (t : Fin 32) => cvtWord src dst rm pos.toNat (ftzOf s.me.fcr) (opnd v 0 t) (old.at t)
      let srcs := if src = dst || dst = .f32 then v else v ++ [old]
      (byTags srcs (fun t => (f t).1), activeFlags s.me.cur.mask (fun t => (f t).2))) s)

/-- `funpk` (07 R191). -/
def execFunpk (d : Reg) (nw : Bool) (a : Sel) (src : Fmt) (pos : BitVec 2) (s : State) : Out :=
  .next (vecOp (.funpk d nw a src pos) d nw [a]
    (perThreadF (fun s xs =>
      convertTo .f32 (modeOf s).1 (modeOf s).2 (sourceFmt src (modeOf s).2 (getPos src pos.toNat (xs.headD 0))))) s)

/-- `fpack` (07 R192): two elements into positions 2h and 2h + 1. -/
def execFpack (d : Reg) (nw : Bool) (a b : Sel) (dst : Fmt) (high : Bool) (s : State) : Out :=
  .next (vecOp (.fpack d nw a b dst high) d nw [a, b]
    (fun s v =>
      let old := reg s d
      let (rm, z) := modeOf s
      let x := fun (t : Fin 32) => convertTo dst rm z (sourceFmt .f32 z (opnd v 0 t).toNat)
      let y := fun (t : Fin 32) => convertTo dst rm z (sourceFmt .f32 z (opnd v 1 t).toNat)
      let p := 2 * flag high
      let srcs := if fmtBits dst = 16 then v else v ++ [old]
      (byTags srcs (fun t => setPos dst (p + 1) (setPos dst p (old.at t) (x t).1) (y t).1),
       activeFlags s.me.cur.mask (fun t => (x t).2.join (y t).2))) s)

/-! ### FP64 (07 R188): FTZ never applies -/

/-- A pair result with flags. -/
def f64Res (s : State) (srcs : List RegVal) (f : Fin 32 → Nat × FlagSet) : RegVal × RegVal × FlagSet :=
  let w := fun (t : Fin 32) => BitVec.ofNat 64 (f t).1
  (byTags srcs (fun t => loW (w t)), byTags srcs (fun t => hiW (w t)), activeFlags s.me.cur.mask (fun t => (f t).2))

/-- An instruction of major 0x19. -/
def f64Bin (i : Instr) (d : Reg) (nw : Bool) (a b : Reg) (f : RMode → Nat → Nat → Nat × FlagSet) (s : State) : State :=
  pairOp i d nw [a, nextReg a 1, b, nextReg b 1] []
    (fun s _ => f64Res s (bothRegs s a ++ bothRegs s b)
      (fun t => f (rmOf s.me.fcr) (pairAt s a t).toNat (pairAt s b t).toNat)) s

/-- `dadd` (07 R188). -/
def execDadd (d : Reg) (nw : Bool) (a b : Reg) (s : State) : Out :=
  .next (f64Bin (.dadd d nw a b) d nw a b (fun rm x y => fpAdd fF64 rm false x y) s)

/-- `dsub` (07 R188). -/
def execDsub (d : Reg) (nw : Bool) (a b : Reg) (s : State) : Out :=
  .next (f64Bin (.dsub d nw a b) d nw a b (fun rm x y => fpSub fF64 rm false x y) s)

/-- `dmul` (07 R188). -/
def execDmul (d : Reg) (nw : Bool) (a b : Reg) (s : State) : Out :=
  .next (f64Bin (.dmul d nw a b) d nw a b (fun rm x y => fpMul fF64 rm false x y) s)

/-- `dmin` (07 R188). -/
def execDmin (d : Reg) (nw : Bool) (a b : Reg) (s : State) : Out :=
  .next (f64Bin (.dmin d nw a b) d nw a b (fun _ x y => (fpMin fF64 false x y, noFlags)) s)

/-- `dmax` (07 R188). -/
def execDmax (d : Reg) (nw : Bool) (a b : Reg) (s : State) : Out :=
  .next (f64Bin (.dmax d nw a b) d nw a b (fun _ x y => (fpMax fF64 false x y, noFlags)) s)

/-- `dfma` (07 R188). -/
def execDfma (d : Reg) (nw : Bool) (a b c : Reg) (s : State) : Out :=
  .next (pairOp (.dfma d nw a b c) d nw [a, nextReg a 1, b, nextReg b 1, c, nextReg c 1] []
    (fun s _ => f64Res s (bothRegs s a ++ bothRegs s b ++ bothRegs s c)
      (fun t => fpFma fF64 (rmOf s.me.fcr) false (pairAt s a t).toNat (pairAt s b t).toNat (pairAt s c t).toNat)) s)

end Sys2Proof.Machine
end

