-- ==== Sys2Proof/Machine/Shape.lean ====
section
/-! DEFINITION. Majors 0x1B and 0x1C: shapes, masks, shuffles, reductions, scans and votes (07 R193–R199). -/

namespace Sys2Proof.Machine

/-- `sbcast` (07 R193): the value of a in the thread that b names at the lowest active thread, active or not; U. -/
def execSbcast (d : Reg) (nw : Bool) (a b : Sel) (s : State) : Out :=
  .next (vecOp (.sbcast d nw a b) d nw [a, b]
    (fun s v => (.u (opnd v 0 (Fin.ofNat 32 (low s v 1).toNat)), noFlags)) s)

/-- `saff` (07 R193): A with base a and stride b. -/
def execSaff (d : Reg) (nw : Bool) (a b : Sel) (s : State) : Out :=
  .next (vecOp (.saff d nw a b) d nw [a, b] (fun s v => (.a (low s v 0) (low s v 1), noFlags)) s)

/-- `sgen` (07 R193): G. -/
def execSgen (d : Reg) (nw : Bool) (a : Sel) (s : State) : Out :=
  .next (vecOp (.sgen d nw a) d nw [a] (fun _ v => (gOf (opnd v 0), noFlags)) s)

/-- `stag` (07 R193): the tag of a, U. -/
def execStag (d : Reg) (nw : Bool) (a : Sel) (s : State) : Out :=
  .next (vecOp (.stag d nw a) d nw [a] (fun _ v => (.u (BitVec.ofNat 32 (v.getD 0 (.u 0)).tagNo), noFlags)) s)

/-- `mov` (07 R193): a with its tag. -/
def execMov (d : Reg) (nw : Bool) (a : Sel) (s : State) : Out :=
  .next (vecOp (.mov d nw a) d nw [a] (fun _ v => (v.getD 0 (.u 0), noFlags)) s)

/-- `xmrd` (07 R194). -/
def execXmrd (d : Reg) (nw : Bool) (s : State) : Out :=
  .next (vecOp (.xmrd d nw) d nw [] (fun s _ => (.u s.me.cur.mask, noFlags)) s)

/-- `xmwr` (07 R194): `xm` is narrowed, never to 0; a change in a fragment with no parent and no serial
record is a misuse (14 R355). -/
def execXmwr (a : Sel) (s : State) : Out :=
  let n : Need := { words := encodeWords (.xmwr a), sels := [a] }
  .next (issue n s (fun v s =>
    let m := s.me.cur.mask &&& low s v 0
    if m = 0 || m = s.me.cur.mask then retire n s
    else if s.me.cur.parent.isNone && s.me.serials.all (fun r => r.owner != s.me.cur.id) then
      raiseBefore n.words { cause := .operandMisuse, detail := 7, addr := (low s v 0).setWidth 64,
                            threads := s.me.cur.mask } s
    else retire n (modCur (fun f => { f with mask := m }) s)))

/-- `ballot` (07 R195): U. -/
def execBallot (d : Reg) (nw : Bool) (a : Sel) (s : State) : Out :=
  .next (vecOp (.ballot d nw a) d nw [a]
    (fun s v => (.u (s.me.cur.mask &&& maskOf (fun t => opnd v 0 t != 0)), noFlags)) s)

/-- An exchange: `src t k` is the source thread, or none for zero (07 R196); G. -/
def exchange (src : Nat → Nat → Option Nat) : State → List RegVal → RegVal × FlagSet :=
  fun _ v => (gOf (fun t => match src t.val (opnd v 1 t).toNat with
    | some u => opnd v 0 (Fin.ofNat 32 u)
    | none => 0), noFlags)

/-- `xch.get`. -/
def execXchGet (d : Reg) (nw : Bool) (a b : Sel) (s : State) : Out :=
  .next (vecOp (.xchGet d nw a b) d nw [a, b] (exchange (fun _ k => some (k % 32))) s)

/-- `xch.flip`. -/
def execXchFlip (d : Reg) (nw : Bool) (a b : Sel) (s : State) : Out :=
  .next (vecOp (.xchFlip d nw a b) d nw [a, b] (exchange (fun t k => some (t ^^^ (k % 32)))) s)

/-- `xch.rot`. -/
def execXchRot (d : Reg) (nw : Bool) (a b : Sel) (s : State) : Out :=
  .next (vecOp (.xchRot d nw a b) d nw [a, b] (exchange (fun t k => some ((t + k) % 32))) s)

/-- `xch.lag`: the k lowest threads receive zero. -/
def execXchLag (d : Reg) (nw : Bool) (a b : Sel) (s : State) : Out :=
  .next (vecOp (.xchLag d nw a b) d nw [a, b] (exchange (fun t k => if k ≤ t then some (t - k) else none)) s)

/-- A value folded over the active threads in ascending order. -/
def foldActive (m : Mask) (v : List RegVal) (f : Word → Word → Word) : Word :=
  match threads m with
  | [] => 0
  | t :: r => r.foldl (fun x u => f x (opnd v 0 u)) (opnd v 0 t)

/-- A reduction over the active threads; U (07 R197). -/
def reduce (f : Word → Word → Word) : State → List RegVal → RegVal × FlagSet :=
  fun s v => (.u (foldActive s.me.cur.mask v f), noFlags)

/-- `red.add`. -/
def execRedAdd (d : Reg) (nw : Bool) (a : Sel) (s : State) : Out :=
  .next (vecOp (.redAdd d nw a) d nw [a] (reduce (fun x y => x + y)) s)

/-- One node of the tree of `red.fadd` (07 R197). -/
def treeNode (rm : RMode) (ftz : Bool) (x y : Option Nat × FlagSet) : Option Nat × FlagSet :=
  match x.1, y.1 with
  | some p, some q => let r := fpAdd fF32 rm ftz p q; (some r.1, (x.2.join y.2).join r.2)
  | some p, none => (some p, x.2.join y.2)
  | none, q => (q, x.2.join y.2)

/-- One level of the tree: node i from nodes 2i and 2i + 1. -/
def treeLevel (rm : RMode) (ftz : Bool) : List (Option Nat × FlagSet) → List (Option Nat × FlagSet)
  | x :: y :: r => treeNode rm ftz x y :: treeLevel rm ftz r
  | l => l

/-- `red.fadd`: the tree over the 32 leaves, operands read as 05 R114 and R127 say (07 R197); U. -/
def execRedFadd (d : Reg) (nw : Bool) (a : Sel) (s : State) : Out :=
  .next (vecOp (.redFadd d nw a) d nw [a]
    (fun s v =>
      let leaf := fun (t : Fin 32) =>
        ((if s.me.cur.mask.getLsbD t.val then some (passOn fF32 (modeOf s).2 (opnd v 0 t).toNat) else none : Option Nat), noFlags)
      let lv := treeLevel (modeOf s).1 (modeOf s).2
      let root := (lv (lv (lv (lv (lv ((List.finRange 32).map leaf)))))).headD (none, noFlags)
      (.u (BitVec.ofNat 32 (root.1.getD 0)), root.2)) s)

/-- `red.min`: signed. -/
def execRedMin (d : Reg) (nw : Bool) (a : Sel) (s : State) : Out :=
  .next (vecOp (.redMin d nw a) d nw [a] (reduce minS) s)

/-- `red.max`: signed. -/
def execRedMax (d : Reg) (nw : Bool) (a : Sel) (s : State) : Out :=
  .next (vecOp (.redMax d nw a) d nw [a] (reduce maxS) s)

/-- `scan.add`: inclusive prefixes over the active threads (07 R198); G. -/
def execScanAdd (d : Reg) (nw : Bool) (a : Sel) (s : State) : Out :=
  .next (vecOp (.scanAdd d nw a) d nw [a]
    (fun s v => (gOf (fun t => foldActive (s.me.cur.mask &&& maskOf (fun u => decide (u ≤ t))) v (fun x y => x + y)),
                 noFlags)) s)

/-- The running sums of `scan.fadd`: thread, sum and flags so far (07 R198). -/
def scanSums (rm : RMode) (ftz : Bool) (v : List RegVal) : List (Fin 32) → Option Nat → List (Fin 32 × Nat × FlagSet)
  | [], _ => []
  | t :: r, none =>
    let x := passOn fF32 ftz (opnd v 0 t).toNat
    (t, x, noFlags) :: scanSums rm ftz v r (some x)
  | t :: r, some x =>
    let y := fpAdd fF32 rm ftz x (opnd v 0 t).toNat
    (t, y.1, y.2) :: scanSums rm ftz v r (some y.1)

/-- `scan.fadd`: sequential additions from the first active thread's exact value (07 R198); G. -/
def execScanFadd (d : Reg) (nw : Bool) (a : Sel) (s : State) : Out :=
  .next (vecOp (.scanFadd d nw a) d nw [a]
    (fun s v =>
      let l := scanSums (modeOf s).1 (modeOf s).2 v (threads s.me.cur.mask) none
      (gOf (fun t => match l.find? (fun x => x.1 == t) with
        | some x => BitVec.ofNat 32 x.2.1
        | none => 0), l.foldl (fun f x => f.join x.2.2) noFlags)) s)

/-- `allnz` (07 R199). -/
def execAllnz (d : Reg) (nw : Bool) (a : Sel) (s : State) : Out :=
  .next (vecOp (.allnz d nw a) d nw [a]
    (fun s v => (.u (boolW ((threads s.me.cur.mask).all (fun t => opnd v 0 t != 0))), noFlags)) s)

/-- `anynz` (07 R199). -/
def execAnynz (d : Reg) (nw : Bool) (a : Sel) (s : State) : Out :=
  .next (vecOp (.anynz d nw a) d nw [a]
    (fun s v => (.u (boolW ((threads s.me.cur.mask).any (fun t => opnd v 0 t != 0))), noFlags)) s)

end Sys2Proof.Machine
end

