-- ==== Sys2Proof/Machine/Dispatch.lean ====
section
/-! DEFINITION. One arm per constructor of `Instr`: each instruction's meaning. -/

namespace Sys2Proof.Machine

def exec (i : Instr) (s : State) : Host.Outcome State Fault Refusal :=
  match i with
  | .iadd x0 x1 x2 x3 => Sys2Proof.Machine.execIadd x0 x1 x2 x3 s
  | .isub x0 x1 x2 x3 => Sys2Proof.Machine.execIsub x0 x1 x2 x3 s
  | .imul x0 x1 x2 x3 => Sys2Proof.Machine.execImul x0 x1 x2 x3 s
  | .imulh x0 x1 x2 x3 => Sys2Proof.Machine.execImulh x0 x1 x2 x3 s
  | .nmulh x0 x1 x2 x3 => Sys2Proof.Machine.execNmulh x0 x1 x2 x3 s
  | .iaddc x0 x1 x2 x3 => Sys2Proof.Machine.execIaddc x0 x1 x2 x3 s
  | .isubb x0 x1 x2 x3 => Sys2Proof.Machine.execIsubb x0 x1 x2 x3 s
  | .imin x0 x1 x2 x3 => Sys2Proof.Machine.execImin x0 x1 x2 x3 s
  | .imax x0 x1 x2 x3 => Sys2Proof.Machine.execImax x0 x1 x2 x3 s
  | .nmin x0 x1 x2 x3 => Sys2Proof.Machine.execNmin x0 x1 x2 x3 s
  | .nmax x0 x1 x2 x3 => Sys2Proof.Machine.execNmax x0 x1 x2 x3 s
  | .and x0 x1 x2 x3 => Sys2Proof.Machine.execAnd x0 x1 x2 x3 s
  | .or x0 x1 x2 x3 => Sys2Proof.Machine.execOr x0 x1 x2 x3 s
  | .xor x0 x1 x2 x3 => Sys2Proof.Machine.execXor x0 x1 x2 x3 s
  | .andn x0 x1 x2 x3 => Sys2Proof.Machine.execAndn x0 x1 x2 x3 s
  | .shl x0 x1 x2 x3 => Sys2Proof.Machine.execShl x0 x1 x2 x3 s
  | .shr x0 x1 x2 x3 => Sys2Proof.Machine.execShr x0 x1 x2 x3 s
  | .sar x0 x1 x2 x3 => Sys2Proof.Machine.execSar x0 x1 x2 x3 s
  | .rotl x0 x1 x2 x3 => Sys2Proof.Machine.execRotl x0 x1 x2 x3 s
  | .bfx x0 x1 x2 x3 => Sys2Proof.Machine.execBfx x0 x1 x2 x3 s
  | .bfxs x0 x1 x2 x3 => Sys2Proof.Machine.execBfxs x0 x1 x2 x3 s
  | .perm x0 x1 x2 x3 => Sys2Proof.Machine.execPerm x0 x1 x2 x3 s
  | .iabsd x0 x1 x2 x3 => Sys2Proof.Machine.execIabsd x0 x1 x2 x3 s
  | .ineg x0 x1 x2 => Sys2Proof.Machine.execIneg x0 x1 x2 s
  | .iabs x0 x1 x2 => Sys2Proof.Machine.execIabs x0 x1 x2 s
  | .not x0 x1 x2 => Sys2Proof.Machine.execNot x0 x1 x2 s
  | .popc x0 x1 x2 => Sys2Proof.Machine.execPopc x0 x1 x2 s
  | .clz x0 x1 x2 => Sys2Proof.Machine.execClz x0 x1 x2 s
  | .ctz x0 x1 x2 => Sys2Proof.Machine.execCtz x0 x1 x2 s
  | .brev x0 x1 x2 => Sys2Proof.Machine.execBrev x0 x1 x2 s
  | .sext8 x0 x1 x2 => Sys2Proof.Machine.execSext8 x0 x1 x2 s
  | .sext16 x0 x1 x2 => Sys2Proof.Machine.execSext16 x0 x1 x2 s
  | .zext8 x0 x1 x2 => Sys2Proof.Machine.execZext8 x0 x1 x2 s
  | .zext16 x0 x1 x2 => Sys2Proof.Machine.execZext16 x0 x1 x2 s
  | .bswap x0 x1 x2 => Sys2Proof.Machine.execBswap x0 x1 x2 s
  | .imad x0 x1 x2 x3 x4 => Sys2Proof.Machine.execImad x0 x1 x2 x3 x4 s
  | .bfi x0 x1 x2 x3 x4 => Sys2Proof.Machine.execBfi x0 x1 x2 x3 x4 s
  | .sel x0 x1 x2 x3 x4 => Sys2Proof.Machine.execSel x0 x1 x2 x3 x4 s
  | .iaddi x0 x1 x2 x3 => Sys2Proof.Machine.execIaddi x0 x1 x2 x3 s
  | .andi x0 x1 x2 x3 => Sys2Proof.Machine.execAndi x0 x1 x2 x3 s
  | .ori x0 x1 x2 x3 => Sys2Proof.Machine.execOri x0 x1 x2 x3 s
  | .xori x0 x1 x2 x3 => Sys2Proof.Machine.execXori x0 x1 x2 x3 s
  | .movi x0 x1 x2 => Sys2Proof.Machine.execMovi x0 x1 x2 s
  | .lit x0 x1 x2 => Sys2Proof.Machine.execLit x0 x1 x2 s
  | .lea x0 x1 x2 x3 x4 => Sys2Proof.Machine.execLea x0 x1 x2 x3 x4 s
  | .lea64 x0 x1 x2 x3 x4 => Sys2Proof.Machine.execLea64 x0 x1 x2 x3 x4 s
  | .icmp x0 x1 x2 x3 x4 => Sys2Proof.Machine.execIcmp x0 x1 x2 x3 x4 s
  | .ncmp x0 x1 x2 x3 x4 => Sys2Proof.Machine.execNcmp x0 x1 x2 x3 x4 s
  | .iadd64 x0 x1 x2 x3 => Sys2Proof.Machine.execIadd64 x0 x1 x2 x3 s
  | .isub64 x0 x1 x2 x3 => Sys2Proof.Machine.execIsub64 x0 x1 x2 x3 s
  | .shl64 x0 x1 x2 x3 => Sys2Proof.Machine.execShl64 x0 x1 x2 x3 s
  | .shr64 x0 x1 x2 x3 => Sys2Proof.Machine.execShr64 x0 x1 x2 x3 s
  | .sar64 x0 x1 x2 x3 => Sys2Proof.Machine.execSar64 x0 x1 x2 x3 s
  | .imul64 x0 x1 x2 x3 => Sys2Proof.Machine.execImul64 x0 x1 x2 x3 s
  | .mulw x0 x1 x2 x3 => Sys2Proof.Machine.execMulw x0 x1 x2 x3 s
  | .nmulw x0 x1 x2 x3 => Sys2Proof.Machine.execNmulw x0 x1 x2 x3 s
  | .pand x0 x1 x2 => Sys2Proof.Machine.execPand x0 x1 x2 s
  | .por x0 x1 x2 => Sys2Proof.Machine.execPor x0 x1 x2 s
  | .pxor x0 x1 x2 => Sys2Proof.Machine.execPxor x0 x1 x2 s
  | .pandn x0 x1 x2 => Sys2Proof.Machine.execPandn x0 x1 x2 s
  | .pnot x0 x1 => Sys2Proof.Machine.execPnot x0 x1 s
  | .ptest x0 x1 => Sys2Proof.Machine.execPtest x0 x1 s
  | .pget x0 x1 x2 => Sys2Proof.Machine.execPget x0 x1 x2 s
  | .fadd x0 x1 x2 x3 x4 => Sys2Proof.Machine.execFadd x0 x1 x2 x3 x4 s
  | .fsub x0 x1 x2 x3 x4 => Sys2Proof.Machine.execFsub x0 x1 x2 x3 x4 s
  | .fmul x0 x1 x2 x3 x4 => Sys2Proof.Machine.execFmul x0 x1 x2 x3 x4 s
  | .fmin x0 x1 x2 x3 x4 => Sys2Proof.Machine.execFmin x0 x1 x2 x3 x4 s
  | .fmax x0 x1 x2 x3 x4 => Sys2Proof.Machine.execFmax x0 x1 x2 x3 x4 s
  | .fscale x0 x1 x2 x3 x4 => Sys2Proof.Machine.execFscale x0 x1 x2 x3 x4 s
  | .fcopysign x0 x1 x2 x3 x4 => Sys2Proof.Machine.execFcopysign x0 x1 x2 x3 x4 s
  | .fabsd x0 x1 x2 x3 x4 => Sys2Proof.Machine.execFabsd x0 x1 x2 x3 x4 s
  | .ffma x0 x1 x2 x3 x4 => Sys2Proof.Machine.execFfma x0 x1 x2 x3 x4 s
  | .hfma x0 x1 x2 x3 x4 => Sys2Proof.Machine.execHfma x0 x1 x2 x3 x4 s
  | .bfma x0 x1 x2 x3 x4 => Sys2Proof.Machine.execBfma x0 x1 x2 x3 x4 s
  | .fneg x0 x1 x2 => Sys2Proof.Machine.execFneg x0 x1 x2 s
  | .fabs x0 x1 x2 => Sys2Proof.Machine.execFabs x0 x1 x2 s
  | .frcp x0 x1 x2 => Sys2Proof.Machine.execFrcp x0 x1 x2 s
  | .frsq x0 x1 x2 => Sys2Proof.Machine.execFrsq x0 x1 x2 s
  | .fsqrt x0 x1 x2 => Sys2Proof.Machine.execFsqrt x0 x1 x2 s
  | .fexp2 x0 x1 x2 => Sys2Proof.Machine.execFexp2 x0 x1 x2 s
  | .flog2 x0 x1 x2 => Sys2Proof.Machine.execFlog2 x0 x1 x2 s
  | .fsin x0 x1 x2 => Sys2Proof.Machine.execFsin x0 x1 x2 s
  | .fcos x0 x1 x2 => Sys2Proof.Machine.execFcos x0 x1 x2 s
  | .ftanh x0 x1 x2 => Sys2Proof.Machine.execFtanh x0 x1 x2 s
  | .fsigm x0 x1 x2 => Sys2Proof.Machine.execFsigm x0 x1 x2 s
  | .frndNe x0 x1 x2 => Sys2Proof.Machine.execFrndNe x0 x1 x2 s
  | .frndZ x0 x1 x2 => Sys2Proof.Machine.execFrndZ x0 x1 x2 s
  | .frndDn x0 x1 x2 => Sys2Proof.Machine.execFrndDn x0 x1 x2 s
  | .frndUp x0 x1 x2 => Sys2Proof.Machine.execFrndUp x0 x1 x2 s
  | .fclass x0 x1 x2 => Sys2Proof.Machine.execFclass x0 x1 x2 s
  | .ffract x0 x1 x2 => Sys2Proof.Machine.execFfract x0 x1 x2 s
  | .fcmp x0 x1 x2 x3 x4 => Sys2Proof.Machine.execFcmp x0 x1 x2 x3 x4 s
  | .fcmpF64 x0 x1 x2 x3 x4 => Sys2Proof.Machine.execFcmpF64 x0 x1 x2 x3 x4 s
  | .fcvt x0 x1 x2 x3 x4 x5 x6 => Sys2Proof.Machine.execFcvt x0 x1 x2 x3 x4 x5 x6 s
  | .fpack x0 x1 x2 x3 x4 x5 => Sys2Proof.Machine.execFpack x0 x1 x2 x3 x4 x5 s
  | .funpk x0 x1 x2 x3 x4 => Sys2Proof.Machine.execFunpk x0 x1 x2 x3 x4 s
  | .dadd x0 x1 x2 x3 => Sys2Proof.Machine.execDadd x0 x1 x2 x3 s
  | .dsub x0 x1 x2 x3 => Sys2Proof.Machine.execDsub x0 x1 x2 x3 s
  | .dmul x0 x1 x2 x3 => Sys2Proof.Machine.execDmul x0 x1 x2 x3 s
  | .dmin x0 x1 x2 x3 => Sys2Proof.Machine.execDmin x0 x1 x2 x3 s
  | .dmax x0 x1 x2 x3 => Sys2Proof.Machine.execDmax x0 x1 x2 x3 s
  | .dfma x0 x1 x2 x3 x4 => Sys2Proof.Machine.execDfma x0 x1 x2 x3 x4 s
  | .sbcast x0 x1 x2 x3 => Sys2Proof.Machine.execSbcast x0 x1 x2 x3 s
  | .saff x0 x1 x2 x3 => Sys2Proof.Machine.execSaff x0 x1 x2 x3 s
  | .sgen x0 x1 x2 => Sys2Proof.Machine.execSgen x0 x1 x2 s
  | .stag x0 x1 x2 => Sys2Proof.Machine.execStag x0 x1 x2 s
  | .mov x0 x1 x2 => Sys2Proof.Machine.execMov x0 x1 x2 s
  | .xmrd x0 x1 => Sys2Proof.Machine.execXmrd x0 x1 s
  | .xmwr x0 => Sys2Proof.Machine.execXmwr x0 s
  | .ballot x0 x1 x2 => Sys2Proof.Machine.execBallot x0 x1 x2 s
  | .xchGet x0 x1 x2 x3 => Sys2Proof.Machine.execXchGet x0 x1 x2 x3 s
  | .xchFlip x0 x1 x2 x3 => Sys2Proof.Machine.execXchFlip x0 x1 x2 x3 s
  | .xchRot x0 x1 x2 x3 => Sys2Proof.Machine.execXchRot x0 x1 x2 x3 s
  | .xchLag x0 x1 x2 x3 => Sys2Proof.Machine.execXchLag x0 x1 x2 x3 s
  | .redAdd x0 x1 x2 => Sys2Proof.Machine.execRedAdd x0 x1 x2 s
  | .redFadd x0 x1 x2 => Sys2Proof.Machine.execRedFadd x0 x1 x2 s
  | .redMin x0 x1 x2 => Sys2Proof.Machine.execRedMin x0 x1 x2 s
  | .redMax x0 x1 x2 => Sys2Proof.Machine.execRedMax x0 x1 x2 s
  | .scanAdd x0 x1 x2 => Sys2Proof.Machine.execScanAdd x0 x1 x2 s
  | .scanFadd x0 x1 x2 => Sys2Proof.Machine.execScanFadd x0 x1 x2 s
  | .allnz x0 x1 x2 => Sys2Proof.Machine.execAllnz x0 x1 x2 s
  | .anynz x0 x1 x2 => Sys2Proof.Machine.execAnynz x0 x1 x2 s
  | .br x0 x1 x2 => Sys2Proof.Machine.execBr x0 x1 x2 s
  | .brAll x0 x1 x2 => Sys2Proof.Machine.execBrAll x0 x1 x2 s
  | .brd x0 x1 x2 x3 => Sys2Proof.Machine.execBrd x0 x1 x2 x3 s
  | .call x0 => Sys2Proof.Machine.execCall x0 s
  | .jr x0 => Sys2Proof.Machine.execJr x0 s
  | .jrd x0 x1 => Sys2Proof.Machine.execJrd x0 x1 s
  | .ret => Sys2Proof.Machine.execRet s
  | .nop => Sys2Proof.Machine.execNop s
  | .exit => Sys2Proof.Machine.execExit s
  | .yield => Sys2Proof.Machine.execYield s
  | .tfence => Sys2Proof.Machine.execTfence s
  | .trap x0 => Sys2Proof.Machine.execTrap x0 s
  | .brkpt => Sys2Proof.Machine.execBrkpt s
  | .eret => Sys2Proof.Machine.execEret s
  | .nap x0 => Sys2Proof.Machine.execNap x0 s
  | .role x0 => Sys2Proof.Machine.execRole x0 s
  | .sysc x0 x1 x2 x3 => Sys2Proof.Machine.execSysc x0 x1 x2 x3 s
  | .rdsr x0 x1 x2 => Sys2Proof.Machine.execRdsr x0 x1 x2 s
  | .wrsr x0 x1 => Sys2Proof.Machine.execWrsr x0 x1 s
  | .ld x0 x1 x2 x3 => Sys2Proof.Machine.execLd x0 x1 x2 x3 s
  | .st x0 x1 x2 x3 => Sys2Proof.Machine.execSt x0 x1 x2 x3 s
  | .ldv x0 x1 x2 x3 => Sys2Proof.Machine.execLdv x0 x1 x2 x3 s
  | .pf x0 x1 x2 => Sys2Proof.Machine.execPf x0 x1 x2 s
  | .acq x0 x1 x2 => Sys2Proof.Machine.execAcq x0 x1 x2 s
  | .rel x0 x1 x2 => Sys2Proof.Machine.execRel x0 x1 x2 s
  | .acqrel x0 x1 x2 x3 => Sys2Proof.Machine.execAcqrel x0 x1 x2 x3 s
  | .fence x0 => Sys2Proof.Machine.execFence x0 s
  | .aadd x0 x1 x2 x3 => Sys2Proof.Machine.execAadd x0 x1 x2 x3 s
  | .aand x0 x1 x2 x3 => Sys2Proof.Machine.execAand x0 x1 x2 x3 s
  | .aor x0 x1 x2 x3 => Sys2Proof.Machine.execAor x0 x1 x2 x3 s
  | .axor x0 x1 x2 x3 => Sys2Proof.Machine.execAxor x0 x1 x2 x3 s
  | .axchg x0 x1 x2 x3 => Sys2Proof.Machine.execAxchg x0 x1 x2 x3 s
  | .amin x0 x1 x2 x3 => Sys2Proof.Machine.execAmin x0 x1 x2 x3 s
  | .amax x0 x1 x2 x3 => Sys2Proof.Machine.execAmax x0 x1 x2 x3 s
  | .anmin x0 x1 x2 x3 => Sys2Proof.Machine.execAnmin x0 x1 x2 x3 s
  | .anmax x0 x1 x2 x3 => Sys2Proof.Machine.execAnmax x0 x1 x2 x3 s
  | .acas x0 x1 x2 x3 => Sys2Proof.Machine.execAcas x0 x1 x2 x3 s
  | .ainc x0 x1 x2 x3 => Sys2Proof.Machine.execAinc x0 x1 x2 x3 s
  | .abadd x0 x1 x2 x3 => Sys2Proof.Machine.execAbadd x0 x1 x2 x3 s
  | .afadd x0 x1 x2 x3 => Sys2Proof.Machine.execAfadd x0 x1 x2 x3 s
  | .afmax x0 x1 x2 x3 => Sys2Proof.Machine.execAfmax x0 x1 x2 x3 s
  | .afaddBf16x2 x0 x1 x2 x3 => Sys2Proof.Machine.execAfaddBf16x2 x0 x1 x2 x3 s
  | .aadd64 x0 x1 x2 x3 => Sys2Proof.Machine.execAadd64 x0 x1 x2 x3 s
  | .axchg64 x0 x1 x2 x3 => Sys2Proof.Machine.execAxchg64 x0 x1 x2 x3 s
  | .acas64 x0 x1 x2 x3 => Sys2Proof.Machine.execAcas64 x0 x1 x2 x3 s
  | .amin64 x0 x1 x2 x3 => Sys2Proof.Machine.execAmin64 x0 x1 x2 x3 s
  | .amax64 x0 x1 x2 x3 => Sys2Proof.Machine.execAmax64 x0 x1 x2 x3 s
  | .caddF32 x0 x1 x2 => Sys2Proof.Machine.execCaddF32 x0 x1 x2 s
  | .caddBf16 x0 x1 x2 => Sys2Proof.Machine.execCaddBf16 x0 x1 x2 s
  | .caddF16 x0 x1 x2 => Sys2Proof.Machine.execCaddF16 x0 x1 x2 s
  | .caddI32 x0 x1 x2 => Sys2Proof.Machine.execCaddI32 x0 x1 x2 s
  | .cmaxF32 x0 x1 x2 => Sys2Proof.Machine.execCmaxF32 x0 x1 x2 s
  | .dprop x0 x1 x2 x3 => Sys2Proof.Machine.execDprop x0 x1 x2 x3 s
  | .dread x0 x1 x2 x3 => Sys2Proof.Machine.execDread x0 x1 x2 x3 s
  | .dreset x0 x1 x2 x3 => Sys2Proof.Machine.execDreset x0 x1 x2 x3 s
  | .dstat x0 x1 x2 => Sys2Proof.Machine.execDstat x0 x1 x2 s
  | .wwait x0 x1 x2 x3 x4 x5 => Sys2Proof.Machine.execWwait x0 x1 x2 x3 x4 x5 s
  | .barPost x0 x1 x2 x3 => Sys2Proof.Machine.execBarPost x0 x1 x2 x3 s
  | .barMeet x0 x1 x2 x3 => Sys2Proof.Machine.execBarMeet x0 x1 x2 x3 s
  | .barHold x0 x1 x2 => Sys2Proof.Machine.execBarHold x0 x1 x2 s
  | .barQuad x0 x1 => Sys2Proof.Machine.execBarQuad x0 x1 s
  | .barDie x0 x1 => Sys2Proof.Machine.execBarDie x0 x1 s
  | .barPkg x0 x1 => Sys2Proof.Machine.execBarPkg x0 x1 s
  | .barPod x0 x1 => Sys2Proof.Machine.execBarPod x0 x1 s
  | .join => Sys2Proof.Machine.execJoin s
  | .qput x0 x1 => Sys2Proof.Machine.execQput x0 x1 s
  | .qtry x0 x1 x2 => Sys2Proof.Machine.execQtry x0 x1 x2 s
  | .qbind x0 x1 x2 x3 => Sys2Proof.Machine.execQbind x0 x1 x2 x3 s
  | .qallow x0 x1 => Sys2Proof.Machine.execQallow x0 x1 s
  | .qcount x0 x1 x2 => Sys2Proof.Machine.execQcount x0 x1 x2 s
  | .qunbind x0 => Sys2Proof.Machine.execQunbind x0 s
  | .tgive x0 => Sys2Proof.Machine.execTgive x0 s
  | .ttake x0 => Sys2Proof.Machine.execTtake x0 s
  | .towner x0 x1 x2 => Sys2Proof.Machine.execTowner x0 x1 x2 s
  | .mvtd x0 x1 => Sys2Proof.Machine.execMvtd x0 x1 s
  | .rdtd x0 x1 x2 => Sys2Proof.Machine.execRdtd x0 x1 x2 s
  | .mma x0 => Sys2Proof.Machine.execMma x0 s
  | .mmab x0 => Sys2Proof.Machine.execMmab x0 s
  | .mmat x0 x1 x2 x3 => Sys2Proof.Machine.execMmat x0 x1 x2 x3 s
  | .cdrain x0 x1 x2 x3 x4 x5 x6 x7 x8 x9 => Sys2Proof.Machine.execCdrain x0 x1 x2 x3 x4 x5 x6 x7 x8 x9 s
  | .czero x0 => Sys2Proof.Machine.execCzero x0 s
  | .cload x0 x1 x2 => Sys2Proof.Machine.execCload x0 x1 x2 s
  | .hclr x0 => Sys2Proof.Machine.execHclr x0 s
  | .hrd x0 x1 x2 x3 => Sys2Proof.Machine.execHrd x0 x1 x2 x3 s
  | .hset x0 x1 => Sys2Proof.Machine.execHset x0 x1 s
  | .cwait x0 x1 => Sys2Proof.Machine.execCwait x0 x1 s
  | .clauseIssue x0 => Sys2Proof.Machine.execClauseIssue x0 s
  | .clauseBegin => Sys2Proof.Machine.execClauseBegin s
  | .strandReady x0 x1 => Sys2Proof.Machine.execStrandReady x0 x1 s
  | .timeSliceExpiry x0 => Sys2Proof.Machine.execTimeSliceExpiry x0 s
  | .evictionComplete x0 x1 => Sys2Proof.Machine.execEvictionComplete x0 x1 s
  | .bankDrowsy x0 x1 => Sys2Proof.Machine.execBankDrowsy x0 x1 s
  | .registerError x0 x1 x2 x3 => Sys2Proof.Machine.execRegisterError x0 x1 x2 x3 s
  | .releasePerform x0 => Sys2Proof.Machine.execReleasePerform x0 s
  | .tgiveFlip x0 x1 => Sys2Proof.Machine.execTgiveFlip x0 x1 s
  | .launchDoorbell x0 x1 => Sys2Proof.Machine.execLaunchDoorbell x0 x1 s
  | .qerrClear x0 => Sys2Proof.Machine.execQerrClear x0 s
  | .launchRecordAccept => Sys2Proof.Machine.execLaunchRecordAccept s
  | .tornReread x0 => Sys2Proof.Machine.execTornReread x0 s
  | .deviceLaunch x0 => Sys2Proof.Machine.execDeviceLaunch x0 s
  | .graphRegister => Sys2Proof.Machine.execGraphRegister s
  | .graphUnregister => Sys2Proof.Machine.execGraphUnregister s
  | .graphReplay => Sys2Proof.Machine.execGraphReplay s
  | .graphReplayStart => Sys2Proof.Machine.execGraphReplayStart s
  | .graphNodeAccept x0 x1 => Sys2Proof.Machine.execGraphNodeAccept x0 x1 s
  | .launchComplete x0 => Sys2Proof.Machine.execLaunchComplete x0 s
  | .rangeRequest x0 x1 => Sys2Proof.Machine.execRangeRequest x0 x1 s
  | .rangeSteal x0 x1 => Sys2Proof.Machine.execRangeSteal x0 x1 s
  | .blockPlace x0 => Sys2Proof.Machine.execBlockPlace x0 s
  | .matrixOpTake x0 => Sys2Proof.Machine.execMatrixOpTake x0 s
  | .matrixOpComplete x0 x1 => Sys2Proof.Machine.execMatrixOpComplete x0 x1 s
  | .get x0 x1 => Sys2Proof.Machine.execGet x0 x1 s
  | .put x0 x1 => Sys2Proof.Machine.execPut x0 x1 s
  | .fill x0 x1 => Sys2Proof.Machine.execFill x0 x1 s
  | .copyCommandTake x0 => Sys2Proof.Machine.execCopyCommandTake x0 s
  | .copyComplete x0 => Sys2Proof.Machine.execCopyComplete x0 s
  | .promiseDecision x0 => Sys2Proof.Machine.execPromiseDecision x0 s
  | .copyFailed x0 x1 => Sys2Proof.Machine.execCopyFailed x0 x1 s
  | .scale x0 x1 => Sys2Proof.Machine.execScale x0 x1 s
  | .axpy x0 x1 => Sys2Proof.Machine.execAxpy x0 x1 s
  | .fade x0 x1 => Sys2Proof.Machine.execFade x0 x1 s
  | .zero x0 x1 => Sys2Proof.Machine.execZero x0 x1 s
  | .nearUnitApply x0 x1 => Sys2Proof.Machine.execNearUnitApply x0 x1 s
  | .nearCommandComplete x0 => Sys2Proof.Machine.execNearCommandComplete x0 s
  | .homeAccess x0 x1 => Sys2Proof.Machine.execHomeAccess x0 x1 s
  | .parityDeltaApply x0 x1 => Sys2Proof.Machine.execParityDeltaApply x0 x1 s
  | .atomicAtPoint x0 x1 => Sys2Proof.Machine.execAtomicAtPoint x0 x1 s
  | .caddDeposit x0 x1 => Sys2Proof.Machine.execCaddDeposit x0 x1 s
  | .docCellRequest x0 x1 => Sys2Proof.Machine.execDocCellRequest x0 x1 s
  | .watchArmRequest x0 => Sys2Proof.Machine.execWatchArmRequest x0 s
  | .watchDeadline x0 => Sys2Proof.Machine.execWatchDeadline x0 s
  | .replyArrive x0 x1 => Sys2Proof.Machine.execReplyArrive x0 x1 s
  | .cxlMemRequest x0 x1 => Sys2Proof.Machine.execCxlMemRequest x0 x1 s
  | .nearCopyAgeOut x0 x1 => Sys2Proof.Machine.execNearCopyAgeOut x0 x1 s
  | .predictorSwitchNear x0 => Sys2Proof.Machine.execPredictorSwitchNear x0 s
  | .stagedUnitFetched x0 x1 x2 => Sys2Proof.Machine.execStagedUnitFetched x0 x1 x2 s
  | .stagedUnitAgeOut x0 x1 => Sys2Proof.Machine.execStagedUnitAgeOut x0 x1 s
  | .stagedWritebackBegin x0 x1 => Sys2Proof.Machine.execStagedWritebackBegin x0 x1 s
  | .stagedWritebackAck x0 x1 x2 => Sys2Proof.Machine.execStagedWritebackAck x0 x1 x2 s
  | .backInvalidate x0 x1 => Sys2Proof.Machine.execBackInvalidate x0 x1 s
  | .fenceCountMessage x0 => Sys2Proof.Machine.execFenceCountMessage x0 s
  | .switchReleaseForward x0 => Sys2Proof.Machine.execSwitchReleaseForward x0 s
  | .probeTimeout x0 => Sys2Proof.Machine.execProbeTimeout x0 s
  | .hubWatchArm x0 x1 x2 => Sys2Proof.Machine.execHubWatchArm x0 x1 x2 s
  | .hubReplyClear x0 x1 => Sys2Proof.Machine.execHubReplyClear x0 x1 s
  | .hubCoreAccess x0 x1 => Sys2Proof.Machine.execHubCoreAccess x0 x1 s
  | .endpointDma x0 x1 => Sys2Proof.Machine.execEndpointDma x0 x1 s
  | .inval x0 => Sys2Proof.Machine.execInval x0 s
  | .invalComplete x0 => Sys2Proof.Machine.execInvalComplete x0 s
  | .bindload x0 => Sys2Proof.Machine.execBindload x0 s
  | .evict x0 => Sys2Proof.Machine.execEvict x0 s
  | .checkpoint x0 => Sys2Proof.Machine.execCheckpoint x0 s
  | .checkpointComplete x0 => Sys2Proof.Machine.execCheckpointComplete x0 s
  | .restore x0 => Sys2Proof.Machine.execRestore x0 s
  | .kill x0 => Sys2Proof.Machine.execKill x0 s
  | .killAct x0 => Sys2Proof.Machine.execKillAct x0 s
  | .faultQueueDrain => Sys2Proof.Machine.execFaultQueueDrain s
  | .dispResume => Sys2Proof.Machine.execDispResume s
  | .dispReflect => Sys2Proof.Machine.execDispReflect s
  | .dispKill => Sys2Proof.Machine.execDispKill s
  | .signatureCompare x0 x1 x2 => Sys2Proof.Machine.execSignatureCompare x0 x1 x2 s
  | .signatureTimeout x0 x1 x2 => Sys2Proof.Machine.execSignatureTimeout x0 x1 x2 s
  | .leaseOffer x0 x1 => Sys2Proof.Machine.execLeaseOffer x0 x1 s
  | .leaseWithdraw x0 => Sys2Proof.Machine.execLeaseWithdraw x0 s
  | .leaseRecall x0 => Sys2Proof.Machine.execLeaseRecall x0 s
  | .extentAdd x0 x1 x2 x3 => Sys2Proof.Machine.execExtentAdd x0 x1 x2 x3 s
  | .leaseRenewal x0 x1 => Sys2Proof.Machine.execLeaseRenewal x0 x1 s
  | .leaseRelease x0 x1 => Sys2Proof.Machine.execLeaseRelease x0 x1 s
  | .leaseExpiry x0 => Sys2Proof.Machine.execLeaseExpiry x0 s
  | .recallDeadline x0 => Sys2Proof.Machine.execRecallDeadline x0 s
  | .extentScrubDone x0 => Sys2Proof.Machine.execExtentScrubDone x0 s
  | .extentRequest x0 => Sys2Proof.Machine.execExtentRequest x0 s
  | .requestCancel x0 => Sys2Proof.Machine.execRequestCancel x0 s
  | .borrowRelease x0 => Sys2Proof.Machine.execBorrowRelease x0 s
  | .borrowReactivate x0 => Sys2Proof.Machine.execBorrowReactivate x0 s
  | .borrowFree x0 => Sys2Proof.Machine.execBorrowFree x0 s
  | .addEvent x0 x1 => Sys2Proof.Machine.execAddEvent x0 x1 s
  | .renewalDue x0 => Sys2Proof.Machine.execRenewalDue x0 s
  | .renewalReply x0 x1 x2 => Sys2Proof.Machine.execRenewalReply x0 x1 x2 s
  | .renewalRetry x0 => Sys2Proof.Machine.execRenewalRetry x0 s
  | .guardReached x0 => Sys2Proof.Machine.execGuardReached x0 s
  | .recall x0 x1 => Sys2Proof.Machine.execRecall x0 x1 s
  | .releaseAck x0 => Sys2Proof.Machine.execReleaseAck x0 s
  | .cobblerOffer x0 x1 => Sys2Proof.Machine.execCobblerOffer x0 x1 s
  | .cobblerRequest x0 x1 => Sys2Proof.Machine.execCobblerRequest x0 x1 s
  | .heartbeatSend => Sys2Proof.Machine.execHeartbeatSend s
  | .heartbeat x0 x1 x2 => Sys2Proof.Machine.execHeartbeat x0 x1 x2 s
  | .heartbeatTimeout => Sys2Proof.Machine.execHeartbeatTimeout s
  | .hbmPatrolRead x0 x1 => Sys2Proof.Machine.execHbmPatrolRead x0 x1 s
  | .unitRebuildComplete x0 => Sys2Proof.Machine.execUnitRebuildComplete x0 s
  | .errorLogFlush => Sys2Proof.Machine.execErrorLogFlush s
  | .stackBaseDieSilent x0 => Sys2Proof.Machine.execStackBaseDieSilent x0 s
  | .settlePoint => Sys2Proof.Machine.execSettlePoint s
  | .dieFence x0 x1 => Sys2Proof.Machine.execDieFence x0 x1 s
  | .fencedNotice x0 => Sys2Proof.Machine.execFencedNotice x0 s
  | .noRouteTimeout x0 => Sys2Proof.Machine.execNoRouteTimeout x0 s
  | .requestRetry x0 x1 => Sys2Proof.Machine.execRequestRetry x0 x1 s
  | .linkReplay x0 x1 => Sys2Proof.Machine.execLinkReplay x0 x1 s
  | .retrainComplete x0 => Sys2Proof.Machine.execRetrainComplete x0 s
  | .routeRecompute x0 => Sys2Proof.Machine.execRouteRecompute x0 s
  | .reset x0 => Sys2Proof.Machine.execReset x0 s
  | .bootStage x0 => Sys2Proof.Machine.execBootStage x0 s
  | .attestationRequest x0 => Sys2Proof.Machine.execAttestationRequest x0 s
  | .grantInterval x0 => Sys2Proof.Machine.execGrantInterval x0 s
  | .overCurrentAlarm x0 => Sys2Proof.Machine.execOverCurrentAlarm x0 s
  | .coolantOutOfLimits x0 x1 => Sys2Proof.Machine.execCoolantOutOfLimits x0 x1 s
  | .coolantBudgetStep => Sys2Proof.Machine.execCoolantBudgetStep s
  | .burstExhausted => Sys2Proof.Machine.execBurstExhausted s
  | .profile x0 => Sys2Proof.Machine.execProfile x0 s
  | .thermClear x0 => Sys2Proof.Machine.execThermClear x0 s
  | .arm x0 => Sys2Proof.Machine.execArm x0 s
  | .disarm x0 => Sys2Proof.Machine.execDisarm x0 s
  | .halt x0 => Sys2Proof.Machine.execHalt x0 s
  | .debugResume x0 => Sys2Proof.Machine.execDebugResume x0 s
  | .step x0 x1 => Sys2Proof.Machine.execStep x0 x1 s
  | .debugRead x0 => Sys2Proof.Machine.execDebugRead x0 s
  | .debugWrite x0 x1 => Sys2Proof.Machine.execDebugWrite x0 x1 s
  | .registerWrite x0 x1 x2 => Sys2Proof.Machine.execRegisterWrite x0 x1 x2 s
  | .attestationReport x0 x1 => Sys2Proof.Machine.execAttestationReport x0 x1 s
  | .linkTraining x0 x1 => Sys2Proof.Machine.execLinkTraining x0 x1 s
  | .hubFirmwareFailure => Sys2Proof.Machine.execHubFirmwareFailure s
  | .coolantWithinLimits => Sys2Proof.Machine.execCoolantWithinLimits s
  | .lineEviction x0 x1 => Sys2Proof.Machine.execLineEviction x0 x1 s

end Sys2Proof.Machine
end

