-- ==== Sys2Proof/Machine/Run.lean ====
section
/-! DEFINITION. What one step of the package does: the fragment in the issue slot goes on, or a step of an engine or agent;
then time passes. And how a word is placed where the next step fetches (06 R142–R157; 14 R346, R366; log 2, log 3). -/

namespace Sys2Proof.Machine

/-! ### The fragment in the issue slot -/

/-- What stands at the pc of the fragment in the issue slot. -/
inductive Fetch where
  | instr (i : Instr)
  | illegal (ws : List Word)
  | held
  | absent (borrow unit : Nat)
  | bad (c : Cause) (detail : Nat) (addr : Option Nat) (arg : Nat)
  deriving DecidableEq, Repr

/-- A word decoded, with its second word if it has one (06 R143, R157). -/
def decoded (w : Word) (l : Option Word) : Fetch :=
  match decodeWords w l with
  | .ok i => .instr i
  | .error _ => .illegal (w :: (match l with
    | some l => [l]
    | none => []))

/-- The instruction at the pc: a second word is fetched when the clause still holds it. -/
def fetchInstr (s : State) : Fetch :=
  let f := s.me.cur
  match fetchAt s s.me f.wordAddr with
  | .held => .held
  | .absent b u => .absent b u
  | .bad c d a g => .bad c d a g
  | .word w =>
    if isTwoWord w && decide (f.widx < clauseLen f.head) then
      match fetchAt s s.me (f.wordAddr + 4) with
      | .held => .held
      | .absent b u => .absent b u
      | .bad c d a g => .bad c d a g
      | .word l => decoded w (some l)
    else decoded w none

/-- The next instruction of the fragment in the issue slot: its meaning, or the cause of its fetch or its decoding (06 R157;
14 R366); a word of a staged unit that is not there is fetched first (11 R322), and a word of another package is asked of it (11 R321). The emulation registers of a word that could not be fetched are free values (log 44). -/
def runNext (s : State) : Out :=
  match fetchInstr s with
  | .instr i => exec i (sendFetch s s.me s.me.cur.wordAddr)
  | .illegal ws => .next (raiseBefore ws { cause := .illegalEncoding, threads := s.me.cur.mask } s)
  | .held => .next s
  | .absent b u => .next (fetchUnit b u s)
  | .bad c d a g => .next (raiseBefore [freeWord s 0, freeWord s 4] (fetchReport s s.me.cur.wordAddr c d a g) s)

/-- Whether the next thing of the fragment in the issue slot is an instruction, and not the beginning or the end of a
clause. -/
def atInstr (s : State) : Bool := mayIssue s

/-- Whether the fragment in the issue slot has gone on. -/
def moved (s t : State) : Bool :=
  let f := s.me.cur
  let g := t.me.cur
  s.me.who.id != t.me.who.id || f.id != g.id || f.hdr != g.hdr || f.widx != g.widx || f.inClause != g.inClause
    || f.wait != g.wait || f.slot != g.slot

/-- A halted strand after something its fragment did: once the one instruction of a STEP has issued the strand is halted
again and gives up the issue slot; an instruction that is only held at issue has not issued (14 R370; log 89). -/
def endStep (s t : State) : State :=
  if t.me.halted && (t.me.stepping.isNone || (atInstr s && moved s t)) then
    modMe (fun x => { x with stepping := none, cur := x.cur.unslot }) t
  else t

/-- A fragment that has made an instruction once more takes up again where it had come to (14 R346; log 35); one that was sent
elsewhere goes on there. -/
def redirect (s : State) : Option State :=
  let f := s.me.cur
  match f.redo with
  | [] => none
  | r :: rest =>
    if !(s.me.here && f.wait == .ready && f.begun == .no && s.me.mayGo f.id) || (f.hdr, f.widx) == r.at_ then none
    else if (f.hdr, f.widx) == r.next then
      some (modCur (fun f => { f.goto r.back.1 r.back.2 with tf := r.tf, tickCap := r.tickCap, redo := rest }) s)
    else some (modCur (fun f => { f with redo := [] }) s)

/-- The fragment in the issue slot goes on: its next instruction, after which a STEP has been made (14 R370), or the
beginning or end of its clause. -/
def goOn (s : State) : Out :=
  if let some t := redirect s then .next t
  else if atInstr s then
    match runNext s with
    | .next t => .next (endStep s t)
    | o => o
  else .next (endStep s (beginClause s))

/-! ### What else may happen when nothing is chosen -/

/-- A step of an engine or agent. -/
abbrev Act := State → Out

/-- Steps of an outstanding operation. -/
def opSteps (o : Op) : List Act :=
  let one := fun (p : Access × Nat) => match p.1.state with
    | .waiting => [match o.what with
        | .load _ | .loadv _ | .acq | .store | .rel => execHomeAccess o.id p.2
        | .acqrel | .atomic _ _ => execAtomicAtPoint o.id p.2
        | .cadd _ _ => execCaddDeposit o.id p.2
        | .watch _ _ _ => execWatchArmRequest o.id
        | _ => execDocCellRequest o.id p.2]
    | .applied => [execParityDeltaApply o.id p.2]
    | .switched => [execRequestRetry o.id p.2]
    | _ => []
  (if o.gate then [execReleasePerform o.id] else []) ++ (if o.switchHeld then [execSwitchReleaseForward o.id] else [])
    ++ o.accs.zipIdx.flatMap one ++ [execReplyArrive o.id []]

/-- Steps of the engines. -/
def engineSteps (s : State) : List Act :=
  let quads := s.engines.controls.map (fun p => p.1 / 4)
  quads.map execMatrixOpTake ++ quads.flatMap (fun q => (List.range 4).map (execMatrixOpComplete q))
    ++ s.engines.controls.flatMap (fun p => p.2.gives.map (fun g => execTgiveFlip p.1 g.2.1))
    ++ s.engines.copies.flatMap (fun c =>
      let row := fun (r : Nat) => match c.op with
        | .get => execGet c.id r
        | .put => execPut c.id r
        | .fill => execFill c.id r
      execCopyCommandTake (c.quad / 4) :: c.rows.map row ++ [execCopyComplete c.id, execPromiseDecision c.id])
    ++ s.engines.nears.flatMap (fun c =>
      let op := fun (i : Nat) => match c.op with
        | .scale => execScale c.id i
        | .axpy => execAxpy c.id i
        | .fade => execFade c.id i
        | .zero => execZero c.id i
      (List.range c.units.length).flatMap (fun i =>
        [op i, execNearUnitApply c.id i, execParityDeltaApply c.id i]) ++ [execNearCommandComplete c.id])

/-- Steps of the distributors and the command processor. -/
def launchSteps (s : State) : List Act :=
  let dies := liveDies s
  [execLaunchRecordAccept] ++ (List.range 16).map (fun q => execTornReread (BitVec.ofNat 4 q))
    ++ s.work.device.map (fun d => execDeviceLaunch d.owner)
    ++ [execGraphRegister, execGraphUnregister, execGraphReplay, execGraphReplayStart]
    ++ s.work.replays.flatMap (fun r => (List.range r.params.length).map (execGraphNodeAccept r.handle))
    ++ s.work.launches.flatMap (fun l => execLaunchComplete l.handle :: dies.flatMap (fun d =>
      [execRangeRequest d l.handle, execRangeSteal d l.handle]))
    ++ dies.map execBlockPlace

/-- Steps of the services, the fault queue and the paired windows. -/
def kernelSteps (s : State) : List Act :=
  s.services.flatMap (fun x => match x.kind with
    | .inval => [execInval x.id, execInvalComplete x.id]
    | .bindload => [execBindload x.id]
    | .evict => [execEvict x.id, execEvictionComplete (x.arg.toNat % 2 ^ 30) (x.arg.toNat / 2 ^ 32)]
    | .checkpoint => [execCheckpoint x.id, execCheckpointComplete x.id]
    | .restore => [execRestore x.id]
    | .kill => [execKill x.id])
    ++ [execFaultQueueDrain, execDispResume, execDispReflect, execDispKill]
    ++ (strandsOf s).flatMap (fun st => if st.windowSig.isNone then [] else
        let sid := if st.place.isCtl then reportIndex st.who.id else st.who.sid
        [execSignatureCompare st.who.id.handle st.who.blockIdx sid, execSignatureTimeout st.who.id.handle st.who.blockIdx sid])

/-- Steps of strands: kills, waits that are over, and the next clause of another lane. -/
def strandSteps (s : State) : List Act :=
  (strandsOf s).flatMap (fun st =>
    (if st.killing then [execKillAct st.who.id] else [])
      ++ (st.all.filter (fun f => f.wait != .ready)).map (fun f => execStrandReady st.who.id f.id)
      ++ (if !st.readyFrags.isEmpty && !(st.who.id == s.me.who.id && s.me.here && s.me.cur.slot) then
            [execClauseIssue st.place.lane]
          else []))

/-- Steps that a tick brings about, and those of failing memory. -/
def timedSteps (s : State) : List Act :=
  s.mem.watches.map (fun p => execWatchDeadline p.1)
    ++ s.lending.leases.flatMap (fun p => [execLeaseExpiry p.1, execRecallDeadline p.1, execExtentScrubDone p.1])
    ++ s.lending.borrows.flatMap (fun p => [execRenewalDue p.1, execRenewalRetry p.1, execGuardReached p.1])
    ++ s.mem.staged.flatMap (fun p => [execStagedWritebackBegin (p.1 / 2 ^ 23) (p.1 % 2 ^ 23),
        execStagedUnitAgeOut (p.1 / 2 ^ 23) (p.1 % 2 ^ 23)])
    ++ s.mem.copies.map (fun c => execNearCopyAgeOut c.die c.line)
    ++ s.mem.points.map (fun p => execPredictorSwitchNear p.line)
    ++ s.mem.rebuilds.map (fun r => execUnitRebuildComplete r.unit)
    ++ [execSettlePoint, execErrorLogFlush, execHeartbeatSend, execHeartbeatTimeout, execCoolantBudgetStep, execBurstExhausted]
    ++ s.links.noRoute.map (fun p => execNoRouteTimeout p.1)
    ++ (List.range 18).flatMap (fun i => if (portAt s i).up || (portAt s i).buffer.isEmpty then [] else [execRouteRecompute i])

/-- What the package may do of itself. -/
def ownSteps (s : State) : List Act :=
  s.mem.ops.flatMap opSteps ++ engineSteps s ++ kernelSteps s ++ strandSteps s ++ launchSteps s ++ timedSteps s

/-- A list turned so that it begins at its `n`th element. -/
def rotate {α : Type} (n : Nat) (l : List α) : List α := l.drop (n % l.length) ++ l.take (n % l.length)

/-- One step that the package takes of itself, in turn, if any has an effect (log 45). -/
def ownStep (s : State) : State :=
  ((rotate s.fresh (ownSteps s)).findSome? (fun i =>
    let t := after s (i s)
    if t = s then none else some t)).getD s

/-- With nothing chosen: the fragment in the issue slot goes on; where it cannot, the package's own work does. -/
def byItself (s : State) : Out :=
  match goOn s with
  | .next t => .next (if moved s t then t else ownStep t)
  | o => o

/-- What a choice of the world outside does: instructions with an encoding only run by being fetched. -/
def chosen (c : Option Instr) (s : State) : Out :=
  match c with
  | none => goOn s
  | some i => if hasEncoding i then .next s else exec i s

/-- The link partners acknowledge flits of the ports in service (15 R391; log 82). -/
def ackLinks (s : State) : State :=
  { s with links := { s.links with ports := Vector.ofFn (fun (i : Fin 18) =>
      let p := s.links.ports[i]
      if p.buffer.isEmpty || !p.up || p.retraining then p
      else { p with buffer := p.buffer.drop (Config.linkAcks s.fresh i.val) }) } }

/-- Time passes, the counter of free values with it; the hidden queues have room or not; and what a tick brings about of itself
comes about (log 1, log 61, log 82). -/
def elapse (s : State) : State :=
  let t := flushQueued (ackLinks s)
  dueNow (passTime (Config.elapsed s.fresh) { t with
    fresh := t.fresh + 1, engines := { t.engines with noRoom := Config.noRoom t.fresh } })

/-! ### A word where the next step fetches (log 3) -/

/-- The virtual address of the clause that `placeWord` lays down; its page is the 64 KiB frame at `codeFrame`. -/
def codeAt : Nat := 0x100000000

/-- The local address of its frame. -/
def codeFrame : Nat := 0x300000

/-- The local address of its root table. -/
def codeRoot : Nat := 0x200000

/-- The launch handle of its strand. -/
def codeHandle : Nat := 0x3FFFFFFF

/-- A path of table entries, and a leaf that maps the page of `codeAt` with the rights R, W and X (04 R94–R96). -/
def mapCode (s : State) : State :=
  let entry := fun (table level dest : Nat) (s : State) =>
    poke (table + 8 * levelIndex level codeAt) (leBytes 8 ((fabOf s 0).toNat + dest)) s
  entry codeRoot 4 (codeRoot + 0x10001) (entry (codeRoot + 0x10000) 3 (codeRoot + 0x20001)
    (entry (codeRoot + 0x20000) 2 (codeRoot + 0x30001) (entry (codeRoot + 0x30000) 1 (codeFrame + 0x1F) s)))

/-- A record of one block of one strand with V = G = 64, 512 bytes of lane memory, 4 KiB of scratch, 1 MiB of quad memory
and a control program. -/
def codeRecord : Record :=
  parseRecord [1, 0x20, 0, 1, 0, 1, 0, 0, 264192, 71303184, 0, 0, 0, 0, 0, 1]

/-- Its launch. -/
def codeLaunch (s : State) : Launch :=
  { handle := codeHandle, record := codeRecord, context := 0, roles := [⟨BitVec.ofNat 52 codeAt, 64, 64, 0⟩], free := [],
    runs := [], lost := [], ended := 0, order := s.work.acceptCount, generation := 0, restored := false, replay := none }

/-- Its block, on core 0. -/
def codeBlock : Block :=
  { handle := codeHandle, idx := 0, twin := false, core := 0, base := 0, size := 4096,
    bars := Vector.replicate 16 ⟨0, 0, false, false⟩, abandoned := false, strands := 1 }

/-- Its quad memory, on quad 0. -/
def codeRegion : QuadRegion :=
  { handle := codeHandle, quad := 0, twin := false, home := 0, base := 2 ^ 22, size := 2 ^ 20, context := some 0, orig := 0 }

/-- Whether a word runs on control lanes only (06 R161): majors 0x37 to 0x39. -/
def onlyControl (w : Word) : Bool := 0x37 ≤ (fMajor w).toNat && (fMajor w).toNat ≤ 0x39

/-- The strand at the first instruction of the clause: the control program for an instruction of control lanes, else strand
0. -/
def codeStrand (s : State) (w : Word) : Strand :=
  let l := codeLaunch s
  let st := if onlyControl w then controlStrand l 0 0 0 false else roleStrand l (strandIdentity l 0 0 false) (.vec 0 0 0)
  { st with cur := { st.cur with
      widx := 1, inClause := true, head := if isTwoWord w then 0x20000000 else 0x10000000, slot := true } }

/-- A state in which the next step fetches the instruction of these words: it stands in a clause of its own, mapped in
address context 0, and a strand in the course of that clause has the issue slot. -/
def placeWord (s : State) (w l : Word) : State :=
  let head : Word := if isTwoWord w then 0x20000000 else 0x10000000
  let s := { s with
    me := codeStrand s w
    others := if s.me.here then insertBy (fun x => x.age) s.me s.others else s.others
    agenda := []
    kernel := { s.kernel with contexts := tput s.kernel.contexts (.start 0) 0 { contextAt s 0 with
      rootl := loW (fabOf s codeRoot), rooth := hiW (fabOf s codeRoot) } }
    work := { s.work with
      launches := s.work.launches.filter (fun x => x.handle != codeHandle) ++ [codeLaunch s]
      blocks := s.work.blocks.filter (fun x => x.handle != codeHandle) ++ [codeBlock]
      regions := s.work.regions.filter (fun x => x.handle != codeHandle) ++ [codeRegion] }
    mem := { s.mem with
      mode := if s.mem.mode = .fenced then .parity else s.mem.mode
      tlb := s.mem.tlb.filter (fun e => agentDie e.agent != 0)
      poisoned := [] } }
  poke codeFrame ([head, w, l].flatMap wordBytes) (mapCode s)

end Sys2Proof.Machine
end

