-- ==== Sys2Proof/Machine/Step.lean ====
section
/-! DEFINITION. The one step of the machine, and a word placed where it fetches (00 R4; log 2, log 3). -/

namespace Sys2Proof.Machine

/-- One step: what the world outside has chosen next, or else what the package does of itself; then time passes. -/
def step (s : State) : Host.Outcome State Fault Refusal :=
  match (match s.agenda with
    | c :: rest => chosen c { s with agenda := rest }
    | [] => byItself s) with
  | .next t => .next (elapse t)
  | .fault f => .fault f
  | .refused r => .refused r

/-- `s` with the instruction whose bits are `w` (those above `nbits` zero) where `step` fetches next. -/
def State.withFetchWord (s : State) (nbits w : Nat) : State :=
  let x := w % 2 ^ nbits
  placeWord s (BitVec.ofNat 32 x) (BitVec.ofNat 32 (x / 2 ^ 32))

end Sys2Proof.Machine
end

