-- ==== Sys2Proof/Safety.lean ====
section
/-! DEFINITION. The terms that statements about a step are made in: when an instruction executes (14 R346, R351), what it
leaves unchanged, and the canonical form of the tables of a state. -/

namespace Sys2Proof

open Sys2Proof.Machine

/-! ### A safe run -/

/-- A safe step: the machine goes on. -/
def safeStep (s : State) : Prop := ∃ t, step s = .next t

/-! ### When an instruction executes -/

/-- What 06 R156, R157 and 14 R346, R351 ask before an instruction has its own effect: the fragment in the issue slot may
issue and stands in its clause, the word may stand there, there is an active thread, the context has the rights, no
deferred cause comes first, its registers exist and wait for no load, and every queue it pops holds entries. -/
def executes (n : Need) (s : State) : Bool :=
  mayIssue s && (s.me.cur.begun == .no) && !misplaced n s && (s.me.cur.mask != 0) && n.priv.isNone
    && !(n.releasing && s.me.psf.getLsbD 31) && (badReg n s).isNone && !heldAtIssue n s
    && (popCheck s (selPops n.sels) == .fine)

/-- What an instruction with one vector result asks at issue. -/
def vecNeed (i : Instr) (d : Reg) (sels : List Sel) : Need :=
  { words := encodeWords i, regs := [d], sels := sels, dst := some d }

/-- What an instruction with a pair result asks at issue; `regs` are its source registers. -/
def pairNeed (i : Instr) (d : Reg) (regs : List Reg) (sels : List Sel) : Need :=
  { words := encodeWords i, regs := [d, nextReg d 1] ++ regs, uses := regs, sels := sels, dst := some d }

/-- What an instruction with a predicate result asks at issue. -/
def predNeed (i : Instr) (regs : List Reg) (sels : List Sel) : Need :=
  { words := encodeWords i, regs := regs, uses := regs, sels := sels }

/-- Operand `k` of an instruction in a thread, before it executes. -/
def operand (s : State) (sels : List Sel) (k : Nat) (th : Fin 32) : Word := opnd (selVals s [] sels) k th

/-- Whether a thread is active. -/
def activeIn (s : State) (th : Fin 32) : Bool := s.me.cur.mask.getLsbD th.val

/-! ### What stays -/

/-- The pops of an instruction: HEAD of each popped queue and the AB bits of `qstatus` are all that they change in
memory and in the strand (02 R38, 08 R251). -/
structure OnlyPops (sels : List Sel) (s t : State) : Prop where
  bytes : ∀ a, (∀ q ∈ selPops sels, ∀ b, binding s.me q = some b → ∀ h,
      scratchAddr s s.me b.quadSpace b.offset.toNat = some h → a < h ∨ h + 4 ≤ a) →
    memByte t.mem.scratch a = memByte s.mem.scratch a
  status : ∀ k, (∀ q ∈ selPops sels, q.toNat ≠ k) → t.me.qstatus.getLsbD k = s.me.qstatus.getLsbD k

/-- The pc after an instruction of `n` words that is no transfer: the next word, or the following header past the last
word of a clause, where an implicit `tfence` is to come with TF (06 R142, R143, R147). -/
def pastPc (n : Nat) (f g : Fragment) : Prop :=
  if clauseLen f.head < f.widx + n then g.hdr = f.nextHeader ∧ g.widx = 0 ∧ g.tf.isSome = tfOf f.head
  else g.hdr = f.hdr ∧ g.widx = f.widx + n

/-- The fragment after an instruction that is no transfer: the pc as `pastPc` says, and number, mask, parent and
reconvergence address as before. -/
structure FragmentPast (n : Nat) (s t : State) : Prop where
  pc : pastPc n s.me.cur t.me.cur
  same : t.me.cur.id = s.me.cur.id ∧ t.me.cur.mask = s.me.cur.mask ∧ t.me.cur.parent = s.me.cur.parent
    ∧ t.me.cur.reconv = s.me.cur.reconv ∧ t.me.cur.head = s.me.cur.head ∧ t.me.cur.wait = .ready

/-- Whether an instruction ends the latch window: it pops a queue, or is one that can wait (02 R36). -/
def endsWindow (n : Need) : Bool := !(selPops n.sels).isEmpty || n.blocking

/-- The latches after an instruction that is no transfer: zero where the clause has ended; else b(k mod 4) takes the vector
result, if there is one, and the others stay, or read as zero where the window ends (02 R35, R36). -/
def LatchesPast (n : Need) (res : Option (Fin 32 → Word)) (s t : State) : Prop :=
  ∀ k, k < 4 → ∀ th, (vget t.me.cur.latches k (.u 0)).at th =
    if clauseLen s.me.cur.head < s.me.cur.widx + n.words.length then 0
    else
      let kept := if endsWindow n then 0 else (vget s.me.cur.latches k (.u 0)).at th
      match res with
      | some v => if k = s.me.cur.k % 4 then v th else kept
      | none => kept

/-- The operand log of every other lane is as before (16 R405). -/
def otherLogs (s t : State) : Prop :=
  ∀ k, k ≠ s.me.place.laneKey → tget t.opLog [] k = tget s.opLog [] k

/-- The frame of an instruction that computes in registers: outside `ds` no register changes; besides registers,
predicates, flags, the fragment in the issue slot, queue pops and the lane's operand log nothing changes. -/
structure Computed (n : Need) (ds : List Reg) (s t : State) : Prop where
  rest : t = { s with
    me := { s.me with
      regs := t.me.regs
      resident := t.me.resident
      preds := t.me.preds
      fflags := t.me.fflags
      qstatus := t.me.qstatus
      cur := t.me.cur }
    mem := { s.mem with scratch := t.mem.scratch }
    opLog := t.opLog }
  regs : ∀ r, r ∉ ds → reg t r = reg s r
  pops : OnlyPops n.sels s t
  frag : FragmentPast n.words.length s t
  logs : otherLogs s t

/-- The effect of an instruction with one vector result: active threads of `d` take `v`, unless NW; the latch takes the value
`d` would hold without NW; `fl` is ORed into the flags; predicates and everything else stay. -/
structure VecEffect (n : Need) (d : Reg) (nw : Bool) (v : Fin 32 → Word) (fl : Word) (s t : State) : Prop where
  value : ∀ th, (reg t d).at th = if !nw && activeIn s th then v th else (reg s d).at th
  latches : LatchesPast n (some (fun th => if activeIn s th then v th else (reg s d).at th)) s t
  flags : t.me.fflags = s.me.fflags ||| fl
  preds : t.me.preds = s.me.preds
  frame : Computed n (if nw then [] else [d]) s t

/-- The effect of an instruction with a pair result; the latch takes the even register's value (06 R152). -/
structure PairEffect (n : Need) (d : Reg) (nw : Bool) (v : Fin 32 → DWord) (fl : Word) (s t : State) : Prop where
  value : ∀ th, pairAt t d th = if !nw && activeIn s th then v th else pairAt s d th
  latches : LatchesPast n (some (fun th => if activeIn s th then loW (v th) else (reg s d).at th)) s t
  flags : t.me.fflags = s.me.fflags ||| fl
  preds : t.me.preds = s.me.preds
  frame : Computed n (if nw then [] else [d, nextReg d 1]) s t

/-- The effect of an instruction with a predicate result: the active threads' bits of `pd` take `v`; `p7` is never
written (07 R181). -/
structure PredEffect (n : Need) (pd : PredNo) (v : Fin 32 → Bool) (s t : State) : Prop where
  value : ∀ th : Fin 32, (predMask t pd).getLsbD th.val =
    if pd != 7 && activeIn s th then v th else (predMask s pd).getLsbD th.val
  others : ∀ p, p ≠ pd → predMask t p = predMask s p
  latches : LatchesPast n none s t
  flags : t.me.fflags = s.me.fflags
  frame : Computed n [] s t

/-! ### The canonical form of a state's tables -/

/-- Keys strictly rising. -/
def keysRise {α : Type} : Option Nat → Tbl α → Bool
  | _, [] => true
  | lo, (k, _) :: r =>
    (match lo with
     | none => true
     | some m => decide (m < k)) && keysRise (some k) r

/-- The numbered tables of a package list each number at most once, in rising order. -/
def tablesRise (s : State) : Bool :=
  keysRise none s.engines.controls && keysRise none s.kernel.contexts && keysRise none s.engines.rrQuad
    && keysRise none s.work.contexts && keysRise none s.kernel.written && keysRise none s.mem.watches
    && keysRise none s.mem.hub && keysRise none s.mem.staged && keysRise none s.lending.leases
    && keysRise none s.lending.borrows && keysRise none s.links.sequence && keysRise none s.links.attempts
    && keysRise none s.opLog && keysRise none s.work.generations

/-- The four memories of a package are in canonical form: addresses strictly rising, no zero byte listed. -/
def memoriesWf (s : State) : Bool :=
  Memory.wf s.mem.bytes && Memory.wf s.mem.parity && Memory.wf s.mem.scratch && Memory.wf s.mem.slices

end Sys2Proof
end

