-- ==== Sys2Proof/Certificates/Slice0/Obligations.lean ====
section
/-! DEFINITION. The statements for the provers. Each says of the instructions it names what the numbered rules give: the
next state that `exec` answers, what it holds and what it leaves. -/

namespace Sys2Proof.Claims

open Sys2Proof Sys2Proof.Machine

/-! ### Forms of statements about register instructions -/

/-- An instruction of two selectors gives `f` of its operands in every active thread, raises no flag and changes nothing
else. -/
def BinaryGives (mk : Reg → Bool → Sel → Sel → Instr) (f : Word → Word → Word) : Prop :=
  ∀ (d : Reg) (nw : Bool) (a b : Sel) (s : State), executes (vecNeed (mk d nw a b) d [a, b]) s = true →
    ∃ t, exec (mk d nw a b) s = .next t ∧
      VecEffect (vecNeed (mk d nw a b) d [a, b]) d nw (fun th => f (operand s [a, b] 0 th) (operand s [a, b] 1 th)) 0 s t

/-- The same of an instruction of one selector. -/
def UnaryGives (mk : Reg → Bool → Sel → Instr) (f : Word → Word) : Prop :=
  ∀ (d : Reg) (nw : Bool) (a : Sel) (s : State), executes (vecNeed (mk d nw a) d [a]) s = true →
    ∃ t, exec (mk d nw a) s = .next t ∧
      VecEffect (vecNeed (mk d nw a) d [a]) d nw (fun th => f (operand s [a] 0 th)) 0 s t

/-- The same of an instruction of three selectors. -/
def TernaryGives (mk : Reg → Bool → Sel → Sel → Sel → Instr) (f : Word → Word → Word → Word) : Prop :=
  ∀ (d : Reg) (nw : Bool) (a b c : Sel) (s : State), executes (vecNeed (mk d nw a b c) d [a, b, c]) s = true →
    ∃ t, exec (mk d nw a b c) s = .next t ∧
      VecEffect (vecNeed (mk d nw a b c) d [a, b, c]) d nw
        (fun th => f (operand s [a, b, c] 0 th) (operand s [a, b, c] 1 th) (operand s [a, b, c] 2 th)) 0 s t

/-- The same of an instruction of a selector and a 12-bit immediate. -/
def ImmediateGives (mk : Reg → Bool → Sel → BitVec 12 → Instr) (f : Word → Word → Word) : Prop :=
  ∀ (d : Reg) (nw : Bool) (a : Sel) (imm : BitVec 12) (s : State),
    executes (vecNeed (mk d nw a imm) d [a]) s = true →
    ∃ t, exec (mk d nw a imm) s = .next t ∧
      VecEffect (vecNeed (mk d nw a imm) d [a]) d nw (fun th => f (operand s [a] 0 th) (imm.signExtend 32)) 0 s t

/-- The same of an instruction of two register pairs: both registers of each pair are read. -/
def PairGives (mk : Reg → Bool → Reg → Reg → Instr) (f : DWord → DWord → DWord) : Prop :=
  ∀ (d : Reg) (nw : Bool) (a b : Reg) (s : State),
    executes (pairNeed (mk d nw a b) d [a, nextReg a 1, b, nextReg b 1] []) s = true →
    ∃ t, exec (mk d nw a b) s = .next t ∧
      PairEffect (pairNeed (mk d nw a b) d [a, nextReg a 1, b, nextReg b 1] []) d nw
        (fun th => f (pairAt s a th) (pairAt s b th)) 0 s t

/-- The same where only the even register of each pair is read. -/
def WideGives (mk : Reg → Bool → Reg → Reg → Instr) (f : Word → Word → DWord) : Prop :=
  ∀ (d : Reg) (nw : Bool) (a b : Reg) (s : State), executes (pairNeed (mk d nw a b) d [a, b] []) s = true →
    ∃ t, exec (mk d nw a b) s = .next t ∧
      PairEffect (pairNeed (mk d nw a b) d [a, b] []) d nw (fun th => f ((reg s a).at th) ((reg s b).at th)) 0 s t

/-- An instruction of two predicates writes `f` of their bits. -/
def PredicatesGive (mk : PredNo → PredNo → PredNo → Instr) (f : Bool → Bool → Bool) : Prop :=
  ∀ (pd pa pb : PredNo) (s : State), executes (predNeed (mk pd pa pb) [] []) s = true →
    ∃ t, exec (mk pd pa pb) s = .next t ∧
      PredEffect (predNeed (mk pd pa pb) [] []) pd
        (fun th => f ((predMask s pa).getLsbD th.val) ((predMask s pb).getLsbD th.val)) s t

/-- Position and effective length of a bit field (07 R173). -/
def bitField (spec : Word) : Nat × Nat :=
  ((spec.extractLsb' 0 5).toNat, min (spec.extractLsb' 8 6).toNat (32 - (spec.extractLsb' 0 5).toNat))

/-- A byte that `perm` selects (07 R174). -/
def permuted (a : Word) (sel : BitVec 4) : Byte :=
  if sel.toNat ≤ 3 then a.extractLsb' (8 * sel.toNat) 8
  else if sel.toNat ≤ 7 then (if a.getLsbD (8 * (sel.toNat - 4) + 7) then 0xFF else 0x00)
  else 0x00

/-- The combine of a compare with the bit it writes (07 R179). -/
def combineBit (c : Combine) (old k : Bool) : Bool :=
  match c with
  | .set => k
  | .and => old && k
  | .or => old || k

/-- A condition of `icmp` and `ncmp` on numbers (07 R179). -/
def ordered {α : Type} [LT α] [LE α] [DecidableEq α] [DecidableLT α] [DecidableLE α] (c : Cond) (a b : α) : Bool :=
  match c with
  | .eq => decide (a = b)
  | .ne => decide (a ≠ b)
  | .lt => decide (a < b)
  | .le => decide (a ≤ b)
  | .gt => decide (b < a)
  | .ge => decide (b ≤ a)

/-- How many of the bits `bs` come before the first that is set. -/
def zerosBefore (bs : List Bool) : Nat := (bs.takeWhile (fun b => !b)).length

/-- The bits of a word from bit 0 up. -/
def bitsUp (a : Word) : List Bool := (List.range 32).map (fun i => a.getLsbD i)

/-! ### Forms of statements about floating point -/

/-- Rounding mode and FTZ in force (05 R124). -/
def rounding (s : State) : RMode := rmOf s.me.fcr

/-- FTZ in force. -/
def flushing (s : State) : Bool := ftzOf s.me.fcr

/-- The flags that the active threads raise (05 R125). -/
def raisedBy (s : State) (f : Fin 32 → FlagSet) : Word := (activeFlags s.me.cur.mask f).word

/-- An instruction with a vector result gives the word `(f th).1` in every active thread and raises the flags `(f th).2` of
the active threads. -/
def FloatEffect (i : Instr) (d : Reg) (nw : Bool) (sels : List Sel) (f : Fin 32 → Nat × FlagSet) (s : State) : Prop :=
  ∃ t, exec i s = .next t ∧
    VecEffect (vecNeed i d sels) d nw (fun th => BitVec.ofNat 32 (f th).1) (raisedBy s (fun th => (f th).2)) s t

/-- The magnitude of a pattern: all of it but the sign bit. -/
def magOf (f : BinFmt) (x : Nat) : Nat := x % 2 ^ (f.m + f.eb)

/-- The sign of a pattern. -/
def negOf (f : BinFmt) (x : Nat) : Bool := x / 2 ^ (f.m + f.eb) % 2 == 1

/-- A pattern of a sign and a magnitude. -/
def signed (f : BinFmt) (neg : Bool) (p : Nat) : Nat := (if neg then 2 ^ (f.m + f.eb) else 0) + p

/-- The magnitude above every finite one: that of Inf where the format has Inf (05 R113). -/
def pastFinite (f : BinFmt) : Nat := f.topE * 2 ^ f.m + f.topF + 1

/-- Whether a pattern is a NaN of an IEEE format. -/
def isNaN (f : BinFmt) (x : Nat) : Bool := decide (pastFinite f < magOf f x)

/-- Whether a pattern is ±Inf of an IEEE format. -/
def isInf (f : BinFmt) (x : Nat) : Bool := magOf f x == pastFinite f

/-- A finite magnitude in units of the format's smallest subnormal (05 R113); of `pastFinite`, what it would be were it finite. -/
def units (f : BinFmt) (p : Nat) : Nat :=
  if p / 2 ^ f.m = 0 then p else (2 ^ f.m + p % 2 ^ f.m) * 2 ^ (p / 2 ^ f.m - 1)

/-- 2 to this number is how many units make 1: 1 / (2^(1 − bias) / 2^M) (05 R113). -/
def unitLog (f : BinFmt) : Nat := f.bias + f.m - 1

/-- A finite pattern's value in units. -/
def valueOf (f : BinFmt) (x : Nat) : Int := if negOf f x then -(units f (magOf f x) : Int) else units f (magOf f x)

/-- A pattern as an instruction reads it: with FTZ a subnormal is zero of its sign (05 R127). -/
def readAs (f : BinFmt) (z : Bool) (x : Nat) : Nat :=
  if z && decide (magOf f x < 2 ^ f.m) then signed f (negOf f x) 0 else x

/-- A rounding: `side k` says on which side of k half units the exact magnitude lies. The result is one of the two magnitudes
around it: of nearest even the nearer, of two as near the even one; OF where the result would lie above the largest
finite value, UF where an inexact result lies below the smallest normal one, NX where it is inexact (05 R125). -/
def Rounds (f : BinFmt) (rm : RMode) (neg : Bool) (side : Nat → Ordering) (r : Nat) (fl : FlagSet) : Prop :=
  ∃ p, p < pastFinite f ∧ side (2 * units f p) ≠ .lt ∧ (p + 1 = pastFinite f ∨ side (2 * units f (p + 1)) = .lt) ∧
    let exact := side (2 * units f p) == .eq
    let middle := side (units f p + units f (p + 1))
    let up : Bool := match rm with
      | .ne => middle == .gt || (middle == .eq && p % 2 == 1)
      | .z => false
      | .dn => neg && !exact
      | .up => !neg && !exact
    let q := if up then p + 1 else p
    r = signed f neg q ∧
      fl = {
        ovf := q == pastFinite f || side (2 * units f (pastFinite f)) != .lt
        uf := !exact && decide (q < 2 ^ f.m)
        nx := !exact }

/-- A rounding whose subnormal result is written as zero of its sign under FTZ, with UF and NX (05 R127). -/
def RoundsFlushed (f : BinFmt) (rm : RMode) (z neg : Bool) (side : Nat → Ordering) (r : Nat) (fl : FlagSet) : Prop :=
  ∃ r' fl', Rounds f rm neg side r' fl' ∧
    if z = true ∧ 0 < magOf f r' ∧ magOf f r' < 2 ^ f.m then
      r = signed f neg 0 ∧ fl = { fl' with
        uf := true
        nx := true }
    else r = r' ∧ fl = fl'

/-- The side on which n / d units lie. -/
def sideOf (n d k : Nat) : Ordering := compare (2 * n) (k * d)

/-- The canonical NaN, with NV or without. -/
def NotANumber (f : BinFmt) (nv : Bool) (r : Nat) (fl : FlagSet) : Prop := r = f.nan ∧ fl = { nv := nv }

/-- An Inf from an Inf: no flag. -/
def Infinite (f : BinFmt) (neg : Bool) (r : Nat) (fl : FlagSet) : Prop := r = signed f neg (pastFinite f) ∧ fl = noFlags

/-- An exact sum of `v` / 2^k units rounded: a zero sum has the sign `zneg`. -/
def RoundsSum (f : BinFmt) (rm : RMode) (z : Bool) (v : Int) (k : Nat) (zneg : Bool) (r : Nat) (fl : FlagSet) : Prop :=
  RoundsFlushed f rm z (if v = 0 then zneg else decide (v < 0)) (sideOf v.natAbs (2 ^ k)) r fl

/-- The sign of a zero sum: that of its terms, or of opposite ones + but for −, rounding down (07 R184). -/
def zeroSum (rm : RMode) (x y : Bool) : Bool := if x = y then x else rm == .dn

/-- round(x + y), where `y` has its sign turned for a difference (07 R183). -/
def Adds (turn : Bool) (f : BinFmt) (rm : RMode) (z : Bool) (a b r : Nat) (fl : FlagSet) : Prop :=
  let x := readAs f z a
  let y := readAs f z b
  let sy := negOf f y != turn
  if isNaN f x || isNaN f y then NotANumber f false r fl
  else if isInf f x && isInf f y then (if negOf f x = sy then Infinite f sy r fl else NotANumber f true r fl)
  else if isInf f x then Infinite f (negOf f x) r fl
  else if isInf f y then Infinite f sy r fl
  else RoundsSum f rm z (valueOf f x + (if turn then -valueOf f y else valueOf f y)) 0 (zeroSum rm (negOf f x) sy) r fl

/-- round(x × y) (07 R183). -/
def Multiplies (f : BinFmt) (rm : RMode) (z : Bool) (a b r : Nat) (fl : FlagSet) : Prop :=
  let x := readAs f z a
  let y := readAs f z b
  let neg := negOf f x != negOf f y
  if isNaN f x || isNaN f y then NotANumber f false r fl
  else if isInf f x || isInf f y then
    (if magOf f x = 0 ∨ magOf f y = 0 then NotANumber f true r fl else Infinite f neg r fl)
  else RoundsFlushed f rm z neg (sideOf (units f (magOf f x) * units f (magOf f y)) (2 ^ unitLog f)) r fl

/-- round(x × y + w) with one rounding; 0 × Inf is a NaN with NV, even where w is a NaN (07 R184). -/
def MultipliesAndAdds (f : BinFmt) (rm : RMode) (z : Bool) (a b c r : Nat) (fl : FlagSet) : Prop :=
  let x := readAs f z a
  let y := readAs f z b
  let w := readAs f z c
  let neg := negOf f x != negOf f y
  if !isNaN f x && !isNaN f y && (isInf f x || isInf f y) && (magOf f x == 0 || magOf f y == 0) then NotANumber f true r fl
  else if isNaN f x || isNaN f y || isNaN f w then NotANumber f false r fl
  else if isInf f x || isInf f y then
    (if isInf f w = true ∧ negOf f w ≠ neg then NotANumber f true r fl else Infinite f neg r fl)
  else if isInf f w then Infinite f (negOf f w) r fl
  else RoundsSum f rm z (valueOf f x * valueOf f y + valueOf f w * 2 ^ unitLog f) (unitLog f) (zeroSum rm neg (negOf f w)) r fl

/-- round(|x − y|) with one rounding (07 R183). -/
def Separates (f : BinFmt) (rm : RMode) (z : Bool) (a b r : Nat) (fl : FlagSet) : Prop :=
  let x := readAs f z a
  let y := readAs f z b
  if isNaN f x || isNaN f y then NotANumber f false r fl
  else if isInf f x && isInf f y && negOf f x == negOf f y then NotANumber f true r fl
  else if isInf f x || isInf f y then Infinite f false r fl
  else RoundsFlushed f rm z false (sideOf (valueOf f x - valueOf f y).natAbs 1) r fl

/-- round(x × 2^k), k the signed number that b's bits hold (07 R183). -/
def Scales (f : BinFmt) (rm : RMode) (z : Bool) (a b r : Nat) (fl : FlagSet) : Prop :=
  let x := readAs f z a
  let width := 1 + f.eb + f.m
  let k : Int := if b < 2 ^ (width - 1) then b else (b : Int) - 2 ^ width
  if isNaN f x then NotANumber f false r fl
  else if isInf f x then Infinite f (negOf f x) r fl
  else RoundsFlushed f rm z (negOf f x) (sideOf (units f (magOf f x) * 2 ^ k.toNat) (2 ^ (-k).toNat)) r fl

/-- The order of numbers, −0 below +0 (05 R128). -/
def placeOf (f : BinFmt) (x : Nat) : Int := if negOf f x then -1 - (magOf f x : Int) else magOf f x

/-- The lesser of two patterns, or the greater; of a NaN and another the other; of two NaNs the canonical one (05 R128). -/
def Selects (great : Bool) (f : BinFmt) (z : Bool) (a b r : Nat) (fl : FlagSet) : Prop :=
  let x := readAs f z a
  let y := readAs f z b
  fl = noFlags ∧
    r = if isNaN f x && isNaN f y then f.nan
      else if isNaN f x then y
      else if isNaN f y then x
      else if great then (if placeOf f x < placeOf f y then y else x)
      else (if placeOf f y < placeOf f x then y else x)

/-- The bits of a but for the sign bit, which is b's (05 R114; 07 R183). -/
def TakesSign (f : BinFmt) (a b r : Nat) (fl : FlagSet) : Prop := r = signed f (negOf f b) (magOf f a) ∧ fl = noFlags

/-- A relation of elements and their result held by a word of a type: of a packed type by each position, and the flags are those of
both (07 R183). -/
def InEach (ty : FType) (E : BinFmt → List Nat → Nat → FlagSet → Prop) (xs : List Word) (g : Nat × FlagSet) : Prop :=
  let halves := fun f => ∃ r fl r' fl', E f (xs.map (fun x => x.toNat % 2 ^ 16)) r fl ∧
    E f (xs.map (fun x => x.toNat / 2 ^ 16)) r' fl' ∧ g = (r + 2 ^ 16 * r', fl.join fl')
  match ty with
  | .f32 => E fF32 (xs.map (fun x => x.toNat)) g.1 g.2
  | .f16x2 => halves fF16
  | .bf16x2 => halves fBF16

/-- An instruction of major 0x10 gives each active thread a result that `E` allows, and its flags (07 R183). -/
def TypedGives (mk : Reg → Bool → Sel → Sel → FType → Instr)
    (E : BinFmt → RMode → Bool → Nat → Nat → Nat → FlagSet → Prop) : Prop :=
  ∀ (d : Reg) (nw : Bool) (a b : Sel) (ty : FType) (s : State), executes (vecNeed (mk d nw a b ty) d [a, b]) s = true →
    ∃ g : Fin 32 → Nat × FlagSet,
      (∀ th, activeIn s th = true →
        InEach ty (fun f l => E f (rounding s) (flushing s) (l.getD 0 0) (l.getD 1 0))
          [operand s [a, b] 0 th, operand s [a, b] 1 th] (g th)) ∧
      FloatEffect (mk d nw a b ty) d nw [a, b] g s

/-- A fused multiply-add of one type (07 R184). -/
def FusedGives (mk : Reg → Bool → Sel → Sel → Sel → Instr) (ty : FType) : Prop :=
  ∀ (d : Reg) (nw : Bool) (a b c : Sel) (s : State), executes (vecNeed (mk d nw a b c) d [a, b, c]) s = true →
    ∃ g : Fin 32 → Nat × FlagSet,
      (∀ th, activeIn s th = true →
        InEach ty (fun f l => MultipliesAndAdds f (rounding s) (flushing s) (l.getD 0 0) (l.getD 1 0) (l.getD 2 0))
          [operand s [a, b, c] 0 th, operand s [a, b, c] 1 th, operand s [a, b, c] 2 th] (g th)) ∧
      FloatEffect (mk d nw a b c) d nw [a, b, c] g s

/-- An instruction of major 0x14 on FP32 (07 R185). -/
def FloatUnaryGives (mk : Reg → Bool → Sel → Instr) (E : RMode → Bool → Nat → Nat → FlagSet → Prop) : Prop :=
  ∀ (d : Reg) (nw : Bool) (a : Sel) (s : State), executes (vecNeed (mk d nw a) d [a]) s = true →
    ∃ g : Fin 32 → Nat × FlagSet,
      (∀ th, activeIn s th = true → E (rounding s) (flushing s) (operand s [a] 0 th).toNat (g th).1 (g th).2) ∧
      FloatEffect (mk d nw a) d nw [a] g s

/-- 1/x rounded (07 R185): the reciprocal of u / 2^k is 2^2k / u units. -/
def Inverts (rm : RMode) (z : Bool) (a r : Nat) (fl : FlagSet) : Prop :=
  let x := readAs fF32 z a
  if isNaN fF32 x then NotANumber fF32 false r fl
  else if isInf fF32 x then r = signed fF32 (negOf fF32 x) 0 ∧ fl = noFlags
  else if magOf fF32 x = 0 then r = signed fF32 (negOf fF32 x) 0x7F800000 ∧ fl = { dz := true }
  else RoundsFlushed fF32 rm z (negOf fF32 x) (sideOf (2 ^ 298) (units fF32 (magOf fF32 x))) r fl

/-- √x rounded (07 R185): the root of u / 2^149 is √(u × 2^149) units. -/
def TakesRoot (rm : RMode) (z : Bool) (a r : Nat) (fl : FlagSet) : Prop :=
  let x := readAs fF32 z a
  if isNaN fF32 x then NotANumber fF32 false r fl
  else if magOf fF32 x = 0 then r = x ∧ fl = noFlags
  else if negOf fF32 x then NotANumber fF32 true r fl
  else if isInf fF32 x then Infinite fF32 false r fl
  else RoundsFlushed fF32 rm z false (fun k => compare (4 * units fF32 (magOf fF32 x) * 2 ^ 149) (k * k)) r fl

/-- The magnitude `j` that `n` / `d` is rounded to: the integer below, or the next where the mode says so. -/
def Integral (rm : RMode) (neg : Bool) (n d j : Nat) : Prop :=
  ∃ i, i * d ≤ n ∧ n < (i + 1) * d ∧
    j = if i * d = n then i
      else match rm with
        | .ne => if 2 * n < (2 * i + 1) * d ∨ (2 * n = (2 * i + 1) * d ∧ i % 2 = 0) then i else i + 1
        | .z => i
        | .dn => if neg then i + 1 else i
        | .up => if neg then i else i + 1

/-- x rounded to an integral FP32 value of its sign, with no flag (07 R185). -/
def MakesIntegral (rm : RMode) (z : Bool) (a r : Nat) (fl : FlagSet) : Prop :=
  let x := readAs fF32 z a
  if isNaN fF32 x then NotANumber fF32 false r fl
  else if isInf fF32 x then Infinite fF32 (negOf fF32 x) r fl
  else ∃ j p, Integral rm (negOf fF32 x) (units fF32 (magOf fF32 x)) (2 ^ 149) j ∧ p < pastFinite fF32 ∧
    units fF32 p = j * 2 ^ 149 ∧ r = signed fF32 (negOf fF32 x) p ∧ fl = noFlags

/-- x − ⌊x⌋ rounded, then held at most 0x3F7F_FFFF, with NX where that changed it (07 R185). -/
def TakesFraction (rm : RMode) (z : Bool) (a r : Nat) (fl : FlagSet) : Prop :=
  let x := readAs fF32 z a
  if isNaN fF32 x then NotANumber fF32 false r fl
  else if isInf fF32 x then NotANumber fF32 true r fl
  else ∃ r' fl', RoundsFlushed fF32 rm z false (sideOf (valueOf fF32 x % 2 ^ 149).toNat 1) r' fl' ∧
    r = min r' 0x3F7FFFFF ∧ fl = { fl' with nx := fl'.nx || decide (0x3F7FFFFF < r') }

/-- What R185 fixes of an approximated function. `special` gives the results of special operands and the exact ones;
every other result sets NX, UF too where it is zero or subnormal, and meets `bound`; under FTZ a subnormal one is zero. -/
def Approximates (special : Nat → Option (Nat × FlagSet)) (bound : Nat → Nat → Prop) (z : Bool) (a r : Nat) (fl : FlagSet) : Prop :=
  let x := readAs fF32 z a
  if isNaN fF32 x then NotANumber fF32 false r fl
  else match special x with
    | some y => if z = true ∧ 0 < magOf fF32 y.1 ∧ magOf fF32 y.1 < 2 ^ 23 then
        r = signed fF32 (negOf fF32 y.1) 0 ∧ fl = { y.2 with
          uf := true
          nx := true }
      else r = y.1 ∧ fl = y.2
    | none => ∃ p, bound x p ∧
      fl = {
        nx := true
        uf := decide (magOf fF32 p < 2 ^ 23) } ∧
      r = if z = true ∧ magOf fF32 p < 2 ^ 23 then signed fF32 (negOf fF32 p) 0 else p

/-- The one power of two that a magnitude in units is, if it is one. -/
def powerOfTwo? (u : Nat) : Option Nat := if u = 2 ^ Nat.log2 u then some (Nat.log2 u) else none

/-- Special operands and exact results of `frsq`: 1/√(4^k) is 2^(−k). -/
def rootInverseExact (x : Nat) : Option (Nat × FlagSet) :=
  if magOf fF32 x = 0 then some (signed fF32 (negOf fF32 x) 0x7F800000, { dz := true })
  else if negOf fF32 x then some (0x7FC00000, { nv := true })
  else if isInf fF32 x then some (0, noFlags)
  else match powerOfTwo? (units fF32 x) with
    | some j => if j % 2 = 1 then some ((127 + 74 - j / 2) * 2 ^ 23, noFlags) else none
    | none => none

/-- `frsq` gives one of the two FP32 values around 1/√(u / 2^149), which is √(2^447 / u) units (07 R185). -/
def rootInverseBound (x r : Nat) : Prop :=
  ∃ p, p + 1 < pastFinite fF32 ∧ units fF32 p * units fF32 p * units fF32 x < 2 ^ 447 ∧
    2 ^ 447 < units fF32 (p + 1) * units fF32 (p + 1) * units fF32 x ∧ (r = p ∨ r = p + 1)

/-- Special operands and exact results of `fexp2`; results pastFinite FP32 are +Inf with OF and NX, or +0 with UF and NX. -/
def powerExact (x : Nat) : Option (Nat × FlagSet) :=
  if isInf fF32 x then some (if negOf fF32 x then 0 else 0x7F800000, noFlags)
  else
    let k := valueOf fF32 x / 2 ^ 149
    let whole := decide (valueOf fF32 x % 2 ^ 149 = 0)
    if 128 ≤ k then some (0x7F800000, { ovf := true, nx := true })
    else if k < -150 || (k == -150 && whole) then some (0, { uf := true, nx := true })
    else if whole then some (if k < -126 then 2 ^ (k + 149).toNat else (k + 127).toNat * 2 ^ 23, noFlags)
    else none

/-- `fexp2` lies between the powers of two of the integers around its operand. -/
def powerBound (x r : Nat) : Prop :=
  let k := (valueOf fF32 x / 2 ^ 149 + 149).toNat
  r < pastFinite fF32 ∧ (0 ≤ valueOf fF32 x / 2 ^ 149 + 149 → 2 ^ k ≤ units fF32 r ∧ units fF32 r ≤ 2 ^ (k + 1)) ∧
    (valueOf fF32 x / 2 ^ 149 + 149 < 0 → r ≤ 1)

/-- Special operands and exact results of `flog2`: of 2^k the number k. -/
def LogarithmExact (x : Nat) (y : Nat × FlagSet) : Prop :=
  if magOf fF32 x = 0 then y = (0xFF800000, { dz := true })
  else if negOf fF32 x then y = (0x7FC00000, { nv := true })
  else if isInf fF32 x then y = (0x7F800000, noFlags)
  else valueOf fF32 y.1 = ((Nat.log2 (units fF32 x) : Int) - 149) * 2 ^ 149 ∧ y.1 ≠ 0x80000000 ∧ isNaN fF32 y.1 = false ∧ y.2 = noFlags

/-- `flog2` lies between the integers around its exact value. -/
def logarithmBound (x r : Nat) : Prop :=
  let k := (Nat.log2 (units fF32 x) : Int) - 149
  isNaN fF32 r = false ∧ isInf fF32 r = false ∧ k * 2 ^ 149 ≤ valueOf fF32 r ∧ valueOf fF32 r ≤ (k + 1) * 2 ^ 149

/-- Special operands of `fsin` and `fcos`, whose value at ±0 is ±0 and 1. -/
def turnExact (cos : Bool) (x : Nat) : Option (Nat × FlagSet) :=
  if isInf fF32 x then some (0x7FC00000, { nv := true })
  else if magOf fF32 x = 0 then some (if cos then 0x3F800000 else x, noFlags)
  else none

/-- `fsin` and `fcos` of an operand above 2^20 lie in [−1, 1]. -/
def turnBound (x r : Nat) : Prop := 0x49800000 < magOf fF32 x → magOf fF32 r ≤ 0x3F800000

/-- Special operands of `ftanh`. -/
def tangentExact (x : Nat) : Option (Nat × FlagSet) :=
  if isInf fF32 x then some (signed fF32 (negOf fF32 x) 0x3F800000, noFlags)
  else if magOf fF32 x = 0 then some (x, noFlags)
  else none

/-- Special operands of `fsigm`. -/
def sigmoidExact (x : Nat) : Option (Nat × FlagSet) :=
  if isInf fF32 x then some (if negOf fF32 x then 0 else 0x3F800000, noFlags)
  else if magOf fF32 x = 0 then some (0x3F000000, noFlags)
  else none

/-- An instruction of major 0x19: FP64 on register pairs, never flushed (07 R188). -/
def DoubleGives (mk : Reg → Bool → Reg → Reg → Instr) (E : RMode → Nat → Nat → Nat → FlagSet → Prop) : Prop :=
  ∀ (d : Reg) (nw : Bool) (a b : Reg) (s : State),
    executes (pairNeed (mk d nw a b) d [a, nextReg a 1, b, nextReg b 1] []) s = true →
    ∃ t, ∃ g : Fin 32 → Nat × FlagSet, exec (mk d nw a b) s = .next t ∧
      (∀ th, activeIn s th = true → E (rounding s) (pairAt s a th).toNat (pairAt s b th).toNat (g th).1 (g th).2) ∧
      PairEffect (pairNeed (mk d nw a b) d [a, nextReg a 1, b, nextReg b 1] []) d nw
        (fun th => BitVec.ofNat 64 (g th).1) (raisedBy s (fun th => (g th).2)) s t

/-- The class of an FP32 pattern: the number of the one bit that `fclass` sets (07 R186). -/
def classOf (a : Word) : Nat :=
  let neg := a.getLsbD 31
  if a.extractLsb' 23 8 = 0xFF then
    (if a.extractLsb' 0 23 = 0 then (if neg then 0 else 7) else 8)
  else if a.extractLsb' 23 8 = 0 then
    (if a.extractLsb' 0 23 = 0 then (if neg then 3 else 4) else (if neg then 2 else 5))
  else (if neg then 1 else 6)

/-- The place of a number among all, ±0 at one place. -/
def rankOf (f : BinFmt) (x : Nat) : Int := if negOf f x then -(magOf f x : Int) else magOf f x

/-- A condition of `fcmp` (07 R187). -/
def floatCompares (f : BinFmt) (c : FCond) (x y : Nat) : Bool :=
  if isNaN f x || isNaN f y then c == .ne || c == .uno
  else match c with
    | .eq => decide (rankOf f x = rankOf f y)
    | .ne => decide (rankOf f x ≠ rankOf f y)
    | .lt => decide (rankOf f x < rankOf f y)
    | .le => decide (rankOf f x ≤ rankOf f y)
    | .gt => decide (rankOf f y < rankOf f x)
    | .ge => decide (rankOf f y ≤ rankOf f x)
    | .ord => true
    | .uno => false

/-! ### Conversions -/

/-- What an element stands for: n / d with a sign, ±Inf or NaN. -/
inductive Number where
  | nan
  | inf (neg : Bool)
  | real (neg : Bool) (n d : Nat)
  deriving DecidableEq, Repr

/-- A pattern of a binary format (05 R113): all but E4M3 keep Inf and NaN, where they have them, in the top exponent. -/
def binaryNumber (f : BinFmt) (x : Nat) : Number :=
  if magOf f x < pastFinite f then .real (negOf f x) (units f (magOf f x)) (2 ^ unitLog f)
  else if f.ieee && magOf f x == pastFinite f then .inf (negOf f x)
  else .nan

/-- The magnitude of a DM body of `w` bits above the marker alone: (1 + 9 f / 2^F) × 10^E (05 R115). -/
def decimalMag (w body : Nat) : Nat × Nat :=
  let z := zerosBefore ((List.range w).map (fun i => body.testBit (w - 1 - i)))
  let fBits := w - z - 2
  let n := 2 ^ fBits + 9 * (body % 2 ^ fBits)
  if body.testBit fBits then (n, 2 ^ fBits * 10 ^ (z + 1)) else (n * 10 ^ z, 2 ^ fBits)

/-- A DM pattern (05 R115). -/
def decimalNumber (w x : Nat) : Number :=
  let body := x % 2 ^ w
  let neg := x.testBit w
  if body = 0 then (if neg then .nan else .real false 0 1)
  else if body = 1 then .inf neg
  else .real neg (decimalMag w body).1 (decimalMag w body).2

/-- An integer. -/
def integerNumber (i : Int) : Number := .real (decide (i < 0)) i.natAbs 1

/-- What an element of a source format stands for, FP32, FP16 and BF16 subnormals flushed under FTZ (05 R113–R120, R127). -/
def standsFor (f : Fmt) (z : Bool) (x : Nat) : Number :=
  match f with
  | .dm8 => decimalNumber 7 x
  | .dm6 => decimalNumber 5 x
  | .dm4 => decimalNumber 3 x
  | .e5m2 => binaryNumber fE5M2 x
  | .e4m3 => binaryNumber fE4M3 x
  | .e3m2 => binaryNumber fE3M2 x
  | .e2m3 => binaryNumber fE2M3 x
  | .e2m1 => binaryNumber fE2M1 x
  | .f16 => binaryNumber fF16 (readAs fF16 z x)
  | .bf16 => binaryNumber fBF16 (readAs fBF16 z x)
  | .f32 => binaryNumber fF32 (readAs fF32 z x)
  | .i8 => integerNumber (BitVec.ofNat 8 x).toInt
  | .n8 => integerNumber (x % 256 : Nat)
  | .i4 => integerNumber (BitVec.ofNat 4 x).toInt
  | .acc => .nan

/-- Conversion to FP16, BF16 or FP32 (05 R126). -/
def ToFloat (f : BinFmt) (rm : RMode) (z : Bool) (x : Number) (r : Nat) (fl : FlagSet) : Prop :=
  match x with
  | .nan => NotANumber f false r fl
  | .inf neg => Infinite f neg r fl
  | .real neg n d => RoundsFlushed f rm z neg (sideOf (n * 2 ^ unitLog f) d) r fl

/-- A value that saturates (05 R126). -/
def saturated : FlagSet := { sat := true, nx := true }

/-- Conversion to an E format (05 R126): a magnitude above the largest finite one saturates in every mode. -/
def ToNarrow (f : BinFmt) (rm : RMode) (x : Number) (r : Nat) (fl : FlagSet) : Prop :=
  let largest := pastFinite f - 1
  match x with
  | .nan => if f.nan = 0 then r = 0 ∧ fl = { nv := true } else NotANumber f false r fl
  | .inf neg => if f.ieee then Infinite f neg r fl else r = signed f neg largest ∧ fl = saturated
  | .real neg n d =>
    if units f largest * d < n * 2 ^ unitLog f then r = signed f neg largest ∧ fl = saturated
    else Rounds f rm neg (sideOf (n * 2 ^ unitLog f) d) r fl

/-- The distance of n / d from a DM magnitude, as a fraction. -/
def apart (n d : Nat) (m : Nat × Nat) : Nat × Nat := (((m.1 * d : Nat) - (n * m.2 : Nat) : Int).natAbs, m.2 * d)

/-- Whether a fraction is below another. -/
def less (x y : Nat × Nat) : Prop := x.1 * y.2 < y.1 * x.2

/-- The magnitude of a body or, of 0, zero. -/
def bodyMag (w b : Nat) : Nat × Nat := if b = 0 then (0, 1) else decimalMag w b

/-- Whether a body is 0 or finite. -/
def finiteBody (w b : Nat) : Prop := b < 2 ^ w ∧ b ≠ 1

/-- The DM body that n / d is rounded to: nearest even gives the nearest, of two as near the one with bit 0 clear; the other
modes the nearest in their direction (05 R119). -/
def RoundsToBody (w : Nat) (rm : RMode) (neg : Bool) (n d b : Nat) : Prop :=
  let towardZero := match rm with
    | .z => true
    | .dn => !neg
    | .up => neg
    | .ne => false
  finiteBody w b ∧
    if rm = .ne then
      ∀ c, finiteBody w c → c ≠ b →
        less (apart n d (bodyMag w b)) (apart n d (bodyMag w c)) ∨
          (¬ less (apart n d (bodyMag w c)) (apart n d (bodyMag w b)) ∧ b % 2 = 0)
    else if towardZero then
      ¬ less (n, d) (bodyMag w b) ∧ ∀ c, finiteBody w c → ¬ less (n, d) (bodyMag w c) → ¬ less (bodyMag w b) (bodyMag w c)
    else
      ¬ less (bodyMag w b) (n, d) ∧ ∀ c, finiteBody w c → ¬ less (bodyMag w c) (n, d) → ¬ less (bodyMag w c) (bodyMag w b)

/-- Conversion to a DM format of a body of `w` bits (05 R119, R126): the largest finite magnitude is 10^(w − 2). -/
def ToDecimal (w : Nat) (rm : RMode) (x : Number) (r : Nat) (fl : FlagSet) : Prop :=
  match x with
  | .nan => r = 2 ^ w ∧ fl = noFlags
  | .inf neg => r = (if neg then 2 ^ w else 0) + 1 ∧ fl = noFlags
  | .real neg n d =>
    if 10 ^ (w - 2) * d < n then r = (if neg then 2 ^ w else 0) + 2 ∧ fl = saturated
    else ∃ b, RoundsToBody w rm neg n d b ∧ r = (if b = 0 then 0 else (if neg then 2 ^ w else 0) + b) ∧
      fl = {
        uf := decide (n ≠ 0) && b == 0
        nx := decide ((bodyMag w b).1 * d ≠ n * (bodyMag w b).2) }

/-- Conversion to an integer of `[lo, hi]` (05 R126; 07 R190). -/
def ToInteger (lo hi : Int) (rm : RMode) (x : Number) (r : Int) (fl : FlagSet) : Prop :=
  match x with
  | .nan => r = 0 ∧ fl = { nv := true }
  | .inf neg => r = (if neg then lo else hi) ∧ fl = saturated
  | .real neg n d => ∃ j, Integral rm neg n d j ∧
    let i : Int := if neg then -(j : Int) else j
    if i < lo then r = lo ∧ fl = saturated
    else if hi < i then r = hi ∧ fl = saturated
    else r = i ∧ fl = { nx := decide (n % d ≠ 0) }

/-- Conversion to a target format (05 R126, R127). -/
def Converts (dst : Fmt) (rm : RMode) (z : Bool) (x : Number) (r : Nat) (fl : FlagSet) : Prop :=
  match dst with
  | .dm8 => ToDecimal 7 rm x r fl
  | .dm6 => ToDecimal 5 rm x r fl
  | .dm4 => ToDecimal 3 rm x r fl
  | .e5m2 => ToNarrow fE5M2 rm x r fl
  | .e4m3 => ToNarrow fE4M3 rm x r fl
  | .e3m2 => ToNarrow fE3M2 rm x r fl
  | .e2m3 => ToNarrow fE2M3 rm x r fl
  | .e2m1 => ToNarrow fE2M1 rm x r fl
  | .f16 => ToFloat fF16 rm z x r fl
  | .bf16 => ToFloat fBF16 rm z x r fl
  | .f32 => ToFloat fF32 rm z x r fl
  | .i8 => ∃ i, ToInteger (-128) 127 rm x i fl ∧ r = (BitVec.ofInt 8 i).toNat
  | .n8 => ∃ i, ToInteger 0 255 rm x i fl ∧ r = (BitVec.ofInt 8 i).toNat
  | .i4 => ∃ i, ToInteger (-8) 7 rm x i fl ∧ r = (BitVec.ofInt 4 i).toNat
  | .acc => r = 0 ∧ fl = noFlags

/-- The element at a position of a word (02 R33). -/
def elementAt (f : Fmt) (p : Nat) (x : Word) : Nat := if f = .f32 then x.toNat else getPos f p x

/-- A word with its element at a position replaced; a 6-bit element fills its byte (07 R189). -/
def elementPut (f : Fmt) (p : Nat) (old : Word) (v : Nat) : Word := if f = .f32 then BitVec.ofNat 32 v else setPos f p old v

/-! ### Forms of statements about threads -/

/-- An instruction with a vector result `f` that raises the flags `fl`. -/
def FloatEffect' (i : Instr) (d : Reg) (nw : Bool) (sels : List Sel) (f : Fin 32 → Nat) (fl : FlagSet) (s : State) :
    Prop :=
  ∃ t, exec i s = .next t ∧ VecEffect (vecNeed i d sels) d nw (fun th => BitVec.ofNat 32 (f th)) fl.word s t

/-- The operand of a thread that its sum passes through alone: a NaN as the canonical one, a subnormal flushed (05 R114, R127). -/
def passedThrough (s : State) (w : Word) : Nat :=
  if isNaN fF32 w.toNat then 0x7FC00000 else readAs fF32 (flushing s) w.toNat

/-- A tree of `red.fadd`: of two present nodes their rounded sum, of one that one; the flags of every rounding are merged
(07 R197). `v` and `fl` give the nodes at each level above the leaves. -/
def SumTree (s : State) (x : Fin 32 → Word) (v : Nat → Nat → Option Nat) (fl : Nat → Nat → FlagSet) : Prop :=
  (∀ th : Fin 32, v 0 th.val = (if activeIn s th then some (passedThrough s (x th)) else none) ∧ fl 0 th.val = noFlags) ∧
  ∀ n i, n < 5 → i < 2 ^ (4 - n) →
    match v n (2 * i), v n (2 * i + 1) with
    | some p, some q => ∃ r g, Adds false fF32 (rounding s) (flushing s) p q r g ∧ v (n + 1) i = some r ∧
      fl (n + 1) i = ((fl n (2 * i)).join (fl n (2 * i + 1))).join g
    | some p, none => v (n + 1) i = some p ∧ fl (n + 1) i = (fl n (2 * i)).join (fl n (2 * i + 1))
    | none, q => v (n + 1) i = q ∧ fl (n + 1) i = (fl n (2 * i)).join (fl n (2 * i + 1))

/-- Sums from the first value on, each rounded (07 R198): `v` and `fl` give the sum and the flags of the first n + 1. -/
def RunningSum (s : State) (l : List Word) (v : Nat → Nat) (fl : Nat → FlagSet) : Prop :=
  v 0 = passedThrough s (l.getD 0 0) ∧ fl 0 = noFlags ∧
  ∀ n, n + 1 < l.length → ∃ g, Adds false fF32 (rounding s) (flushing s) (v n) (l.getD (n + 1) 0).toNat (v (n + 1)) g ∧
    fl (n + 1) = (fl n).join g

/-- An instruction of one selector whose value in a thread is `f` of the state and of the operand in every thread. -/
def GathersOne (mk : Reg → Bool → Sel → Instr) (f : State → (Fin 32 → Word) → Fin 32 → Word) : Prop :=
  ∀ (d : Reg) (nw : Bool) (a : Sel) (s : State), executes (vecNeed (mk d nw a) d [a]) s = true →
    ∃ t, exec (mk d nw a) s = .next t ∧
      VecEffect (vecNeed (mk d nw a) d [a]) d nw (fun th => f s (operand s [a] 0) th) 0 s t

/-- The same of an instruction of two selectors. -/
def GathersTwo (mk : Reg → Bool → Sel → Sel → Instr)
    (f : State → (Fin 32 → Word) → (Fin 32 → Word) → Fin 32 → Word) : Prop :=
  ∀ (d : Reg) (nw : Bool) (a b : Sel) (s : State), executes (vecNeed (mk d nw a b) d [a, b]) s = true →
    ∃ t, exec (mk d nw a b) s = .next t ∧
      VecEffect (vecNeed (mk d nw a b) d [a, b]) d nw
        (fun th => f s (operand s [a, b] 0) (operand s [a, b] 1) th) 0 s t

/-- The operands of the active threads at or below a thread, in ascending order. -/
def upTo (s : State) (v : Fin 32 → Word) (th : Fin 32) : List Word :=
  ((List.finRange 32).filter (fun u => activeIn s u && decide (u ≤ th))).map v

/-- The operands of the active threads in ascending order. -/
def actives (s : State) (v : Fin 32 → Word) : List Word := upTo s v 31

/-- The sum of words modulo 2^32. -/
def sumWords (l : List Word) : Word := l.foldl (fun x y => x + y) 0

/-- The tag of a result that 02 R28 gives U when every source is U and G otherwise. -/
def plainTag (vals : List RegVal) : Nat := if vals.all RegVal.isU then 0 else 2

/-- The tag that a result leaves (02 R28, R30): under a full mask `tag`, under a partial one G; in d unless NW holds it back, and in
the latch of the instruction while its clause goes on. -/
def TakesTag (n : Need) (d : Reg) (nw : Bool) (tag : Nat) (s t : State) : Prop :=
  let left := if s.me.cur.mask = BitVec.allOnes 32 then tag else 2
  (nw = false → (reg t d).tagNo = left) ∧
  (s.me.cur.widx + n.words.length ≤ clauseLen s.me.cur.head →
    (vget t.me.cur.latches (s.me.cur.k % 4) (.u 0)).tagNo = left)

/-- An instruction with a vector result, of these selectors, leaves the tag that `f` gives of the state and the operands' values. -/
def Tags (i : Instr) (d : Reg) (nw : Bool) (sels : List Sel) (f : State → List RegVal → Nat) : Prop :=
  ∀ s : State, executes (vecNeed i d sels) s = true →
    ∃ t, exec i s = .next t ∧ TakesTag (vecNeed i d sels) d nw (f s (selVals s [] sels)) s t

/-- Each of some instructions of one selector. -/
def TagsOne (l : List (Reg → Bool → Sel → Instr)) (f : State → List RegVal → Nat) : Prop :=
  ∀ mk ∈ l, ∀ d nw a, Tags (mk d nw a) d nw [a] f

/-- Each of some instructions of two selectors. -/
def TagsTwo (l : List (Reg → Bool → Sel → Sel → Instr)) (f : State → List RegVal → Nat) : Prop :=
  ∀ mk ∈ l, ∀ d nw a b, Tags (mk d nw a b) d nw [a, b] f

/-- Each of some instructions of three selectors. -/
def TagsThree (l : List (Reg → Bool → Sel → Sel → Sel → Instr)) (f : State → List RegVal → Nat) : Prop :=
  ∀ mk ∈ l, ∀ d nw a b c, Tags (mk d nw a b c) d nw [a, b, c] f

/-- An instruction with a pair result of these registers and selectors: both registers take the tag, U when every source is U and
G otherwise; the latch takes the low register's. -/
def TagsPair (i : Instr) (d : Reg) (nw : Bool) (regs : List Reg) (sels : List Sel) : Prop :=
  ∀ s : State, executes (pairNeed i d regs sels) s = true →
    ∃ t, exec i s = .next t ∧
      let tag := plainTag (regs.map (reg s) ++ selVals s [] sels)
      TakesTag (pairNeed i d regs sels) d nw tag s t ∧
      (nw = false → (reg t (nextReg d 1)).tagNo = if s.me.cur.mask = BitVec.allOnes 32 then tag else 2)

/-- The rows of 02 R28 for `iadd` and `isub`: A with A, or A with U, is A; then U of U, else G. -/
def sumTag (x y : RegVal) : Nat :=
  if x.tagNo = 2 ∨ y.tagNo = 2 then 2 else if x.tagNo = 1 ∨ y.tagNo = 1 then 1 else 0

end Sys2Proof.Claims

open Sys2Proof Sys2Proof.Machine Sys2Proof.Claims

/-! ### Integer instructions -/

/-- 07 R172: the arithmetic rows of major 0x01. -/
def Obligations.IntegerArithmetic : Prop :=
  BinaryGives Instr.iadd (fun a b => BitVec.ofNat 32 (a.toNat + b.toNat)) ∧
  BinaryGives Instr.isub (fun a b => BitVec.ofInt 32 (a.toInt - b.toInt)) ∧
  BinaryGives Instr.imul (fun a b => BitVec.ofNat 32 (a.toNat * b.toNat)) ∧
  BinaryGives Instr.imulh (fun a b => BitVec.ofInt 32 (a.toInt * b.toInt / 2 ^ 32)) ∧
  BinaryGives Instr.nmulh (fun a b => BitVec.ofNat 32 (a.toNat * b.toNat / 2 ^ 32)) ∧
  BinaryGives Instr.iaddc (fun a b => if 2 ^ 32 ≤ a.toNat + b.toNat then 1 else 0) ∧
  BinaryGives Instr.isubb (fun a b => if a.toNat < b.toNat then 1 else 0) ∧
  BinaryGives Instr.imin (fun a b => BitVec.ofInt 32 (min a.toInt b.toInt)) ∧
  BinaryGives Instr.imax (fun a b => BitVec.ofInt 32 (max a.toInt b.toInt)) ∧
  BinaryGives Instr.nmin (fun a b => BitVec.ofNat 32 (min a.toNat b.toNat)) ∧
  BinaryGives Instr.nmax (fun a b => BitVec.ofNat 32 (max a.toNat b.toNat)) ∧
  BinaryGives Instr.iabsd (fun a b => BitVec.ofNat 32 (a.toInt - b.toInt).natAbs)

/-- 07 R172, R173, R174: the bitwise, shift, field and byte rows of major 0x01. -/
def Obligations.IntegerBits : Prop :=
  BinaryGives Instr.and (fun a b => a &&& b) ∧
  BinaryGives Instr.or (fun a b => a ||| b) ∧
  BinaryGives Instr.xor (fun a b => a ^^^ b) ∧
  BinaryGives Instr.andn (fun a b => a &&& ~~~b) ∧
  BinaryGives Instr.shl (fun a b => if 32 ≤ b.toNat then 0 else BitVec.ofNat 32 (a.toNat * 2 ^ b.toNat)) ∧
  BinaryGives Instr.shr (fun a b => if 32 ≤ b.toNat then 0 else BitVec.ofNat 32 (a.toNat / 2 ^ b.toNat)) ∧
  BinaryGives Instr.sar (fun a b =>
    if 32 ≤ b.toNat then (if 0 ≤ a.toInt then 0 else 0xFFFFFFFF) else BitVec.ofInt 32 (a.toInt / 2 ^ b.toNat)) ∧
  BinaryGives Instr.rotl (fun a b => a.rotateLeft (b.toNat % 32)) ∧
  BinaryGives Instr.bfx (fun a b => ((a >>> (bitField b).1).setWidth (bitField b).2).setWidth 32) ∧
  BinaryGives Instr.bfxs (fun a b => ((a >>> (bitField b).1).setWidth (bitField b).2).signExtend 32) ∧
  BinaryGives Instr.perm (fun a b =>
    permuted a (b.extractLsb' 12 4) ++ permuted a (b.extractLsb' 8 4) ++ permuted a (b.extractLsb' 4 4)
      ++ permuted a (b.extractLsb' 0 4))

/-- 07 R175: the rows of major 0x02. -/
def Obligations.IntegerUnary : Prop :=
  UnaryGives Instr.ineg (fun a => BitVec.ofInt 32 (-a.toInt)) ∧
  UnaryGives Instr.iabs (fun a => BitVec.ofNat 32 a.toInt.natAbs) ∧
  UnaryGives Instr.not (fun a => BitVec.ofNat 32 (2 ^ 32 - 1 - a.toNat)) ∧
  UnaryGives Instr.popc (fun a => BitVec.ofNat 32 ((bitsUp a).filter id).length) ∧
  UnaryGives Instr.clz (fun a => BitVec.ofNat 32 (zerosBefore (bitsUp a).reverse)) ∧
  UnaryGives Instr.ctz (fun a => BitVec.ofNat 32 (zerosBefore (bitsUp a))) ∧
  UnaryGives Instr.brev (fun a => maskOf (fun i => a.getLsbD (31 - i.val))) ∧
  UnaryGives Instr.sext8 (fun a => (a.extractLsb' 0 8).signExtend 32) ∧
  UnaryGives Instr.sext16 (fun a => (a.extractLsb' 0 16).signExtend 32) ∧
  UnaryGives Instr.zext8 (fun a => BitVec.ofNat 32 (a.toNat % 2 ^ 8)) ∧
  UnaryGives Instr.zext16 (fun a => BitVec.ofNat 32 (a.toNat % 2 ^ 16)) ∧
  UnaryGives Instr.bswap (fun a => a.extractLsb' 0 8 ++ a.extractLsb' 8 8 ++ a.extractLsb' 16 8 ++ a.extractLsb' 24 8)

/-- 07 R173, R176–R178: `bfi`, `imad`, `sel`, `lea`, the immediate forms and literals. -/
def Obligations.IntegerThreeAndImmediate : Prop :=
  TernaryGives Instr.imad (fun a b c => BitVec.ofNat 32 (a.toNat * b.toNat + c.toNat)) ∧
  TernaryGives Instr.bfi (fun a b c => maskOf (fun i =>
    if (bitField c).1 ≤ i.val ∧ i.val < (bitField c).1 + (bitField c).2 then b.getLsbD (i.val - (bitField c).1)
    else a.getLsbD i.val)) ∧
  (∀ (d : Reg) (nw : Bool) (a b : Sel) (p : PredNo) (s : State),
    executes (vecNeed (.sel d nw a b p) d [a, b]) s = true →
    ∃ t, exec (.sel d nw a b p) s = .next t ∧
      VecEffect (vecNeed (.sel d nw a b p) d [a, b]) d nw
        (fun th => if p = 7 ∨ (predMask s p).getLsbD th.val = true then operand s [a, b] 0 th else operand s [a, b] 1 th)
        0 s t) ∧
  (∀ (d : Reg) (nw : Bool) (a b : Sel) (sh : BitVec 3) (s : State),
    executes (vecNeed (.lea d nw a b sh) d [a, b]) s = true →
    ∃ t, exec (.lea d nw a b sh) s = .next t ∧
      VecEffect (vecNeed (.lea d nw a b sh) d [a, b]) d nw
        (fun th => BitVec.ofNat 32 ((operand s [a, b] 0 th).toNat + (operand s [a, b] 1 th).toNat * 2 ^ sh.toNat)) 0 s t) ∧
  ImmediateGives Instr.iaddi (fun a imm => a + imm) ∧
  ImmediateGives Instr.andi (fun a imm => a &&& imm) ∧
  ImmediateGives Instr.ori (fun a imm => a ||| imm) ∧
  ImmediateGives Instr.xori (fun a imm => a ^^^ imm) ∧
  (∀ (d : Reg) (nw : Bool) (imm : BitVec 12) (s : State), executes (vecNeed (.movi d nw imm) d []) s = true →
    ∃ t, exec (.movi d nw imm) s = .next t ∧
      VecEffect (vecNeed (.movi d nw imm) d []) d nw (fun _ => imm.signExtend 32) 0 s t) ∧
  (∀ (d : Reg) (nw : Bool) (value : Word) (s : State), executes (vecNeed (.lit d nw value) d []) s = true →
    ∃ t, exec (.lit d nw value) s = .next t ∧
      VecEffect (vecNeed (.lit d nw value) d []) d nw (fun _ => value) 0 s t)

/-- 07 R178, R180: the instructions of major 0x0E and `lea.64`, on register pairs. -/
def Obligations.IntegerPairs : Prop :=
  PairGives Instr.iadd64 (fun a b => BitVec.ofNat 64 (a.toNat + b.toNat)) ∧
  PairGives Instr.isub64 (fun a b => BitVec.ofInt 64 (a.toInt - b.toInt)) ∧
  PairGives Instr.shl64 (fun a b => if 64 ≤ b.toNat then 0 else BitVec.ofNat 64 (a.toNat * 2 ^ b.toNat)) ∧
  PairGives Instr.shr64 (fun a b => if 64 ≤ b.toNat then 0 else BitVec.ofNat 64 (a.toNat / 2 ^ b.toNat)) ∧
  PairGives Instr.sar64 (fun a b =>
    if 64 ≤ b.toNat then (if 0 ≤ a.toInt then 0 else 0xFFFFFFFFFFFFFFFF) else BitVec.ofInt 64 (a.toInt / 2 ^ b.toNat)) ∧
  PairGives Instr.imul64 (fun a b => BitVec.ofNat 64 (a.toNat * b.toNat)) ∧
  WideGives Instr.mulw (fun a b => BitVec.ofInt 64 (a.toInt * b.toInt)) ∧
  WideGives Instr.nmulw (fun a b => BitVec.ofNat 64 (a.toNat * b.toNat)) ∧
  (∀ (d : Reg) (nw : Bool) (a : Reg) (b : Sel) (sh : BitVec 3) (s : State),
    executes (pairNeed (.lea64 d nw a b sh) d [a, nextReg a 1] [b]) s = true →
    ∃ t, exec (.lea64 d nw a b sh) s = .next t ∧
      PairEffect (pairNeed (.lea64 d nw a b sh) d [a, nextReg a 1] [b]) d nw
        (fun th => BitVec.ofNat 64 ((pairAt s a th).toNat + (operand s [b] 0 th).toNat * 2 ^ sh.toNat)) 0 s t)

/-- 07 R179, R181, R182: integer compares and the predicate instructions. -/
def Obligations.ComparesAndPredicates : Prop :=
  (∀ (pd : PredNo) (cmb : Combine) (a b : Sel) (cond : Cond) (s : State),
    (executes (predNeed (.icmp pd cmb a b cond) [] [a, b]) s = true →
      ∃ t, exec (.icmp pd cmb a b cond) s = .next t ∧
        PredEffect (predNeed (.icmp pd cmb a b cond) [] [a, b]) pd
          (fun th => combineBit cmb ((predMask s pd).getLsbD th.val)
            (ordered cond (operand s [a, b] 0 th).toInt (operand s [a, b] 1 th).toInt)) s t) ∧
    (executes (predNeed (.ncmp pd cmb a b cond) [] [a, b]) s = true →
      ∃ t, exec (.ncmp pd cmb a b cond) s = .next t ∧
        PredEffect (predNeed (.ncmp pd cmb a b cond) [] [a, b]) pd
          (fun th => combineBit cmb ((predMask s pd).getLsbD th.val)
            (ordered cond (operand s [a, b] 0 th).toNat (operand s [a, b] 1 th).toNat)) s t)) ∧
  PredicatesGive Instr.pand (fun x y => x && y) ∧
  PredicatesGive Instr.por (fun x y => x || y) ∧
  PredicatesGive Instr.pxor (fun x y => x != y) ∧
  PredicatesGive Instr.pandn (fun x y => x && !y) ∧
  (∀ (pd pa : PredNo) (s : State), executes (predNeed (.pnot pd pa) [] []) s = true →
    ∃ t, exec (.pnot pd pa) s = .next t ∧
      PredEffect (predNeed (.pnot pd pa) [] []) pd (fun th => !(predMask s pa).getLsbD th.val) s t) ∧
  (∀ (pd : PredNo) (a : Sel) (s : State), executes (predNeed (.ptest pd a) [] [a]) s = true →
    ∃ t, exec (.ptest pd a) s = .next t ∧
      PredEffect (predNeed (.ptest pd a) [] [a]) pd (fun th => operand s [a] 0 th != 0) s t) ∧
  (∀ (d : Reg) (nw : Bool) (pa : PredNo) (s : State), executes (vecNeed (.pget d nw pa) d []) s = true →
    ∃ t, exec (.pget d nw pa) s = .next t ∧
      VecEffect (vecNeed (.pget d nw pa) d []) d nw (fun th => if (predMask s pa).getLsbD th.val then 1 else 0) 0 s t)

/-- 02 R28, R30; 07 R170: the tags of the results that are computed in registers, and of the selectors; under a partial mask every
result is G. Those of loads are with the loads. -/
def Obligations.ResultTags : Prop :=
  let x := fun (v : List RegVal) => v.getD 0 (.u 0)
  let y := fun (v : List RegVal) => v.getD 1 (.u 0)
  TagsOne [Instr.mov] (fun _ v => (x v).tagNo) ∧
  (∀ imm, TagsOne [fun d nw a => Instr.iaddi d nw a imm] (fun _ v => (x v).tagNo)) ∧
  TagsTwo [Instr.saff] (fun _ _ => 1) ∧
  TagsOne [Instr.sgen, Instr.scanAdd, Instr.scanFadd] (fun _ _ => 2) ∧
  TagsTwo [Instr.xchGet, Instr.xchFlip, Instr.xchRot, Instr.xchLag] (fun _ _ => 2) ∧
  TagsTwo [Instr.sbcast] (fun _ _ => 0) ∧
  TagsOne [Instr.stag, Instr.ballot, Instr.allnz, Instr.anynz, Instr.redAdd, Instr.redFadd, Instr.redMin, Instr.redMax]
    (fun _ _ => 0) ∧
  (∀ d nw imm, Tags (.movi d nw imm) d nw [] (fun _ _ => 0)) ∧
  (∀ d nw value, Tags (.lit d nw value) d nw [] (fun _ _ => 0)) ∧
  TagsTwo [Instr.iadd, Instr.isub] (fun _ v => sumTag (x v) (y v)) ∧
  TagsTwo [Instr.imul] (fun _ v => if (x v).tagNo + (y v).tagNo = 1 then 1 else plainTag v) ∧
  TagsTwo [Instr.shl] (fun _ v => if (x v).tagNo = 1 ∧ (y v).tagNo = 0 then 1 else plainTag v) ∧
  (∀ sh, TagsTwo [fun d nw a b => Instr.lea d nw a b sh] (fun _ v => sumTag (x v) (y v))) ∧
  TagsTwo [Instr.imulh, Instr.nmulh, Instr.iaddc, Instr.isubb, Instr.imin, Instr.imax, Instr.nmin, Instr.nmax]
    (fun _ v => plainTag v) ∧
  TagsTwo [Instr.and, Instr.or, Instr.xor, Instr.andn, Instr.shr, Instr.sar, Instr.rotl, Instr.bfx, Instr.bfxs, Instr.perm,
    Instr.iabsd] (fun _ v => plainTag v) ∧
  TagsOne [Instr.ineg, Instr.iabs, Instr.not, Instr.popc, Instr.clz, Instr.ctz, Instr.brev, Instr.sext8, Instr.sext16,
    Instr.zext8, Instr.zext16, Instr.bswap] (fun _ v => plainTag v) ∧
  (∀ imm, TagsOne [fun d nw a => Instr.andi d nw a imm, fun d nw a => Instr.ori d nw a imm, fun d nw a => Instr.xori d nw a imm]
    (fun _ v => plainTag v)) ∧
  TagsThree [Instr.imad, Instr.bfi, Instr.ffma, Instr.hfma, Instr.bfma] (fun _ v => plainTag v) ∧
  (∀ p, TagsTwo [fun d nw a b => Instr.sel d nw a b p] (fun _ v => if p = 7 then plainTag v else 2)) ∧
  (∀ d nw, Tags (.xmrd d nw) d nw [] (fun _ _ => 0)) ∧
  (∀ d nw pa, Tags (.pget d nw pa) d nw [] (fun _ _ => 2)) ∧
  (∀ ty, TagsTwo [fun d nw a b => Instr.fadd d nw a b ty, fun d nw a b => .fsub d nw a b ty, fun d nw a b => .fmul d nw a b ty,
    fun d nw a b => .fmin d nw a b ty, fun d nw a b => .fmax d nw a b ty, fun d nw a b => .fscale d nw a b ty,
    fun d nw a b => .fcopysign d nw a b ty, fun d nw a b => .fabsd d nw a b ty] (fun _ v => plainTag v)) ∧
  TagsOne [Instr.fneg, Instr.fabs, Instr.frcp, Instr.frsq, Instr.fsqrt, Instr.fexp2, Instr.flog2, Instr.fsin, Instr.fcos,
    Instr.ftanh, Instr.fsigm] (fun _ v => plainTag v) ∧
  TagsOne [Instr.frndNe, Instr.frndZ, Instr.frndDn, Instr.frndUp, Instr.fclass, Instr.ffract] (fun _ v => plainTag v) ∧
  (∀ d nw a src dst rm pos, src ≠ .acc → dst ≠ .acc → Tags (.fcvt d nw a src dst rm pos) d nw [a]
    (fun s v => plainTag (if src = dst ∨ dst = .f32 then v else v ++ [reg s d]))) ∧
  (∀ d nw a src pos, src ≠ .acc → Tags (.funpk d nw a src pos) d nw [a] (fun _ v => plainTag v)) ∧
  (∀ d nw a b dst high, dst ≠ .acc → dst ≠ .f32 → Tags (.fpack d nw a b dst high) d nw [a, b]
    (fun s v => plainTag (if dst = .f16 ∨ dst = .bf16 then v else v ++ [reg s d]))) ∧
  (∀ mk ∈ [Instr.iadd64, Instr.isub64, Instr.shl64, Instr.shr64, Instr.sar64, Instr.imul64, Instr.dadd, Instr.dsub, Instr.dmul,
      Instr.dmin, Instr.dmax],
    ∀ d nw a b, TagsPair (mk d nw a b) d nw [a, nextReg a 1, b, nextReg b 1] []) ∧
  (∀ mk ∈ [Instr.mulw, Instr.nmulw], ∀ d nw a b, TagsPair (mk d nw a b) d nw [a, b] []) ∧
  (∀ d nw a b sh, TagsPair (.lea64 d nw a b sh) d nw [a, nextReg a 1] [b]) ∧
  (∀ d nw a b c, TagsPair (.dfma d nw a b c) d nw [a, nextReg a 1, b, nextReg b 1, c, nextReg c 1] []) ∧
  (∀ (s : State) (a : Sel),
    let tag := (x (selVals s [] [a])).tagNo
    match a with
    | .reg r => tag = (reg s r).tagNo
    | .latch n => tag = (vget s.me.cur.latches n.toNat (.u 0)).tagNo
    | .tid => tag = 1
    | _ => tag = 0)

/-! ### Floating point -/

/-- 07 R183, R184; 05 R113, R114, R125, R127, R128: the arithmetic of major 0x10 and the fused multiply-adds. The exact result,
in units of the format's smallest subnormal, is rounded once under RM to one of the two values around it; NaN and Inf
operands, NV, OF, UF, NX and FTZ; `fmin`, `fmax` and `fcopysign` set no flag. -/
def Obligations.FloatArithmetic : Prop :=
  TypedGives Instr.fadd (Adds false) ∧
  TypedGives Instr.fsub (Adds true) ∧
  TypedGives Instr.fmul Multiplies ∧
  TypedGives Instr.fscale Scales ∧
  TypedGives Instr.fabsd Separates ∧
  FusedGives Instr.ffma .f32 ∧ FusedGives Instr.hfma .f16x2 ∧ FusedGives Instr.bfma .bf16x2 ∧
  TypedGives Instr.fmin (fun f _ z => Selects false f z) ∧
  TypedGives Instr.fmax (fun f _ z => Selects true f z) ∧
  TypedGives Instr.fcopysign (fun f _ _ => TakesSign f)

/-- 07 R185, R186: the sign operations and the class mask, which read their operand unflushed, and the rows that are exact or
rounded under RM. -/
def Obligations.FloatUnary : Prop :=
  FloatUnaryGives Instr.fneg (fun _ _ a r fl => r = a ^^^ 2 ^ 31 ∧ fl = noFlags) ∧
  FloatUnaryGives Instr.fabs (fun _ _ a r fl => r = a % 2 ^ 31 ∧ fl = noFlags) ∧
  FloatUnaryGives Instr.fclass (fun _ _ a r fl => r = 2 ^ classOf (BitVec.ofNat 32 a) ∧ fl = noFlags) ∧
  FloatUnaryGives Instr.frcp Inverts ∧
  FloatUnaryGives Instr.fsqrt TakesRoot ∧
  FloatUnaryGives Instr.frndNe (fun _ => MakesIntegral .ne) ∧
  FloatUnaryGives Instr.frndZ (fun _ => MakesIntegral .z) ∧
  FloatUnaryGives Instr.frndDn (fun _ => MakesIntegral .dn) ∧
  FloatUnaryGives Instr.frndUp (fun _ => MakesIntegral .up) ∧
  FloatUnaryGives Instr.ffract TakesFraction

/-- 07 R185: of the approximated functions the special operands, the exact results and the flags; `frsq` is one of the two FP32
values around the exact one; `fexp2` and `flog2` lie between the exact results around them; `fsin` and `fcos` of an
operand above 2^20 lie in [−1, 1]. Which value is delivered is free (log 8). -/
def Obligations.FloatApproximated : Prop :=
  FloatUnaryGives Instr.frsq (fun _ => Approximates rootInverseExact rootInverseBound) ∧
  FloatUnaryGives Instr.fexp2 (fun _ => Approximates powerExact powerBound) ∧
  FloatUnaryGives Instr.flog2 (fun _ z a r fl => ∃ y,
    (magOf fF32 (readAs fF32 z a) ≤ pastFinite fF32 → LogarithmExact (readAs fF32 z a) y) ∧
    Approximates (fun x => if (powerOfTwo? (units fF32 (magOf fF32 x))).isSome || magOf fF32 x == 0 || negOf fF32 x || isInf fF32 x
      then some y else none) logarithmBound z a r fl) ∧
  FloatUnaryGives Instr.fsin (fun _ => Approximates (turnExact false) turnBound) ∧
  FloatUnaryGives Instr.fcos (fun _ => Approximates (turnExact true) turnBound) ∧
  FloatUnaryGives Instr.ftanh (fun _ => Approximates tangentExact (fun _ _ => True)) ∧
  FloatUnaryGives Instr.fsigm (fun _ => Approximates sigmoidExact (fun _ _ => True))

/-- 07 R187: FP32 and FP64 compares. A NaN leaves `ne` and `uno` alone true, −0 equals +0, no flag is set; FTZ applies to the
FP32 form. Model's choices: the pairs of `fcmp.f64` (log 48). -/
def Obligations.FloatCompares : Prop :=
  (∀ (pd : PredNo) (cmb : Combine) (a b : Sel) (cond : FCond) (s : State),
    executes (predNeed (.fcmp pd cmb a b cond) [] [a, b]) s = true →
      ∃ t, exec (.fcmp pd cmb a b cond) s = .next t ∧
        PredEffect (predNeed (.fcmp pd cmb a b cond) [] [a, b]) pd
          (fun th => combineBit cmb ((predMask s pd).getLsbD th.val)
            (floatCompares fF32 cond (readAs fF32 (flushing s) (operand s [a, b] 0 th).toNat)
              (readAs fF32 (flushing s) (operand s [a, b] 1 th).toNat))) s t) ∧
  (∀ (pd : PredNo) (cmb : Combine) (a b : Reg) (cond : FCond) (s : State),
    executes (predNeed (.fcmpF64 pd cmb a b cond) [a, nextReg a 1, b, nextReg b 1] []) s = true →
      ∃ t, exec (.fcmpF64 pd cmb a b cond) s = .next t ∧
        PredEffect (predNeed (.fcmpF64 pd cmb a b cond) [a, nextReg a 1, b, nextReg b 1] []) pd
          (fun th => combineBit cmb ((predMask s pd).getLsbD th.val)
            (floatCompares fF64 cond (pairAt s a th).toNat (pairAt s b th).toNat)) s t)

/-- 07 R188: FP64 on register pairs, as R183, R184 and R128 say, rounded under RM and never flushed. -/
def Obligations.FloatDouble : Prop :=
  DoubleGives Instr.dadd (fun rm => Adds false fF64 rm false) ∧
  DoubleGives Instr.dsub (fun rm => Adds true fF64 rm false) ∧
  DoubleGives Instr.dmul (fun rm => Multiplies fF64 rm false) ∧
  DoubleGives Instr.dmin (fun _ => Selects false fF64 false) ∧
  DoubleGives Instr.dmax (fun _ => Selects true fF64 false) ∧
  (∀ (d : Reg) (nw : Bool) (a b c : Reg) (s : State),
    executes (pairNeed (.dfma d nw a b c) d [a, nextReg a 1, b, nextReg b 1, c, nextReg c 1] []) s = true →
    ∃ t, ∃ g : Fin 32 → Nat × FlagSet, exec (.dfma d nw a b c) s = .next t ∧
      (∀ th, activeIn s th = true →
        MultipliesAndAdds fF64 (rounding s) false (pairAt s a th).toNat (pairAt s b th).toNat (pairAt s c th).toNat
          (g th).1 (g th).2) ∧
      PairEffect (pairNeed (.dfma d nw a b c) d [a, nextReg a 1, b, nextReg b 1, c, nextReg c 1] []) d nw
        (fun th => BitVec.ofNat 64 (g th).1) (raisedBy s (fun th => (g th).2)) s t)

/-- 07 R189–R192; 05 R113–R120, R125–R127: one element converted, or two packed; the other positions of d are kept. The value
is rounded once among the target's values; DM and E targets saturate above the largest finite magnitude, integer targets
outside their range. Model's choices: NX of an infinity narrowed with SAT (log 49). -/
def Obligations.FloatConversions : Prop :=
  (∀ (d : Reg) (nw : Bool) (a : Sel) (src dst : Fmt) (rm : RMode) (pos : BitVec 2) (s : State),
    src ≠ dst → src ≠ .acc → dst ≠ .acc →
    executes (vecNeed (.fcvt d nw a src dst rm pos) d [a]) s = true →
    ∃ t, ∃ g : Fin 32 → Nat × FlagSet, exec (.fcvt d nw a src dst rm pos) s = .next t ∧
      (∀ th, activeIn s th = true →
        Converts dst rm (flushing s) (standsFor src (flushing s) (elementAt src pos.toNat (operand s [a] 0 th))) (g th).1 (g th).2) ∧
      VecEffect (vecNeed (.fcvt d nw a src dst rm pos) d [a]) d nw
        (fun th => elementPut dst pos.toNat ((reg s d).at th) (g th).1) (raisedBy s (fun th => (g th).2)) s t) ∧
  (∀ (d : Reg) (nw : Bool) (a : Sel) (code : Fmt) (rm : RMode) (pos : BitVec 2) (s : State),
    code = .f32 ∨ code = .i8 ∨ code = .n8 ∨ code = .i4 →
    executes (vecNeed (.fcvt d nw a code code rm pos) d [a]) s = true →
    ∃ t, ∃ g : Fin 32 → Nat × FlagSet, exec (.fcvt d nw a code code rm pos) s = .next t ∧
      (∀ th, activeIn s th = true →
        let x := operand s [a] 0 th
        match code with
        | .f32 => ∃ i, ToInteger (-(2 ^ 31)) (2 ^ 31 - 1) rm (standsFor .f32 (flushing s) x.toNat) i (g th).2 ∧
          (g th).1 = (BitVec.ofInt 32 i).toNat
        | .i8 => ToFloat fF32 rm (flushing s) (integerNumber x.toInt) (g th).1 (g th).2
        | .n8 => ∃ i, ToInteger 0 (2 ^ 32 - 1) rm (standsFor .f32 (flushing s) x.toNat) i (g th).2 ∧
          (g th).1 = (BitVec.ofInt 32 i).toNat
        | _ => ToFloat fF32 rm (flushing s) (integerNumber x.toNat) (g th).1 (g th).2) ∧
      VecEffect (vecNeed (.fcvt d nw a code code rm pos) d [a]) d nw (fun th => BitVec.ofNat 32 (g th).1)
        (raisedBy s (fun th => (g th).2)) s t) ∧
  (∀ (d : Reg) (nw : Bool) (a : Sel) (src : Fmt) (pos : BitVec 2) (s : State), src ≠ .acc →
    executes (vecNeed (.funpk d nw a src pos) d [a]) s = true →
    ∃ g : Fin 32 → Nat × FlagSet,
      (∀ th, activeIn s th = true →
        ToFloat fF32 (rounding s) (flushing s) (standsFor src (flushing s) (elementAt src pos.toNat (operand s [a] 0 th)))
          (g th).1 (g th).2) ∧
      FloatEffect (.funpk d nw a src pos) d nw [a] g s) ∧
  (∀ (d : Reg) (nw : Bool) (a b : Sel) (dst : Fmt) (high : Bool) (s : State), dst ≠ .acc →
    executes (vecNeed (.fpack d nw a b dst high) d [a, b]) s = true →
    ∃ t, ∃ g h : Fin 32 → Nat × FlagSet, exec (.fpack d nw a b dst high) s = .next t ∧
      (∀ th, activeIn s th = true →
        Converts dst (rounding s) (flushing s) (standsFor .f32 (flushing s) (operand s [a, b] 0 th).toNat) (g th).1 (g th).2 ∧
        Converts dst (rounding s) (flushing s) (standsFor .f32 (flushing s) (operand s [a, b] 1 th).toNat) (h th).1 (h th).2) ∧
      VecEffect (vecNeed (.fpack d nw a b dst high) d [a, b]) d nw
        (fun th => elementPut dst (if high then 3 else 1)
          (elementPut dst (if high then 2 else 0) ((reg s d).at th) (g th).1) (h th).1)
        (raisedBy s (fun th => (g th).2.join (h th).2)) s t)

/-! ### Shapes, masks, shuffles, reductions, scans and votes -/

/-- 07 R193–R195: `sbcast`, `saff`, `sgen`, `stag`, `mov`, `xmrd`, `ballot`; `xmwr` narrows the mask and never to 0. Model's
choices: `xmwr` under a serial record (log 57). -/
def Obligations.ShapesAndMasks : Prop :=
  GathersTwo Instr.sbcast (fun s a b _ => a (Fin.ofNat 32 (b (lowest s.me.cur.mask)).toNat)) ∧
  GathersTwo Instr.saff (fun s a b th => a (lowest s.me.cur.mask) + BitVec.ofNat 32 th.val * b (lowest s.me.cur.mask)) ∧
  GathersOne Instr.sgen (fun _ a th => a th) ∧
  GathersOne Instr.mov (fun _ a th => a th) ∧
  GathersOne Instr.ballot (fun s a _ => maskOf (fun th => activeIn s th && a th != 0)) ∧
  (∀ (d : Reg) (nw : Bool) (a : Sel) (s : State), executes (vecNeed (.stag d nw a) d [a]) s = true →
    ∃ t, exec (.stag d nw a) s = .next t ∧
      VecEffect (vecNeed (.stag d nw a) d [a]) d nw
        (fun _ => BitVec.ofNat 32 ((selVals s [] [a]).getD 0 (.u 0)).tagNo) 0 s t) ∧
  (∀ (d : Reg) (nw : Bool) (s : State), executes (vecNeed (.xmrd d nw) d []) s = true →
    ∃ t, exec (.xmrd d nw) s = .next t ∧
      VecEffect (vecNeed (.xmrd d nw) d []) d nw (fun _ => s.me.cur.mask) 0 s t) ∧
  (∀ (a : Sel) (s : State), executes { words := encodeWords (.xmwr a), sels := [a] } s = true →
    let narrowed := s.me.cur.mask &&& operand s [a] 0 (lowest s.me.cur.mask)
    (s.me.cur.parent.isSome = true ∨ (∃ r ∈ s.me.serials, r.owner = s.me.cur.id) ∨ narrowed = 0 ∨ narrowed = s.me.cur.mask) →
    ∃ t, exec (.xmwr a) s = .next t ∧
      t.me.cur.mask = (if narrowed = 0 then s.me.cur.mask else narrowed) ∧
      t.me.cur.id = s.me.cur.id ∧ t.me.cur.parent = s.me.cur.parent ∧ t.me.cur.reconv = s.me.cur.reconv ∧
      t.me.cur.wait = .ready ∧ LatchesPast { words := encodeWords (.xmwr a), sels := [a] } none s t ∧
      t = { s with
        me := { s.me with resident := t.me.resident, qstatus := t.me.qstatus, cur := t.me.cur }
        mem := { s.mem with scratch := t.mem.scratch } } ∧
      pastPc 1 s.me.cur t.me.cur ∧ OnlyPops [a] s t)

/-- 07 R196–R199: exchanges read the source thread whether active or not; reductions, scans and votes are over the active
threads in ascending order. -/
def Obligations.ShufflesAndReductions : Prop :=
  GathersTwo Instr.xchGet (fun _ a b th => a (Fin.ofNat 32 (b th).toNat)) ∧
  GathersTwo Instr.xchFlip (fun _ a b th => a (Fin.ofNat 32 (th.val ^^^ ((b th).toNat % 32)))) ∧
  GathersTwo Instr.xchRot (fun _ a b th => a (Fin.ofNat 32 (th.val + (b th).toNat))) ∧
  GathersTwo Instr.xchLag (fun _ a b th => if (b th).toNat ≤ th.val then a (Fin.ofNat 32 (th.val - (b th).toNat)) else 0) ∧
  GathersOne Instr.redAdd (fun s a _ => sumWords (actives s a)) ∧
  GathersOne Instr.redMin (fun s a _ => ((actives s a).foldl (fun x y => if y.toInt < x.toInt then y else x) 0x7FFFFFFF)) ∧
  GathersOne Instr.redMax (fun s a _ => ((actives s a).foldl (fun x y => if x.toInt < y.toInt then y else x) 0x80000000)) ∧
  GathersOne Instr.scanAdd (fun s a th => sumWords (upTo s a th)) ∧
  GathersOne Instr.allnz (fun s a _ => if (actives s a).all (fun x => x != 0) then 1 else 0) ∧
  GathersOne Instr.anynz (fun s a _ => if (actives s a).any (fun x => x != 0) then 1 else 0) ∧
  (∀ (d : Reg) (nw : Bool) (a : Sel) (s : State), executes (vecNeed (.redFadd d nw a) d [a]) s = true →
    ∃ v fl, SumTree s (operand s [a] 0) v fl ∧
      FloatEffect' (.redFadd d nw a) d nw [a] (fun _ => (v 5 0).getD 0) (fl 5 0) s) ∧
  (∀ (d : Reg) (nw : Bool) (a : Sel) (s : State), executes (vecNeed (.scanFadd d nw a) d [a]) s = true →
    ∃ v fl, RunningSum s (actives s (operand s [a] 0)) v fl ∧
      FloatEffect' (.scanFadd d nw a) d nw [a] (fun th => v ((upTo s (operand s [a] 0) th).length - 1))
        (fl ((actives s (operand s [a] 0)).length - 1)) s)

/-! ### Branches, calls and jumps -/

namespace Sys2Proof.Claims

open Sys2Proof Sys2Proof.Machine

/-- What an instruction that reads `regs` beside its selectors and writes no register asks at issue. -/
def plainNeed (i : Instr) (regs : List Reg) (sels : List Sel) : Need :=
  { words := encodeWords i, regs := regs, uses := regs, sels := sels }

/-- In a TF clause the implicit `tfence` before the instruction that ends it finds nothing outstanding, no request and no flag
to trap (06 R147). -/
def tfDone (s : State) : Bool := !tfOf s.me.cur.head || (!tfWaits s && !s.me.requested && trapFlags s.me == 0)

/-- A transfer executes: it stands last in its clause (06 R149), and in a TF clause the implicit `tfence` before it is
over (06 R147). -/
def transfers (n : Need) (s : State) : Bool := executes { n with transfer := true } s && tfDone s

/-- The fragment continues at a clause header; nothing else changes but what its uses of registers bring in (02 R31). -/
structure Continues (target : BitVec 52) (s t : State) : Prop where
  rest : t = { s with me := { s.me with resident := t.me.resident, timeSlice := t.me.timeSlice, cur := t.me.cur } }
  pc : t.me.cur.hdr = target ∧ t.me.cur.widx = 0 ∧ t.me.cur.inClause = false
  same : t.me.cur.id = s.me.cur.id ∧ t.me.cur.mask = s.me.cur.mask ∧ t.me.cur.parent = s.me.cur.parent
    ∧ t.me.cur.reconv = s.me.cur.reconv
  latches : t.me.cur.latches = Vector.replicate 4 (.u 0)

/-- A point that may be a yield point: with a request pending the fragment waits, and a time slice has taken effect (02
R49). -/
def yieldsWhen (c : Bool) (s t : State) : Prop :=
  if c && s.me.requested then t.me.cur.wait = .yield ∧ t.me.timeSlice = false
  else t.me.cur.wait = .ready ∧ t.me.timeSlice = s.me.timeSlice

/-- A taken transfer to a target: backward it is a yield point (02 R49). -/
def Taken (target : BitVec 52) (s t : State) : Prop :=
  Continues target s t ∧ yieldsWhen (decide (target.toNat < s.me.cur.wordAddr.toNat)) s t

/-- A transfer that is not taken: the following header (07 R205). -/
def NotTaken (s t : State) : Prop := Continues s.me.cur.nextHeader s t ∧ yieldsWhen false s t

/-- The condition of a branch in a thread (07 R200). -/
def condIn (s : State) (p : PredNo) (ng : Bool) (th : Fin 32) : Bool := (predMask s p).getLsbD th.val != ng

/-- The target of a B-format word (06 R151). -/
def targetOf (s : State) (tgt : BitVec 14) : BitVec 52 := s.me.cur.wordAddr + BitVec.ofInt 52 (4 * tgt.toInt)

/-- A split (02 R39): T goes to `target`, F to (`fall`, `fallWidx`), both under the fragment that executed, which is
suspended; the other fragments of the strand stay; without two free entries a serial record holds F (02 R42). Nothing else
changes. -/
structure Splits (tm fm : Mask) (target reconv fall : BitVec 52) (fallWidx : Nat) (s t : State) : Prop where
  rest : t = { s with me := { s.me with
    resident := t.me.resident
    timeSlice := t.me.timeSlice
    cur := t.me.cur
    frags := t.me.frags
    nextFrag := t.me.nextFrag
    serials := t.me.serials } }
  taken : t.me.cur.mask = tm ∧ t.me.cur.hdr = target ∧ t.me.cur.widx = 0
  yields : yieldsWhen (decide (target.toNat < s.me.cur.wordAddr.toNat)) s t
  room : entriesUsed s s.me.place + 2 ≤ 64 →
    t.me.serials = s.me.serials ∧ t.me.cur.parent = some s.me.cur.id ∧ t.me.cur.reconv = reconv ∧
    t.me.cur.id = s.me.nextFrag ∧ t.me.nextFrag = s.me.nextFrag + 2 ∧
    (∀ g ∈ s.me.frags, g ∈ t.me.frags) ∧ t.me.frags.length = s.me.frags.length + 2 ∧
    (∃ f ∈ t.me.frags, f.mask = fm ∧ f.hdr = fall ∧ f.widx = fallWidx ∧ f.parent = some s.me.cur.id ∧
      f.reconv = reconv ∧ f.wait = .ready) ∧
    (∃ f ∈ t.me.frags, f.id = s.me.cur.id ∧ f.wait = .suspended ∧ f.mask = s.me.cur.mask ∧ f.hdr = reconv)
  full : ¬ entriesUsed s s.me.place + 2 ≤ 64 →
    t.me.frags = s.me.frags ∧ t.me.cur.parent = s.me.cur.parent ∧ t.me.cur.id = s.me.cur.id ∧
    t.me.cur.reconv = s.me.cur.reconv ∧ t.me.nextFrag = s.me.nextFrag ∧
    ∃ r, t.me.serials = r :: s.me.serials ∧ r.mask = fm ∧ r.full = s.me.cur.mask ∧ r.fall = fall ∧
      r.fallWidx = fallWidx ∧ r.reconv = reconv ∧ r.owner = s.me.cur.id

end Sys2Proof.Claims

/-- 07 R200, R201; 02 R39, R42: `br` is taken by the whole fragment when some active thread's condition holds, `br.all`
when every active thread's does; `brd` splits when some active threads take it and some do not, and is otherwise as `br`. -/
def Obligations.Branches : Prop :=
  (∀ (p : PredNo) (ng : Bool) (tgt : BitVec 14) (s : State), transfers (plainNeed (.br p ng tgt) [] []) s = true →
    ∃ t, exec (.br p ng tgt) s = .next t ∧
      ((∃ th, activeIn s th = true ∧ condIn s p ng th = true) → Taken (targetOf s tgt) s t) ∧
      ((∀ th, activeIn s th = true → condIn s p ng th = false) → NotTaken s t)) ∧
  (∀ (p : PredNo) (ng : Bool) (tgt : BitVec 14) (s : State), transfers (plainNeed (.brAll p ng tgt) [] []) s = true →
    ∃ t, exec (.brAll p ng tgt) s = .next t ∧
      ((∀ th, activeIn s th = true → condIn s p ng th = true) → Taken (targetOf s tgt) s t) ∧
      ((∃ th, activeIn s th = true ∧ condIn s p ng th = false) → NotTaken s t)) ∧
  (∀ (p : PredNo) (ng : Bool) (tgt : BitVec 14) (aux : BitVec 8) (s : State),
    transfers (plainNeed (.brd p ng tgt aux) [] []) s = true →
    ∃ t, exec (.brd p ng tgt aux) s = .next t ∧
      ((∀ th, activeIn s th = true → condIn s p ng th = false) → NotTaken s t) ∧
      ((∀ th, activeIn s th = true → condIn s p ng th = true) → Taken (targetOf s tgt) s t) ∧
      ((∃ th, activeIn s th = true ∧ condIn s p ng th = false) → (∃ th, activeIn s th = true ∧ condIn s p ng th = true) →
        Splits (maskOf (fun th => activeIn s th && condIn s p ng th))
          (maskOf (fun th => activeIn s th && !condIn s p ng th)) (targetOf s tgt)
          (s.me.cur.wordAddr + BitVec.ofNat 52 (4 * aux.toNat)) s.me.cur.nextHeader 0 s t))

/-- 07 R202–R204: `call` keeps the following address in `lr`, `ret` goes to `lr` within the same 4 GiB, `jr` to the address of
the lowest active thread; `jrd` sends the threads that share the lowest active thread's address there, and the others resume
at the `jrd` itself. Model's choices: where a misaligned target is raised and whose address a `jr` takes (log 54, 62). -/
def Obligations.CallsAndJumps : Prop :=
  (∀ (tgt : BitVec 14) (s : State), transfers (plainNeed (.call tgt) [] []) s = true →
    ∃ t, exec (.call tgt) s = .next t ∧ t.me.lr = (s.me.cur.wordAddr + 4).setWidth 32 ∧
      Taken (targetOf s tgt) { s with me := { s.me with lr := t.me.lr } } t) ∧
  (∀ s : State, transfers (plainNeed .ret [] []) s = true → s.me.lr.toNat % 4 = 0 →
    ∃ t, exec .ret s = .next t ∧
      Taken (BitVec.ofNat 52 (s.me.cur.wordAddr.toNat / 2 ^ 32 * 2 ^ 32 + s.me.lr.toNat)) s t) ∧
  (∀ (a : Reg) (s : State), transfers (plainNeed (.jr a) [a, nextReg a 1] []) s = true →
    (pairAt s a (lowest s.me.cur.mask)).toNat % 4 = 0 → (pairAt s a (lowest s.me.cur.mask)).toNat < 2 ^ 52 →
    ∃ t, exec (.jr a) s = .next t ∧ Taken ((pairAt s a (lowest s.me.cur.mask)).setWidth 52) s t) ∧
  (∀ (a b : Reg) (s : State), transfers (plainNeed (.jrd a b) [a, nextReg a 1, b, nextReg b 1] []) s = true →
    (∀ th, activeIn s th = true → (pairAt s a th).toNat % 4 = 0 ∧ (pairAt s a th).toNat < 2 ^ 52) →
    (pairAt s b (lowest s.me.cur.mask)).toNat % 4 = 0 → (pairAt s b (lowest s.me.cur.mask)).toNat < 2 ^ 52 →
    ∃ t, exec (.jrd a b) s = .next t ∧
      ((∀ th, activeIn s th = true → pairAt s a th = pairAt s a (lowest s.me.cur.mask)) →
        Taken ((pairAt s a (lowest s.me.cur.mask)).setWidth 52) s t) ∧
      ((∃ th, activeIn s th = true ∧ pairAt s a th ≠ pairAt s a (lowest s.me.cur.mask)) →
        Splits (maskOf (fun th => activeIn s th && pairAt s a th == pairAt s a (lowest s.me.cur.mask)))
          (maskOf (fun th => activeIn s th && pairAt s a th != pairAt s a (lowest s.me.cur.mask)))
          ((pairAt s a (lowest s.me.cur.mask)).setWidth 52) ((pairAt s b (lowest s.me.cur.mask)).setWidth 52)
          s.me.cur.hdr s.me.cur.widx s t))

/-! ### The remaining functions of major 0x24 -/

namespace Sys2Proof.Claims

open Sys2Proof Sys2Proof.Machine

/-- Nothing but the executing fragment, its time slice, what its pops take and what its uses of registers bring in
changes. -/
structure OnlyFragment (sels : List Sel) (s t : State) : Prop where
  rest : t = { s with
    me := { s.me with
      resident := t.me.resident
      qstatus := t.me.qstatus
      timeSlice := t.me.timeSlice
      cur := t.me.cur }
    mem := { s.mem with scratch := t.mem.scratch } }
  pops : OnlyPops sels s t
  same : t.me.cur.id = s.me.cur.id ∧ t.me.cur.mask = s.me.cur.mask ∧ t.me.cur.parent = s.me.cur.parent
    ∧ t.me.cur.reconv = s.me.cur.reconv

/-- The pc past an instruction that ends its clause: the following header, or in a TF clause the implicit `tfence` that
comes first (06 R147, 09 R284). -/
def pastClauseEnd (s t : State) : Prop := t.me.cur.hdr = s.me.cur.nextHeader ∧ t.me.cur.widx = 0

/-- A handler cause is delivered (14 R352, R356): no STEP is under way, the handler is not active, and `tvec` names one. -/
def delivers (s : State) : Bool := s.me.stepping.isNone && !handlerActive s.me && posAddr (tvecOf s.me) != 0

/-- A code position (09 R287). -/
def position (hdr : BitVec 52) (widx : Nat) : DWord := BitVec.ofNat 64 (widx * 2 ^ 52 + hdr.toNat)

/-- What `sysc` asks at issue where its function is not barred from the context. -/
def syscNeed (d : Reg) (nw : Bool) (a : Sel) (b : Reg) : Need :=
  { words := encodeWords (.sysc d nw a b), regs := [d, b, nextReg b 1], uses := [b, nextReg b 1], sels := [a], dst := some d }

/-- An instruction of a paired strand waits at its place while a window is compared; nothing but the wait, the window that it may
close and the registers it has brought in changes (16 R412, R414). -/
def WaitsForWindow (n : Need) (s t : State) : Prop :=
  t.me.cur.wait = .window ∧ t.me.cur.hdr = s.me.cur.hdr ∧ t.me.cur.widx = s.me.cur.widx ∧ t.me.cur.mask = s.me.cur.mask ∧
  t.me.cur.heldPops = selPops n.sels ∧
  t = { s with me := { s.me with
    resident := t.me.resident
    cur := t.me.cur
    window := t.me.window
    windowSig := t.me.windowSig
    windowAt := t.me.windowAt
    windowEnd := t.me.windowEnd } }

/-- An instruction closes the window of its paired strand: its records are summed into the signature that the twins compare, the next
window is empty, and every held write so far belongs to the closed one (16 R412, R413). -/
def ClosesWindow (i : Instr) (n : Need) (s : State) : Prop :=
  (s.me.windowSig = none → ∃ t, exec i s = .next t ∧ WaitsForWindow n s t ∧ t.me.window = [] ∧
    t.me.windowSig = some (windowSignature s.me.window) ∧ t.me.windowAt = s.tick ∧ t.me.windowEnd = s.mem.nextOp) ∧
  (s.me.windowSig ≠ none → ∃ t, exec i s = .next t ∧ WaitsForWindow n s t ∧ t.me.window = s.me.window ∧
    t.me.windowSig = s.me.windowSig)

/-- The user handler is entered (14 R352–R354): the exact point, the cause with HACT, the address and the fields of the
instruction are kept, and the fragment continues at `tvec`; mask, registers, predicates and flags stay. -/
structure EntersHandler (cause : Nat) (detail : Nat) (addr : DWord) (epc : DWord) (ws : List Word) (head : Word)
    (s t : State) : Prop where
  rest : t = { s with me := { s.me with trap := t.me.trap, handler := t.me.handler, cur := t.me.cur } }
  point : pair t.me.trap.tepc t.me.trap.tepch = epc
  cause : t.me.trap.tcause = BitVec.ofNat 32 (2 ^ 31 + 256 * detail + cause)
  address : pair t.me.trap.taddr t.me.trap.taddrh = addr
  vector : t.me.trap.tvec = s.me.trap.tvec ∧ t.me.trap.tvech = s.me.trap.tvech
  emulation : t.me.trap.emword = ws.headD 0 ∧ t.me.trap.emclause = head ∧
    t.me.trap.emop = ((ws.headD 0).extractLsb' 26 6).setWidth 32 ∧ t.me.trap.emfn = ((ws.headD 0).extractLsb' 0 5).setWidth 32 ∧
    t.me.trap.emd = ((ws.headD 0).extractLsb' 20 6).setWidth 32 ∧ t.me.trap.ema = ((ws.headD 0).extractLsb' 12 7).setWidth 32 ∧
    t.me.trap.emb = ((ws.headD 0).extractLsb' 5 7).setWidth 32 ∧ t.me.trap.emc = ((ws.headD 0).extractLsb' 0 5).setWidth 32
  handler : t.me.handler = some s.me.cur.id
  pc : t.me.cur.hdr = posAddr (tvecOf s.me) ∧ t.me.cur.widx = 0 ∧ t.me.cur.latches = Vector.replicate 4 (.u 0)
  same : t.me.cur.id = s.me.cur.id ∧ t.me.cur.mask = s.me.cur.mask ∧ t.me.cur.parent = s.me.cur.parent
    ∧ t.me.cur.reconv = s.me.cur.reconv ∧ t.me.cur.wait = .ready

end Sys2Proof.Claims

/-- 07 R206; 09 R284, R285; 02 R49: `nop` has no effect; `yield` is a yield point; `tfence` that finds nothing outstanding and
no flag to trap is one too, and while something is outstanding it does not issue. Model's choices: what a `tfence` waits for
and that it tests before it yields (log 47, 51). -/
def Obligations.NopYieldTfence : Prop :=
  (∀ s : State, executes (plainNeed .nop [] []) s = true →
    ∃ t, exec .nop s = .next t ∧ OnlyFragment [] s t ∧ pastPc 1 s.me.cur t.me.cur ∧ LatchesPast (plainNeed .nop [] []) none s t ∧
      yieldsWhen false s t) ∧
  (∀ s : State, executes (plainNeed .yield [] []) s = true →
    ∃ t, exec .yield s = .next t ∧ OnlyFragment [] s t ∧ pastPc 1 s.me.cur t.me.cur ∧
      LatchesPast (plainNeed .yield [] []) none s t ∧ yieldsWhen true s t) ∧
  (∀ s : State, executes (plainNeed .tfence [] []) s = true → tfWaits s = false → trapFlags s.me = 0 →
    ∃ t, exec .tfence s = .next t ∧ OnlyFragment [] s t ∧ pastPc 1 s.me.cur t.me.cur ∧
      LatchesPast (plainNeed .tfence [] []) none s t ∧ yieldsWhen true s t) ∧
  (∀ s : State, executes (plainNeed .tfence [] []) s = true → tfWaits s = true → exec .tfence s = .next s)

/-- 02 R44, 07 R207; 11 R323; 16 R412: the threads active at `exit` are in no fragment and no serial record of the strand any
more, and a strand that was one fragment with nothing in flight has ended. While a staged unit with stores of the strand is
not written back `exit` waits, and the write-back of its DIRTY units begins. A paired strand closes its window first. Model's
choices: that `exit` waits while a staged unit is owed (log 47). -/
def Obligations.ExitEndsThreads : Prop :=
  (∀ s : State, transfers { plainNeed .exit [] [] with releasing := true } s = true → isPaired s s.me = false →
    stagedOwed s s.me.who.id = false →
    ∃ t, exec .exit s = .next t ∧
      (∀ f ∈ t.me.all, f.mask &&& s.me.cur.mask = 0) ∧
      (∀ r ∈ t.me.serials, r.mask &&& s.me.cur.mask = 0 ∧ r.full &&& s.me.cur.mask = 0) ∧
      (s.me.frags = [] → s.me.serials = [] → inFlight s s.me.who.id = 0 → t.me.here = false) ∧
      t.mem.bytes = s.mem.bytes ∧ t.kernel = s.kernel ∧ t.tick = s.tick) ∧
  (∀ s : State, transfers { plainNeed .exit [] [] with releasing := true } s = true → isPaired s s.me = false →
    stagedOwed s s.me.who.id = true → tablesRise s = true →
    ∃ t, exec .exit s = .next t ∧
      t = { s with
        mem := { s.mem with staged := t.mem.staged }
        links := { s.links with
          ports := t.links.ports
          awaited := t.links.awaited
          queued := t.links.queued
          sequence := t.links.sequence }
        outbox := t.outbox } ∧
      (∀ borrow unit tick mask by_ since, unit < 2 ^ 23 → stagedAt s borrow unit = .dirty tick mask by_ since →
        owesUnit s s.me.who.id (.dirty tick mask by_ since) = true → (borrowAt s borrow).state ≠ .lost →
        stagedAt t borrow unit = .writing mask [] tick by_ (some s.me.who.id) false ∧
        ∃ w ∈ t.links.awaited, ∃ tag, w.dest = (borrowAt s borrow).lender ∧ w.msg = .stageWrite tag borrow unit
          (borrowAt s borrow).leaseId (mask.map (fun k => (k, memByte s.mem.bytes (stageAddr s borrow unit + k))))) ∧
      (∀ borrow unit, unit < 2 ^ 23 → (∀ tick mask by_ since, stagedAt s borrow unit ≠ .dirty tick mask by_ since) ∨
          owesUnit s s.me.who.id (stagedAt s borrow unit) = false ∨ (borrowAt s borrow).state = .lost →
        stagedAt t borrow unit = stagedAt s borrow unit)) ∧
  (∀ s : State, transfers { plainNeed .exit [] [] with releasing := true } s = true → isPaired s s.me = true →
    ClosesWindow .exit { plainNeed .exit [] [] with releasing := true } s)

/-- 09 R286, 14 R350, R352–R354: `trap` and an unarmed `brkpt` enter the user handler with BREAK after themselves: `tepc`
names the following clause header. The implicit `tfence` of a TF clause is still to come (06 R147, R149). -/
def Obligations.BreakEntersHandler : Prop :=
  (∀ (a : Sel) (s : State), executes { plainNeed (.trap a) [] [a] with acts := true } s = true →
    delivers s = true →
    ∃ t u, exec (.trap a) s = .next t ∧ OnlyFragment [a] s u ∧ (u.me.cur.tf.isSome = tfOf s.me.cur.head) ∧
      t.me.cur.kept.tf = u.me.cur.tf ∧
      EntersHandler 0x05 0 ((operand s [a] 0 (lowest s.me.cur.mask)).setWidth 64) (position s.me.cur.nextHeader 0)
        (encodeWords (.trap a)) s.me.cur.head u t) ∧
  (∀ s : State, executes { plainNeed .brkpt [] [] with acts := true } s = true → delivers s = true →
    s.boot.armed.contains s.me.place.lane = false →
    ∃ t, exec .brkpt s = .next t ∧
      EntersHandler 0x05 0 (BitVec.ofNat 64 (2 ^ 32)) (position s.me.cur.nextHeader 0) (encodeWords .brkpt)
        s.me.cur.head s t) ∧
  (∀ s : State, executes { plainNeed .brkpt [] [] with acts := true } s = true →
    s.boot.armed.contains s.me.place.lane = true →
    ∃ t, exec .brkpt s = .next t ∧ t.me.halted = true ∧ pastClauseEnd s t ∧
      t = { s with me := { s.me with halted := true, stepping := none, cur := t.me.cur } } ∧
      t.me.cur.mask = s.me.cur.mask ∧ t.me.trap = s.me.trap)

/-- 09 R287, 14 R357: `eret` clears HACT alone, and the fragment continues at `tepc` with its mask; fragments held while the
handler was active become ready (14 R356); it is a yield point. -/
def Obligations.EretReturns : Prop :=
  ∀ s : State, transfers (plainNeed .eret [] []) s = true → handlerActive s.me = true →
    ∃ t, exec .eret s = .next t ∧
      t = { s with me := { s.me with
        trap := { s.me.trap with tcause := t.me.trap.tcause }
        handler := none
        timeSlice := t.me.timeSlice
        cur := t.me.cur
        frags := t.me.frags } } ∧
      t.me.trap.tcause = BitVec.ofNat 32 (s.me.trap.tcause.toNat % 2 ^ 31) ∧
      t.me.cur.hdr = (pair s.me.trap.tepc s.me.trap.tepch).extractLsb' 0 52 ∧
      t.me.cur.widx = ((pair s.me.trap.tepc s.me.trap.tepch).extractLsb' 52 4).toNat ∧
      t.me.cur.mask = s.me.cur.mask ∧ t.me.cur.latches = Vector.replicate 4 (.u 0) ∧
      t.me.frags.length = s.me.frags.length ∧
      (∀ f ∈ t.me.frags, f.wait ≠ .held ∧ ∃ g ∈ s.me.frags, f.id = g.id ∧ f.mask = g.mask ∧ f.hdr = g.hdr ∧
        f.widx = g.widx ∧ (g.wait = .held → f.wait = .ready) ∧ (g.wait ≠ .held → f.wait = g.wait)) ∧
      yieldsWhen true s t

/-- 07 R208: `nap` computes the one T of its operand within 2^31 ticks of now; before T it waits with kind 7, its pops not
yet made; from T on it completes (14 R361: with no missed promise of the strand). -/
def Obligations.NapWaitsForTick : Prop :=
  ∀ (a : Sel) (s : State) (T : DWord), executes { plainNeed (.nap a) [] [a] with blocking := true } s = true →
    loW T = operand s [a] 0 (lowest s.me.cur.mask) → s.tick.toNat < T.toNat + 2 ^ 31 → T.toNat ≤ s.tick.toNat + 2 ^ 31 →
    (s.tick.toNat < T.toNat →
      ∃ t, exec (.nap a) s = .next t ∧ t.me.cur.wait = .nap T ∧ t.me.cur.begun = .napping T ∧
        t.me.cur.hdr = s.me.cur.hdr ∧ t.me.cur.widx = s.me.cur.widx ∧ OnlyFragment [] s t) ∧
    (T.toNat ≤ s.tick.toNat → s.engines.missed = [] → s.engines.undecided = [] →
      ∃ t, exec (.nap a) s = .next t ∧ OnlyFragment [a] s t ∧ pastPc 1 s.me.cur t.me.cur ∧ t.me.cur.wait = .ready)

/-- 02 R46, 09 R288: a switch to a role of the launch within its reservation sets `role`, `prio` and the allotment, keeps the
registers below both allotments, gives zero in the others, and continues at the role's entry; predicates, flags and queue
bindings stay. The implicit `tfence` of a TF clause is still to come at the role's entry. -/
def Obligations.RoleSwitches : Prop :=
  ∀ (a : Sel) (s : State) (l : Launch) (r : RoleRec), executes (plainNeed (.role a) [] [a]) s = true →
    s.me.place.isCtl = false → findLaunch s s.me.who.id.handle = some l →
    (operand s [a] 0 (lowest s.me.cur.mask)).toNat ≤ l.record.nrole →
    l.roles[(operand s [a] 0 (lowest s.me.cur.mask)).toNat]? = some r →
    r.v ≤ l.record.vmax → r.g ≤ l.record.gmax → r.v - r.g ≤ l.record.spill → s.me.all.length = 1 →
    (s.me.allotV ≤ r.v ∨ (inFlight s s.me.who.id = 0 ∧ outLoads s s.me.who.id = 0)) →
    ∃ t, exec (.role a) s = .next t ∧
      t.me.role = operand s [a] 0 (lowest s.me.cur.mask) ∧ t.me.prio = BitVec.ofNat 32 r.cls ∧ t.me.allotV = r.v ∧
      t.me.allotG = r.g ∧
      (∀ k : Reg, reg t k = if k.toNat < min s.me.allotV r.v then reg s k else .u 0) ∧
      t.me.cur.hdr = r.entry ∧ t.me.cur.widx = 0 ∧ t.me.cur.mask = s.me.cur.mask ∧
      t = { s with
        me := { s.me with
          role := t.me.role
          prio := t.me.prio
          allotV := t.me.allotV
          allotG := t.me.allotG
          regs := t.me.regs
          resident := t.me.resident
          qstatus := t.me.qstatus
          cur := t.me.cur }
        mem := { s.mem with scratch := t.mem.scratch } } ∧
      OnlyPops [a] s t

/-- 09 R289, R290; 14 R362, R363: `sysc` of a user function parks the fragment at the instruction and writes an entry with
SYSC into a ring that has room; a service function from a package-kernel context begins the service and leaves v`d` owed; an
unassigned number writes 0xFFFF_FFFF. Model's choices: ADDR of a SYSCALL entry and what an unassigned number gives (log 52,
60). -/
def Obligations.SystemCalls : Prop :=
  (∀ (d : Reg) (nw : Bool) (a : Sel) (b : Reg) (s : State),
    executes (syscNeed d nw a b) s = true →
    (operand s [a] 0 (lowest s.me.cur.mask)).toNat % 4096 < 0x100 →
    hasRing s = true → ringRoom s = true → s.kernel.waitingFaults = [] →
    ∃ t, exec (.sysc d nw a b) s = .next t ∧ t.me.cur.wait = .parked s.kernel.fqprod.toNat ∧
      t.me.cur.hdr = s.me.cur.hdr ∧ t.me.cur.widx = s.me.cur.widx ∧ t.me.regs = s.me.regs ∧
      t.kernel.fqprod = s.kernel.fqprod + 1 ∧
      ∃ e, tget? t.kernel.written s.kernel.fqprod.toNat = some e ∧ e.cause = 0 ∧
        e.func.toNat = (operand s [a] 0 (lowest s.me.cur.mask)).toNat % 4096 ∧ e.flags.getLsbD 19 = true ∧
        e.arg = pairAt s b (lowest s.me.cur.mask) ∧ e.tmask = s.me.cur.mask ∧ e.handle = s.me.who.id.handle ∧
        e.epc = position s.me.cur.hdr s.me.cur.widx ∧ e.parks = some (s.me.who.id, s.me.cur.id)) ∧
  (∀ (d : Reg) (nw : Bool) (a : Sel) (b : Reg) (s : State) (kind : SvcKind),
    executes (syscNeed d nw a b) s = true → isKernel s s.me = true →
    svcOf ((operand s [a] 0 (lowest s.me.cur.mask)).toNat % 4096) = some kind → outLoads s s.me.who.id < 63 →
    ∃ t, exec (.sysc d nw a b) s = .next t ∧ pastPc 1 s.me.cur t.me.cur ∧ t.nextSvc = s.nextSvc + 1 ∧
      t.me.regs = s.me.regs ∧
      ∃ v, t.services = s.services ++ [v] ∧ v.kind = kind ∧ v.arg = pairAt s b (lowest s.me.cur.mask) ∧
        v.begun = false ∧ ∃ o, t.mem.ops = s.mem.ops ++ [o] ∧ o.id = v.op ∧ o.dst = d ∧ o.owner = s.me.who.id ∧
          o.holds = true ∧ o.gate = true) ∧
  (∀ (d : Reg) (nw : Bool) (a : Sel) (b : Reg) (s : State),
    executes (syscNeed d nw a b) s = true →
    0x100 ≤ (operand s [a] 0 (lowest s.me.cur.mask)).toNat % 4096 →
    svcOf ((operand s [a] 0 (lowest s.me.cur.mask)).toNat % 4096) = none →
    ((operand s [a] 0 (lowest s.me.cur.mask)).toNat % 4096 < 0x200 → isKernel s s.me = true) →
    ∃ t, exec (.sysc d nw a b) s = .next t ∧
      VecEffect (syscNeed d nw a b) d nw (fun _ => 0xFFFFFFFF) 0 s t)

/-! ### Special registers -/

namespace Sys2Proof.Claims

open Sys2Proof Sys2Proof.Machine

/-- What `rdsr` asks at issue. -/
def rdsrNeed (s : State) (d : Reg) (nw : Bool) (sr : SReg) : Need :=
  { sregNeed s (encodeWords (.rdsr d nw sr)) sr with regs := [d], dst := some d }

/-- What `wrsr` asks at issue. -/
def wrsrNeed (s : State) (a : Sel) (sr : SReg) : Need :=
  { sregNeed s (encodeWords (.wrsr a sr)) sr with sels := [a] }

/-- The value that a writable special register holds after a write of `v`: reserved bits are dropped (00 R4, 05 R124, 09
R287, R292, R294). -/
def written (sr : SReg) (v : Word) : Word :=
  match sr with
  | .fcr => v &&& 0x7
  | .fflags | .ftrapen => v &&& 0x3F
  | .tvech | .tepch => v &&& 0x00FFFFFF
  | .pksel => v &&& 0xFF
  | .rootl | .bindl => v &&& 0xFFFFC000
  | .rooth | .bindh | .crdh | .fqbh => v &&& 0x000FFFFF
  | .asn => v &&& 0xFFF
  | .aplace => if v &&& 3 = 3 then 0 else v &&& 3
  | .bindn => v &&& 0x7FF
  | .winA _ => v &&& 0x3FFF0003
  | .winB _ => v &&& 0x7FF
  | .kctx => v &&& 1
  | .crdl => v &&& 0xFFFF8000
  | .qctx _ => v &&& 0xFF
  | .fqbl => v &&& 0xFFFFFFC0
  | .fqsize => v &&& 0x1F
  | _ => v

/-- Registers of the address context that PKSEL selects: 0x101 to 0x118 (09 R292). -/
def ofContext (sr : SReg) : Bool := decide (0x101 ≤ sregNumber sr) && decide (sregNumber sr ≤ 0x118)

end Sys2Proof.Claims

/-- 06 R155, R162; 09 R291: `rdsr` writes the register to d; a read of `tick` captures the counter's high half, which
`tickh` reads for the rest of the clause. -/
def Obligations.RdsrReads : Prop :=
  ∀ (d : Reg) (nw : Bool) (sr : SReg) (s : State), executes (rdsrNeed s d nw sr) s = true →
    ∃ t, exec (.rdsr d nw sr) s = .next t ∧
      VecEffect (rdsrNeed s d nw sr) d nw (fun _ => readSReg s sr) 0 s t ∧
      (sr = .tick → t.me.cur.widx ≠ 0 → readSReg t .tickh = hiW s.tick)

/-- 06 R162; 09 R291, R292: `wrsr` sets the register to the operand at the lowest active thread without its reserved bits.
Every other special register, general register and predicate and all of memory stay; a write of `pksel` also changes
which context 0x101 to 0x118 read, and a pop or the end of the clause what `qstatus` and `tickh` read. -/
def Obligations.WrsrWrites : Prop :=
  ∀ (a : Sel) (sr : SReg) (s : State), executes (wrsrNeed s a sr) s = true → sr.writable = true →
    tablesRise s = true →
    ∃ t, exec (.wrsr a sr) s = .next t ∧
      readSReg t sr = written sr (operand s [a] 0 (lowest s.me.cur.mask)) ∧
      (∀ r, r ≠ sr → r ≠ .tickh → r ≠ .qstatus → (sr = .pksel → ofContext r = false) → readSReg t r = readSReg s r) ∧
      t.me.regs = s.me.regs ∧ t.me.preds = s.me.preds ∧ t.mem.bytes = s.mem.bytes ∧ t.mem.slices = s.mem.slices ∧
      t.me.cur.mask = s.me.cur.mask ∧ pastPc 1 s.me.cur t.me.cur ∧ OnlyPops [a] s t

/-! ### Exceptions -/

namespace Sys2Proof.Claims

open Sys2Proof Sys2Proof.Machine

/-- An instruction of these words comes to issue: it may stand where it stands, under a mask that is not empty, with
nothing deferred before it (14 R351). -/
def comesToIssue (n : Need) (s : State) : Bool :=
  mayIssue s && (s.me.cur.begun == .no) && !misplaced n s && (s.me.cur.mask != 0)
    && !(n.releasing && s.me.psf.getLsbD 31)

/-- An instruction raises a handler cause before itself (14 R346, R352). -/
def RaisesBefore (i : Instr) (cause detail : Nat) (addr : DWord) (s : State) : Prop :=
  ∃ t, exec i s = .next t ∧
    EntersHandler cause detail addr (position s.me.cur.hdr s.me.cur.widx) (encodeWords i) s.me.cur.head s t

end Sys2Proof.Claims

/-- 14 R352–R354, R356, R371: a cause of the handler's class is delivered to it; without a handler, or met again by the
fragment that runs it, it goes to the kernel with NESTED; met by another fragment it is held before the instruction; while
the debugger holds the strand it is only recorded. -/
def Obligations.HandlerCauses : Prop :=
  ∀ (r : Report) (ws : List Word) (s : State), toHandler r.cause = true → r.after = false → r.defer = false →
    r.detail < 256 →
    (s.me.halted = true →
      raiseBefore ws r s = { s with me := { s.me with
        stepping := if s.me.stepping = some s.me.cur.id then none else s.me.stepping
        reports := (raiseBefore ws r s).me.reports } } ∧
      ∃ x, (raiseBefore ws r s).me.reports = s.me.reports ++ [x] ∧ x.frag = s.me.cur.id ∧ x.cause = r.cause ∧
        x.detail = r.detail ∧ x.addr = r.addr ∧ x.epc = position s.me.cur.hdr s.me.cur.widx) ∧
    (s.me.halted = false → delivers s = true →
      EntersHandler (causeCode r.cause) r.detail r.addr (position s.me.cur.hdr s.me.cur.widx) ws s.me.cur.head s
        (raiseBefore ws r s)) ∧
    (s.me.halted = false → handlerActive s.me = true → s.me.handler ≠ some s.me.cur.id →
      (raiseBefore ws r s).me.cur.wait = .held ∧
      raiseBefore ws r s = { s with me := { s.me with cur := (raiseBefore ws r s).me.cur } } ∧
      (raiseBefore ws r s).me.cur.hdr = s.me.cur.hdr ∧ (raiseBefore ws r s).me.cur.widx = s.me.cur.widx) ∧
    (s.me.halted = false →
      (handlerActive s.me = true ∧ s.me.handler = some s.me.cur.id) ∨
        (handlerActive s.me = false ∧ posAddr (tvecOf s.me) = 0) →
      hasRing s = true → ringRoom s = true → s.kernel.waitingFaults = [] →
      (raiseBefore ws r s).me.cur.wait = .parked s.kernel.fqprod.toNat ∧
      (raiseBefore ws r s).me.trap = s.me.trap ∧
      ∃ e, tget? (raiseBefore ws r s).kernel.written s.kernel.fqprod.toNat = some e ∧ e.cause = causeCode r.cause ∧
        e.detail = r.detail ∧ e.flags.getLsbD 18 = true ∧ e.addr = r.addr ∧
        e.epc = position s.me.cur.hdr s.me.cur.widx)

/-- 14 R362, R363: a kernel cause parks the fragment at its exact point and writes its entry at `fqprod`, which advances;
when the ring is full the entry waits behind the others; without a ring the strand is killed. No register changes. -/
def Obligations.KernelCausesPark : Prop :=
  ∀ (r : Report) (ws : List Word) (s : State), toHandler r.cause = false →
    (raiseBefore ws r s).me.cur.wait = .parked (nextFault s) ∧ (raiseBefore ws r s).me.regs = s.me.regs ∧
    (raiseBefore ws r s).me.trap = s.me.trap ∧ (raiseBefore ws r s).me.cur.hdr = s.me.cur.hdr ∧
    (raiseBefore ws r s).me.cur.widx = s.me.cur.widx ∧ (raiseBefore ws r s).me.cur.mask = s.me.cur.mask ∧
    (hasRing s = false → (raiseBefore ws r s).me.killing = true ∧ (raiseBefore ws r s).kernel = s.kernel) ∧
    (hasRing s = true → ringRoom s = true → s.kernel.waitingFaults = [] →
      (raiseBefore ws r s).kernel.fqprod = s.kernel.fqprod + 1 ∧
      ∃ e, tget? (raiseBefore ws r s).kernel.written s.kernel.fqprod.toNat = some e ∧ e.cause = causeCode r.cause ∧
        e.detail = r.detail % 256 ∧ e.addr = r.addr ∧ e.arg = r.arg ∧ e.tmask = r.threads ∧
        e.handle = s.me.who.id.handle ∧ e.epc = position s.me.cur.hdr s.me.cur.widx ∧
        e.parks = some (s.me.who.id, s.me.cur.id)) ∧
    (hasRing s = true → ringRoom s = false →
      (raiseBefore ws r s).kernel.fqprod = s.kernel.fqprod ∧
      ∃ e, (raiseBefore ws r s).kernel.waitingFaults = s.kernel.waitingFaults ++ [e] ∧ e.cause = causeCode r.cause)

/-- 06 R163, 09 R289, 14 R350: a user context that names a package-kernel register or a service function raises PRIVILEGE with
that number, and does nothing else. Model's choices: that an unassigned service number is barred too (log 60). -/
def Obligations.PrivilegeRaised : Prop :=
  (∀ (d : Reg) (nw : Bool) (sr : SReg) (s : State), isKernelReg sr = true → isKernel s s.me = false →
    comesToIssue (rdsrNeed s d nw sr) s = true → delivers s = true →
    RaisesBefore (.rdsr d nw sr) 0x02 0 (BitVec.ofNat 64 (sregNumber sr)) s) ∧
  (∀ (a : Sel) (sr : SReg) (s : State), isKernelReg sr = true → isKernel s s.me = false →
    comesToIssue (wrsrNeed s a sr) s = true → delivers s = true →
    RaisesBefore (.wrsr a sr) 0x02 0 (BitVec.ofNat 64 (sregNumber sr)) s) ∧
  (∀ (d : Reg) (nw : Bool) (n : BitVec 5) (r b : Reg) (s : State), isKernel s s.me = false →
    comesToIssue (syscNeed d nw (.reg r) b) s = true → delivers s = true → r.toNat < s.me.allotV →
    regBusy s s.me.who.id r.toNat = false → ((reg s r).at (lowest s.me.cur.mask)).toNat % 4096 = 0x100 + n.toNat →
    RaisesBefore (.sysc d nw (.reg r) b) 0x02 0 (BitVec.ofNat 64 (0x100 + n.toNat)) s)

/-- 02 R46; 06 R150; 07 R194, R202, R203; 09 R287, R288; 14 R355: the misuses of `xmwr`, `eret` and `role`, and a register at
or above V, raise OPERAND_MISUSE; `ret` and `jr` to a code address that is no multiple of 4 raise ALIGNMENT 2 with the
address; `jr` to an address of 2^52 or more parks with TRANSLATION. Model's choices: where a misaligned target is raised (log
54, 62). -/
def Obligations.MisusesRaised : Prop :=
  (∀ s : State, transfers (plainNeed .ret [] []) s = true → delivers s = true → s.me.lr.toNat % 4 ≠ 0 →
    RaisesBefore .ret 0x03 2
      (BitVec.ofNat 64 (s.me.cur.wordAddr.toNat / 2 ^ 32 * 2 ^ 32 + s.me.lr.toNat)) s) ∧
  (∀ (a : Reg) (s : State), transfers (plainNeed (.jr a) [a, nextReg a 1] []) s = true → delivers s = true →
    (pairAt s a (lowest s.me.cur.mask)).toNat % 4 ≠ 0 →
    ∃ t u, exec (.jr a) s = .next t ∧ OnlyFragment [] s u ∧
      EntersHandler 0x03 2 (pairAt s a (lowest s.me.cur.mask)) (position s.me.cur.hdr s.me.cur.widx)
        (encodeWords (.jr a)) s.me.cur.head u t) ∧
  (∀ (a : Reg) (s : State), transfers (plainNeed (.jr a) [a, nextReg a 1] []) s = true →
    (pairAt s a (lowest s.me.cur.mask)).toNat % 4 = 0 → 2 ^ 52 ≤ (pairAt s a (lowest s.me.cur.mask)).toNat →
    ∃ t, exec (.jr a) s = .next t ∧ t.me.cur.wait = .parked (nextFault s) ∧ t.me.cur.hdr = s.me.cur.hdr ∧
      t.me.cur.widx = s.me.cur.widx) ∧
  (∀ (a : Sel) (s : State), executes (plainNeed (.xmwr a) [] [a]) s = true → delivers s = true → selPops [a] = [] →
    s.me.cur.parent = none → s.me.serials = [] →
    (s.me.cur.mask &&& operand s [a] 0 (lowest s.me.cur.mask)) ≠ 0 →
    (s.me.cur.mask &&& operand s [a] 0 (lowest s.me.cur.mask)) ≠ s.me.cur.mask →
    ∃ t u, exec (.xmwr a) s = .next t ∧ OnlyFragment [] s u ∧
      EntersHandler 0x0A 7 ((operand s [a] 0 (lowest s.me.cur.mask)).setWidth 64)
        (position s.me.cur.hdr s.me.cur.widx) (encodeWords (.xmwr a)) s.me.cur.head u t) ∧
  (∀ s : State, transfers (plainNeed .eret [] []) s = true → handlerActive s.me = false → delivers s = true →
    RaisesBefore .eret 0x0A 8 0 s) ∧
  (∀ (a : Sel) (s : State), executes (plainNeed (.role a) [] [a]) s = true → delivers s = true → selPops [a] = [] →
    s.me.place.isCtl = true →
    ∃ t u, exec (.role a) s = .next t ∧ OnlyFragment [] s u ∧
      EntersHandler 0x0A 5 ((operand s [a] 0 (lowest s.me.cur.mask)).setWidth 64)
        (position s.me.cur.hdr s.me.cur.widx) (encodeWords (.role a)) s.me.cur.head u t) ∧
  (∀ (d r : Reg) (nw : Bool) (s : State), comesToIssue (vecNeed (.mov d nw (.reg r)) d [.reg r]) s = true →
    delivers s = true → d.toNat < s.me.allotV → s.me.allotV ≤ r.toNat →
    RaisesBefore (.mov d nw (.reg r)) 0x0A 1 (BitVec.ofNat 64 r.toNat) s) ∧
  (∀ (d r : Reg) (nw : Bool) (s : State), comesToIssue (vecNeed (.mov d nw (.reg r)) d [.reg r]) s = true →
    delivers s = true → s.me.allotV ≤ d.toNat →
    RaisesBefore (.mov d nw (.reg r)) 0x0A 1 (BitVec.ofNat 64 d.toNat) s)

/-- 02 R34, R35; 06 R156: under an empty mask, once no register that it names waits for a load, an instruction that computes in registers writes no register, predicate or flag and makes
no pop; its latch takes the value that d keeps, and its pc advances. Model's choices: the tag of the kept value in the latch
(log 55). -/
def Obligations.EmptyMaskDoesNothing : Prop :=
  ∀ (i : Instr) (d : Reg) (nw : Bool) (sels : List Sel) (res : State → List RegVal → RegVal × FlagSet) (s : State),
    mayIssue s = true → s.me.cur.begun = .no → misplaced (vecNeed i d sels) s = false → s.me.cur.mask = 0 →
    (regsHeld (vecNeed i d sels) s = true → vecOp i d nw sels res s = s) ∧
    (regsHeld (vecNeed i d sels) s = false →
    (vecOp i d nw sels res s).me.regs = s.me.regs ∧ (vecOp i d nw sels res s).me.preds = s.me.preds ∧
    (vecOp i d nw sels res s).me.fflags = s.me.fflags ∧ (vecOp i d nw sels res s).mem = s.mem ∧
    (vecOp i d nw sels res s).me.cur.mask = 0 ∧
    LatchesPast (vecNeed i d sels) (some (fun th => (reg s d).at th)) s (vecOp i d nw sels res s) ∧
    pastPc (encodeWords i).length s.me.cur (vecOp i d nw sels res s).me.cur)

/-! ### Memory instructions at issue -/

namespace Sys2Proof.Claims

open Sys2Proof Sys2Proof.Machine

/-- Whether a byte of the core scratchpads is part of the HEAD of a queue that the instruction pops. -/
def popHead (s : State) (sels : List Sel) (x : Nat) : Prop :=
  ∃ q ∈ selPops sels, ∃ b, binding s.me q = some b ∧
    ∃ h, scratchAddr s s.me b.quadSpace b.offset.toNat = some h ∧ h ≤ x ∧ x < h + 4

/-- The walk of a glob address meets no home that serves no read now: a unit under rebuild, or the units of a lost stack before they
are settled (15 R376, R381). -/
def translates (s : State) (va : DWord) : Bool := !walkHeld s s.me.place.agent s.me.who.context va.toNat

/-- Every active thread's glob address is aligned, its translation need not wait for a home (15 R376, R381), and it resolves for
the access (04 R97–R101; 08 R211). -/
def Resolves (s : State) (cls : AccClass) (size : Nat) (va : Fin 32 → DWord) (fab : Fin 32 → Nat)
    (leaf : Fin 32 → DWord) : Prop :=
  ∀ th, activeIn s th = true → (va th).toNat % size = 0 ∧ translates s (va th) = true ∧
    ∃ l, resolve s s.me.place.agent s.me.who.context cls size (va th) = .ok (fab th) (leaf th) l

/-- Every active thread's die-space address is aligned and lies in a window of the context (04 R89). -/
def ResolvesDie (s : State) (write : Bool) (size : Nat) (va : Fin 32 → DWord) (fab : Fin 32 → Nat)
    (leaf : Fin 32 → DWord) : Prop :=
  ∀ th, activeIn s th = true → (va th).toNat % size = 0 ∧ leaf th = 0 ∧
    resolveDie s s.me.who.context size write (va th) = some (fab th)

/-- The accesses of an operation serve the active threads, each one's address and data as given, and none is made yet: one
access for the strand when its sources are all U, else one for each active thread (08 R213, R225). -/
def Serves (s : State) (u : Bool) (accs : List Access) (size : Nat) (va : Fin 32 → DWord) (fab : Fin 32 → Nat)
    (leaf : Fin 32 → DWord) (data : Fin 32 → BitVec 128) (din : Fin 32 → DWord) : Prop :=
  (∀ th, activeIn s th = true → ∃ a ∈ accs, a.threads.getLsbD th.val = true ∧ a.va = va th ∧ a.fab = fab th ∧
    a.size = size ∧ a.kind = field (leaf th).toNat 8 6 ∧ a.data = data th ∧ a.din = din th) ∧
  (∀ a ∈ accs, a.state = .waiting) ∧
  (if u then ∃ a, accs = [a] ∧ a.threads = s.me.cur.mask
   else accs.map (fun a => a.threads) = ((List.finRange 32).filter (activeIn s)).map oneThread)

/-- An operation has become outstanding; the registers, predicates, flags and all data in memory stay but for the pops. -/
structure Launched (n : Need) (o : Op) (s t : State) : Prop where
  rest : t = { s with
    me := { s.me with
      resident := t.me.resident
      qstatus := t.me.qstatus
      cur := t.me.cur }
    mem := { s.mem with
      scratch := t.mem.scratch
      ops := s.mem.ops ++ [o]
      nextOp := s.mem.nextOp + 1
      copies := t.mem.copies
      tlb := t.mem.tlb } }
  pops : OnlyPops n.sels s t
  who : o.id = s.mem.nextOp ∧ o.owner = s.me.who.id ∧ o.frag = s.me.cur.id ∧ o.pc = s.me.cur.hdr ∧
    o.widx = s.me.cur.widx ∧ o.die = s.me.place.die

/-- An instruction that owes results goes on at once, or waits at its place for a reply: of another package, of a home that
may have to fetch a staged unit, or of one that refuses the access (06 R144; 14 R347, R348; log 35). -/
def Goes (n : Need) (o : Op) (atLender : Bool) (s t : State) : Prop :=
  if o.accs.any (awaited s atLender) then
    t.me.cur.wait = .reply o.id ∧ t.me.cur.begun = .sent o.id ∧ t.me.cur.hdr = s.me.cur.hdr ∧
      t.me.cur.widx = s.me.cur.widx ∧ t.me.cur.mask = s.me.cur.mask
  else FragmentPast n.words.length s t ∧ LatchesPast n none s t

/-- A load to the glob or the die space becomes outstanding and owes its registers. -/
def LoadGoesOut (mk : Reg → MemAddr → Width → BitVec 6 → Instr) (what : Width → OpKind) (atLender : Bool) : Prop :=
  ∀ (r a : Reg) (wd : Width) (off : BitVec 6) (dieSpace : Bool) (s : State) (fab : Fin 32 → Nat) (leaf : Fin 32 → DWord),
    let addr := if dieSpace then MemAddr.die a else MemAddr.glob a
    let n := memNeed (mk r addr wd off) (widthRegs wd r) addr true
    let va := fun th => pairAt s a th + BitVec.ofNat 64 (off.toNat * widthBytes wd)
    executes n s = true →
    (if dieSpace then ResolvesDie s false (widthBytes wd) va fab leaf else Resolves s .load (widthBytes wd) va fab leaf) →
    outLoads s s.me.who.id < 63 → inFlight s s.me.who.id < 63 →
    ∃ t o, exec (mk r addr wd off) s = .next t ∧ Launched n o s t ∧ Goes n o atLender s t ∧ t.mem.copies = s.mem.copies ∧
      o.what = what wd ∧ o.dst = r ∧ o.holds = true ∧ o.gate = false ∧ o.uniform = pairU s a ∧
      o.remote = o.accs.any (servedAway s atLender) ∧
      Serves s (pairU s a) o.accs (widthBytes wd) va fab leaf (fun _ => 0) (fun _ => 0)

end Sys2Proof.Claims

/-- 06 R144; 08 R211–R216; 14 R348: `ld` and `ldv` of the glob and die spaces issue one access for a U address and one for
each active thread otherwise, and owe their registers; `pf` brings the lines that its die may keep, asks other packages for
theirs, and has no effect when it would fault. Model's choices: which loads are awaited (log 35). -/
def Obligations.LoadsIssue : Prop :=
  LoadGoesOut Instr.ld OpKind.load false ∧ LoadGoesOut Instr.ldv OpKind.loadv true ∧
  (∀ (a : Reg) (wd : Width) (off : BitVec 6) (s : State) (fab : Fin 32 → Nat) (leaf : Fin 32 → DWord),
    let n := memNeed (.pf (.glob a) wd off) [] (.glob a) false
    let va := fun th => pairAt s a th + BitVec.ofNat 64 (off.toNat * widthBytes wd)
    executes n s = true → (∀ th, activeIn s th = true → translates s (va th) = true) →
    ∃ t, exec (.pf (.glob a) wd off) s = .next t ∧ FragmentPast n.words.length s t ∧ LatchesPast n none s t ∧
      t.me = { s.me with
        resident := t.me.resident
        cur := t.me.cur } ∧
      ((∃ th, activeIn s th = true ∧ (va th).toNat % widthBytes wd ≠ 0) → t = { s with me := t.me }) ∧
      ((∃ th c d at_ arg, activeIn s th = true ∧
          resolve s s.me.place.agent s.me.who.context .prefetch (widthBytes wd) (va th) = .bad c d at_ arg) →
        t = { s with me := t.me }) ∧
      (Resolves s .prefetch (widthBytes wd) va fab leaf →
        (∀ th, activeIn s th = true → peekPoisoned s (fab th) (widthBytes wd) = false ∧
          field (leaf th).toNat 8 6 ≠ 2 ∧ field (leaf th).toNat 8 6 ≠ 4) →
        let brings := fun th => activeIn s th = true ∧ field (leaf th).toNat 14 13 ≠ 3 ∧
          peekRefused s (fab th) (widthBytes wd) = false ∧
          copyable s s.me.place.die (fab th) (field (leaf th).toNat 8 6) (field (leaf th).toNat 10 9) = true
        let asked := fun th => brings th ∧ isLocal s (fab th) = false ∧ nearCopy? s s.me.place.die (fab th / 128) = none
        t = { s with
          me := t.me
          fresh := t.fresh
          mem := { s.mem with
            copies := t.mem.copies
            ops := t.mem.ops
            nextOp := t.mem.nextOp } } ∧
        ((∀ th, ¬ asked th) → t.mem.ops = s.mem.ops ∧ t.mem.nextOp = s.mem.nextOp) ∧
        ((∃ th, asked th) → t.mem.nextOp = s.mem.nextOp + 1 ∧ ∃ o, t.mem.ops = s.mem.ops ++ [o] ∧ o.id = s.mem.nextOp ∧
          o.owner = s.me.who.id ∧ o.die = s.me.place.die ∧ o.what = .load wd ∧ o.holds = false ∧
          (∀ a ∈ o.accs, a.state = .waiting ∧ ∃ th, asked th ∧ a.fab = fab th) ∧
          ∀ th, asked th → pairU s a = false → ∃ a ∈ o.accs, a.fab = fab th) ∧
        (∀ die line, (die ≠ s.me.place.die ∨ ∀ th, brings th → fab th / 128 ≠ line) →
          nearCopy? t die line = nearCopy? s die line) ∧
        ∀ th, brings th →
          let line := fab th / 128
          (∀ c, nearCopy? s s.me.place.die line = some c → nearCopy? t s.me.place.die line = some c) ∧
          (nearCopy? s s.me.place.die line = none → isLocal s (fab th) = true →
            homeHeld s (fabLocal (fab th)) (widthBytes wd) = false →
            nearCopy? t s.me.place.die line = some ⟨s.me.place.die, line,
              withAccepted s s.me.place.die none s.mem.nextOp (line * 128) (memRead s.mem.bytes (fabLocal (line * 128)) 128),
              s.tick⟩)))

namespace Sys2Proof.Claims

open Sys2Proof Sys2Proof.Machine

/-- Word `k` of a load whose bytes, little-endian, are the number `x` (08 R212). -/
def loaded (wd : Width) (x k : Nat) : Word :=
  match wd with
  | .bs => (BitVec.ofNat 8 x).signExtend 32
  | .hs => (BitVec.ofNat 16 x).signExtend 32
  | _ => BitVec.ofNat 32 (x / 2 ^ (32 * k))

/-- Whether an address operand names the lane, core or quad space. -/
def scratchSpace : MemAddr → Bool
  | .lane _ | .core _ | .quad _ => true
  | _ => false

/-- A thread's address in the lane, core or quad space (08 R211). -/
def scratchVa (s : State) (addr : MemAddr) (off : Nat) (th : Fin 32) : DWord :=
  (operand s (addrSels addr) 0 th + BitVec.ofNat 32 off).setWidth 64

/-- Every active thread's address is aligned and lies in the region; `place` is the scratch memory and the address there
(04 R86–R88). -/
def Placed (s : State) (addr : MemAddr) (off size : Nat) (place : Fin 32 → Nat × Nat) : Prop :=
  ∀ th, activeIn s th = true → (scratchVa s addr off th).toNat % size = 0 ∧
    scratchPlace s addr (scratchVa s addr off th).toNat size = some (place th)

/-- A load of the lane, core or quad space writes its registers at issue, U of a U address under a full mask (02 R28, R30). -/
def ScratchLoad (mk : Reg → MemAddr → Width → BitVec 6 → Instr) : Prop :=
  ∀ (r : Reg) (addr : MemAddr) (wd : Width) (off : BitVec 6) (s : State) (place : Fin 32 → Nat × Nat),
    let n := memNeed (mk r addr wd off) (widthRegs wd r) addr true
    scratchSpace addr = true → executes n s = true →
    Placed s addr (off.toNat * widthBytes wd) (widthBytes wd) place →
    (∀ th, activeIn s th = true → scratchPoisoned s (place th).1 (place th).2 (widthBytes wd) = false) →
    ∃ t, exec (mk r addr wd off) s = .next t ∧ Computed n (widthRegs wd r) s t ∧ LatchesPast n none s t ∧ t.me.preds = s.me.preds ∧
      t.me.fflags = s.me.fflags ∧
      (∀ k, k < (widthRegs wd r).length → ∀ th, (reg t (nextReg r k)).at th =
        if activeIn s th then
          loaded wd (memNat (scratchOf s (place th).1) (place th).2 (widthBytes wd)) k
        else (reg s (nextReg r k)).at th) ∧
      ∀ k, k < (widthRegs wd r).length → (reg t (nextReg r k)).tagNo =
        if s.me.cur.mask = BitVec.allOnes 32 ∧ ((selVals s [] (addrSels addr)).getD 0 (.u 0)).isU = true then 0 else 2

/-- Whether a thread's store covers a byte of a scratch memory. -/
def stores (place : Fin 32 → Nat × Nat) (size : Nat) (th : Fin 32) (kind x : Nat) : Prop :=
  (place th).1 = kind ∧ (place th).2 ≤ x ∧ x < (place th).2 + size

/-- Byte `j` of the data of a thread: the registers in ascending order, little-endian (08 R212). -/
def dataByte (s : State) (r : Reg) (th : Fin 32) (j : Nat) : Byte :=
  ((reg s (nextReg r (j / 4))).at th).extractLsb' (8 * (j % 4)) 8

end Sys2Proof.Claims

/-- 08 R211–R213; 04 R86–R88: loads and stores of the lane, core and quad spaces are made at issue, stores in ascending thread
order, so that the highest active thread that covers a byte gives it. Every other byte stays. Model's choices: that scratch
accesses take effect at issue, and POISON of scratch (log 46, 53). -/
def Obligations.ScratchAccesses : Prop :=
  ScratchLoad Instr.ld ∧ ScratchLoad Instr.ldv ∧
  (∀ (addr : MemAddr) (wd : Width) (off : BitVec 6) (s : State),
    (∀ r, addr ≠ .glob r) → executes (memNeed (.pf addr wd off) [] addr false) s = true →
    ∃ t, exec (.pf addr wd off) s = .next t ∧
      Computed (memNeed (.pf addr wd off) [] addr false) [] s t ∧ LatchesPast (memNeed (.pf addr wd off) [] addr false) none s t ∧
      t.me.preds = s.me.preds ∧
      t.me.fflags = s.me.fflags ∧ t.opLog = s.opLog) ∧
  (∀ (r : Reg) (addr : MemAddr) (wd : Width) (off : BitVec 6) (s : State) (place : Fin 32 → Nat × Nat),
    let n := memNeed (.st r addr wd off) (widthRegs wd r) addr false
    let size := widthBytes wd
    scratchSpace addr = true → executes n s = true → isPaired s s.me = false → memoriesWf s = true →
    Placed s addr (off.toNat * size) size place →
    ∃ t, exec (.st r addr wd off) s = .next t ∧ FragmentPast n.words.length s t ∧ LatchesPast n none s t ∧
      t = { s with
        me := { s.me with
          resident := t.me.resident
          qstatus := t.me.qstatus
          cur := t.me.cur }
        mem := { s.mem with
          scratch := t.mem.scratch
          slices := t.mem.slices
          poisonedScratch := t.mem.poisonedScratch } } ∧
      (∀ p ∈ t.mem.poisonedScratch, p ∈ s.mem.poisonedScratch) ∧
      (∀ kind x, kind = 1 ∨ kind = 2 ∧ ¬ popHead s n.sels x →
        ((∀ th, activeIn s th = true → ¬ stores place size th kind x) →
          memByte (scratchOf t kind) x = memByte (scratchOf s kind) x) ∧
        ∀ th, activeIn s th = true → stores place size th kind x →
          (∀ u, activeIn s u = true → th < u → ¬ stores place size u kind x) →
          memByte (scratchOf t kind) x = dataByte s r th (x - (place th).2)))

namespace Sys2Proof.Claims

open Sys2Proof Sys2Proof.Machine

/-- Records have entered the executing strand's window; with 4,096 of them it closes: their sum is its signature, and the rest
begins the next window (16 R412, R413). -/
def EntersWindow (l : List (BitVec 128)) (s t : State) : Prop :=
  let w := s.me.window ++ l
  (w.length < 4096 → t.me.window = w ∧ t.me.windowSig = s.me.windowSig ∧ t.me.windowEnd = s.me.windowEnd) ∧
  (4096 ≤ w.length → t.me.window = w.drop 4096 ∧ t.me.windowSig = some (windowSignature (w.take 4096)) ∧
    t.me.windowAt = s.tick)

end Sys2Proof.Claims

/-- 08 R211–R213, R217; 06 R144; 16 R412–R414: `st` of the glob and die spaces becomes outstanding and the fragment goes on;
a U address gives one store, of G data the highest active thread's. The store of a paired strand is held in its window,
which takes its records; with 4,096 the window closes, and the writes beyond them belong to the next; while a window is
compared the strand waits. Model's choices: which of a store's writes belong to a window that closes inside it (log 77). -/
def Obligations.StoresIssue : Prop :=
  ∀ (r a : Reg) (wd : Width) (off : BitVec 6) (dieSpace : Bool) (s : State) (fab : Fin 32 → Nat) (leaf : Fin 32 → DWord),
    let addr := if dieSpace then MemAddr.die a else MemAddr.glob a
    let n := memNeed (.st r addr wd off) (widthRegs wd r) addr false
    let va := fun th => pairAt s a th + BitVec.ofNat 64 (off.toNat * widthBytes wd)
    let from_ := fun th => if pairU s a then (if dataU s wd r then lowest s.me.cur.mask else highest s.me.cur.mask) else th
    executes n s = true →
    (if dieSpace then ResolvesDie s true (widthBytes wd) va fab leaf else Resolves s .store (widthBytes wd) va fab leaf) →
    outStores s s.me.who.id < 63 → inFlight s s.me.who.id < 63 →
    (isPaired s s.me = false →
      ∃ t o, exec (.st r addr wd off) s = .next t ∧ Launched n o s t ∧ FragmentPast n.words.length s t ∧
        LatchesPast n none s t ∧
        (∀ c ∈ t.mem.copies, c.die ≠ s.me.place.die → c ∈ s.mem.copies) ∧
        o.what = .store ∧ o.holds = false ∧ o.gate = false ∧ o.windowed = false ∧
        Serves s (pairU s a) o.accs (widthBytes wd) va fab leaf (fun th => dataOf s wd r (from_ th)) (fun _ => 0)) ∧
    (isPaired s s.me = true → s.me.windowSig = none →
      ∃ t os, exec (.st r addr wd off) s = .next t ∧
        t = { s with
          me := { s.me with
            resident := t.me.resident
            qstatus := t.me.qstatus
            cur := t.me.cur
            window := t.me.window
            windowSig := t.me.windowSig
            windowAt := t.me.windowAt
            windowEnd := t.me.windowEnd }
          mem := { s.mem with
            scratch := t.mem.scratch
            ops := s.mem.ops ++ os
            nextOp := s.mem.nextOp + os.length
            tlb := t.mem.tlb } } ∧
        OnlyPops n.sels s t ∧ FragmentPast n.words.length s t ∧ LatchesPast n none s t ∧
        (∀ o ∈ os, o.owner = s.me.who.id ∧ o.frag = s.me.cur.id ∧ o.die = s.me.place.die ∧ o.what = .store ∧
          o.holds = false ∧ o.gate = false ∧ o.windowed = true) ∧
        Serves s (pairU s a) (os.flatMap (fun o => o.accs)) (widthBytes wd) va fab leaf
          (fun th => dataOf s wd r (from_ th)) (fun _ => 0) ∧
        EntersWindow (os.flatMap (fun o => o.accs.flatMap (fun a =>
          recordsOf a.data 0 a.size (if dieSpace then 4 else 0) a.fab))) s t ∧
        (t.me.windowSig = none → os.length = 1) ∧
        (t.me.windowSig ≠ none → (os.filter (fun o => decide (o.id < t.me.windowEnd))).flatMap (fun o => o.accs) =
          (os.flatMap (fun o => o.accs)).take ((4096 - s.me.window.length) / (if widthBytes wd = 16 then 2 else 1)))) ∧
    (isPaired s s.me = true → s.me.windowSig.isSome = true →
      ∃ t, exec (.st r addr wd off) s = .next t ∧ WaitsForWindow n s t ∧ t.me.window = s.me.window ∧
        t.me.windowSig = s.me.windowSig)

namespace Sys2Proof.Claims

open Sys2Proof Sys2Proof.Machine

/-- The one address of an instruction that acts once for the strand. -/
def onceVa (s : State) (a : Reg) : DWord := pairAt s a (lowest s.me.cur.mask)

/-- The one request of such an instruction is aligned and resolves. -/
def ResolvesOnce (s : State) (cls : AccClass) (size : Nat) (a : Reg) (fab : Nat) (leaf : DWord) : Prop :=
  (onceVa s a).toNat % size = 0 ∧ translates s (onceVa s a) = true ∧
    ∃ l, resolve s s.me.place.agent s.me.who.context cls size (onceVa s a) = .ok fab leaf l

/-- The one access of such an operation serves every active thread. -/
def ServesOnce (s : State) (accs : List Access) (size : Nat) (va : DWord) (fab : Nat) (leaf : DWord)
    (data : BitVec 128) : Prop :=
  ∃ x, accs = [x] ∧ x.threads = s.me.cur.mask ∧ x.va = va ∧ x.fab = fab ∧ x.size = size ∧
    x.kind = field leaf.toNat 8 6 ∧ x.data = data ∧ x.state = .waiting

/-- What an acquire or a release asks at issue. -/
def acqNeed (d a : Reg) (scope : Scope) : Need :=
  { words := encodeWords (.acq d a scope), regs := [d, a, nextReg a 1], uses := [a, nextReg a 1], memory := true,
    blocking := true }

/-- The same of `rel`. -/
def relNeed (a : Reg) (b : Sel) (scope : Scope) : Need :=
  { words := encodeWords (.rel a b scope), regs := [a, nextReg a 1], uses := [a, nextReg a 1], sels := [b],
    memory := true, releasing := true }

/-- The same of `acqrel`. -/
def acqrelNeed (d a : Reg) (b : Sel) (scope : Scope) : Need :=
  { words := encodeWords (.acqrel d a b scope), regs := [d, a, nextReg a 1], uses := [a, nextReg a 1], sels := [b],
    memory := true, blocking := true, releasing := true }

/-- The same of `fence`. -/
def fenceNeed (scope : Scope) : Need := { words := encodeWords (.fence scope), memory := true, releasing := true }

end Sys2Proof.Claims

/-- 08 R218–R221; 06 R144; 16 R412–R414: `acq` owes its register, which holds later memory instructions; `rel` becomes an outstanding
store that waits for the earlier ones while the strand goes on; `acqrel` is both; a `fence` of a scope other than `lane`
becomes outstanding and holds later memory instructions. In a paired strand the three that release close the window first; once it
has matched, a `rel` adds its record and its store goes out at the primary twin alone. Model's choices: which accesses the
instruction awaits (log 35), and into which window the record of a release goes (log 77). -/
def Obligations.AcquiresAndReleases : Prop :=
  (∀ (d a : Reg) (scope : Scope) (s : State) (fab : Nat) (leaf : DWord),
    executes (acqNeed d a scope) s = true → ResolvesOnce s .load 8 a fab leaf →
    outLoads s s.me.who.id < 63 → inFlight s s.me.who.id < 63 →
    ∃ t o, exec (.acq d a scope) s = .next t ∧ Launched (acqNeed d a scope) o s t ∧ Goes (acqNeed d a scope) o true s t ∧
      t.mem.copies = s.mem.copies ∧ o.what = .acq ∧ o.dst = d ∧ o.scope = scope ∧ o.holds = true ∧ o.gate = false ∧
      o.remote = o.accs.any (servedAway s true) ∧ ServesOnce s o.accs 8 (onceVa s a) fab leaf 0) ∧
  (∀ (d a : Reg) (b : Sel) (scope : Scope) (s : State), isPaired s s.me = true →
    (executes (relNeed a b scope) s = true → ClosesWindow (.rel a b scope) (relNeed a b scope) s) ∧
    (executes (acqrelNeed d a b scope) s = true → ClosesWindow (.acqrel d a b scope) (acqrelNeed d a b scope) s) ∧
    (executes (fenceNeed scope) s = true → ClosesWindow (.fence scope) (fenceNeed scope) s)) ∧
  (∀ (a : Reg) (b : Sel) (scope : Scope) (s : State) (fab : Nat) (leaf : DWord), isPaired s s.me = true →
    mayIssue s = true → s.me.cur.begun = .matched → ResolvesOnce s .store 8 a fab leaf → outStores s s.me.who.id < 63 →
    s.me.window.length < 4095 →
    let data := (operand s [b] 0 (lowest s.me.cur.mask)).setWidth 128
    ∃ t, exec (.rel a b scope) s = .next t ∧ t.me.window = s.me.window ++ recordsOf data 0 8 0 fab ∧
      t.me.cur.begun = .no ∧ FragmentPast 1 s t ∧ t.me.regs = s.me.regs ∧ t.mem.bytes = s.mem.bytes ∧
      (s.me.who.twin = true → t.mem.ops = s.mem.ops) ∧
      (s.me.who.twin = false → ∃ o, t.mem.ops = s.mem.ops ++ [o] ∧ o.what = .rel ∧ o.scope = scope ∧ o.gate = true ∧
        o.windowed = false ∧ ServesOnce s o.accs 8 (onceVa s a) fab leaf data)) ∧
  (∀ (a : Reg) (b : Sel) (scope : Scope) (s : State) (fab : Nat) (leaf : DWord),
    executes (relNeed a b scope) s = true → isPaired s s.me = false →
    ResolvesOnce s .store 8 a fab leaf → outStores s s.me.who.id < 63 →
    ∃ t o, exec (.rel a b scope) s = .next t ∧ Launched (relNeed a b scope) o s t ∧ FragmentPast 1 s t ∧
      LatchesPast (relNeed a b scope) none s t ∧
      t.mem.copies = s.mem.copies ∧ o.what = .rel ∧ o.scope = scope ∧ o.holds = false ∧ o.gate = true ∧
      ServesOnce s o.accs 8 (onceVa s a) fab leaf ((operand s [b] 0 (lowest s.me.cur.mask)).setWidth 128)) ∧
  (∀ (d a : Reg) (b : Sel) (scope : Scope) (s : State) (fab : Nat) (leaf : DWord),
    executes (acqrelNeed d a b scope) s = true → isPaired s s.me = false → ResolvesOnce s .atomic 8 a fab leaf →
    outLoads s s.me.who.id < 63 → outStores s s.me.who.id < 63 →
    ∃ t o, exec (.acqrel d a b scope) s = .next t ∧ Launched (acqrelNeed d a b scope) o s t ∧
      Goes (acqrelNeed d a b scope) o true s t ∧ t.mem.copies = s.mem.copies ∧ o.what = .acqrel ∧ o.dst = d ∧
      o.scope = scope ∧ o.holds = true ∧ o.gate = true ∧ o.remote = o.accs.any (servedAway s true) ∧
      ServesOnce s o.accs 8 (onceVa s a) fab leaf ((operand s [b] 0 (lowest s.me.cur.mask)).setWidth 128)) ∧
  (∀ (scope : Scope) (s : State),
    (executes (fenceNeed scope) s = true ∧ isPaired s s.me = false) ∨
      (isPaired s s.me = true ∧ mayIssue s = true ∧ s.me.cur.begun = .matched) →
    (scope = .lane ∨ outStores s s.me.who.id < 63) →
    ∃ t, exec (.fence scope) s = .next t ∧ FragmentPast 1 s t ∧ LatchesPast (fenceNeed scope) none s t ∧ t.mem.copies = s.mem.copies ∧
      (scope = .lane → OnlyFragment [] s t) ∧
      (scope ≠ .lane → ∃ o, Launched (fenceNeed scope) o s t ∧ o.what = .fence ∧ o.scope = scope ∧ o.gate = true ∧
        o.accs = []))

namespace Sys2Proof.Claims

open Sys2Proof Sys2Proof.Machine

/-- Whether a read-modify-write takes d as an input (08 R223, R224). -/
def takesInput (fn : AtomFn) : Bool := fn = .cas || fn = .badd

/-- What a 32-bit atomic asks at issue. -/
def atomic32Need (i : Instr) (fn : AtomFn) (d a : Reg) (b : Sel) (scope : Scope) : Need :=
  { words := encodeWords i, regs := [d] ++ (if fn = .badd then [nextReg d 1] else []) ++ [a, nextReg a 1],
    uses := (if takesInput fn then [d] else []) ++ [a, nextReg a 1], sels := [b],
    memory := true, blocking := true, releasing := scope != Scope.lane }

/-- The same of a 64-bit one. -/
def atomic64Need (i : Instr) (fn : AtomFn) (d a b : Reg) (scope : Scope) : Need :=
  { words := encodeWords i, regs := [d, nextReg d 1, a, nextReg a 1, b, nextReg b 1],
    uses := (if fn = .cas then [d, nextReg d 1] else []) ++ [a, nextReg a 1, b, nextReg b 1], memory := true, blocking := true,
    releasing := scope != Scope.lane }

/-- What every operation that owes results and acts on memory has in common. -/
def Owes (o : Op) (what : OpKind) (d : Reg) (scope : Scope) (gate : Bool) (s : State) : Prop :=
  o.what = what ∧ o.dst = d ∧ o.scope = scope ∧ o.holds = true ∧ o.gate = gate ∧
    o.remote = o.accs.any (servedAway s true)

/-- A 32-bit atomic becomes outstanding: one request for all-U sources, else one for each active thread (08 R225); at a
scope other than `lane` it waits as a release (08 R227), and in a paired strand closes the window first (16 R412). -/
def Atomic32 (mk : Reg → Reg → Sel → Scope → Instr) (fn : AtomFn) : Prop :=
  (∀ (d a : Reg) (b : Sel) (scope : Scope) (s : State), scope ≠ .lane → isPaired s s.me = true →
    executes (atomic32Need (mk d a b scope) fn d a b scope) s = true → (fn = .badd → d ≠ 63) →
    ClosesWindow (mk d a b scope) (atomic32Need (mk d a b scope) fn d a b scope) s) ∧
  ∀ (d a : Reg) (b : Sel) (scope : Scope) (s : State) (fab : Fin 32 → Nat) (leaf : Fin 32 → DWord),
    let n := atomic32Need (mk d a b scope) fn d a b scope
    let u := pairU s a && ((selVals s [] [b]).getD 0 (.u 0)).isU && (!takesInput fn || (reg s d).isU)
    executes n s = true → isPaired s s.me = false → (fn = .badd → d ≠ 63) →
    Resolves s .atomic 4 (pairAt s a) fab leaf → outLoads s s.me.who.id < 63 → outStores s s.me.who.id < 63 →
    ∃ t o, exec (mk d a b scope) s = .next t ∧ Launched n o s t ∧ Goes n o true s t ∧ t.mem.copies = s.mem.copies ∧
      Owes o (.atomic fn false) d scope (scope != Scope.lane) s ∧
      Serves s u o.accs 4 (pairAt s a) fab leaf (fun th => (operand s [b] 0 th).setWidth 128)
        (fun th => if takesInput fn then ((reg s d).at th).setWidth 64 else 0)

/-- The same of a 64-bit atomic. -/
def Atomic64 (mk : Reg → Reg → Reg → Scope → Instr) (fn : AtomFn) : Prop :=
  (∀ (d a b : Reg) (scope : Scope) (s : State), scope ≠ .lane → isPaired s s.me = true →
    executes (atomic64Need (mk d a b scope) fn d a b scope) s = true →
    ClosesWindow (mk d a b scope) (atomic64Need (mk d a b scope) fn d a b scope) s) ∧
  ∀ (d a b : Reg) (scope : Scope) (s : State) (fab : Fin 32 → Nat) (leaf : Fin 32 → DWord),
    let n := atomic64Need (mk d a b scope) fn d a b scope
    let u := pairU s a && pairU s b && (!decide (fn = .cas) || pairU s d)
    executes n s = true → isPaired s s.me = false →
    Resolves s .atomic 8 (pairAt s a) fab leaf → outLoads s s.me.who.id < 63 → outStores s s.me.who.id < 63 →
    ∃ t o, exec (mk d a b scope) s = .next t ∧ Launched n o s t ∧ Goes n o true s t ∧ t.mem.copies = s.mem.copies ∧
      Owes o (.atomic fn true) d scope (scope != Scope.lane) s ∧
      Serves s u o.accs 8 (pairAt s a) fab leaf (fun th => (pairAt s b th).setWidth 128)
        (fun th => if fn = .cas then pairAt s d th else 0)

/-- What an accumulate asks at issue. -/
def caddNeed (i : Instr) (a : Reg) (b : Sel) (scope : Scope) : Need :=
  { words := encodeWords i, regs := [a, nextReg a 1], uses := [a, nextReg a 1], sels := [b], memory := true,
    releasing := scope != Scope.lane }

/-- An accumulate is posted to a range of its format and operation: it owes no register (08 R229); at a scope other than `lane` it
closes the window of a paired strand first (16 R412). -/
def Accumulates (mk : Reg → Sel → Scope → Instr) (fmt : CFmt) (isMax : Bool) : Prop :=
  (∀ (a : Reg) (b : Sel) (scope : Scope) (s : State), scope ≠ .lane → isPaired s s.me = true →
    executes (caddNeed (mk a b scope) a b scope) s = true →
    ClosesWindow (mk a b scope) (caddNeed (mk a b scope) a b scope) s) ∧
  ∀ (a : Reg) (b : Sel) (scope : Scope) (s : State) (fab : Fin 32 → Nat) (leaf : Fin 32 → DWord),
    let n := caddNeed (mk a b scope) a b scope
    let u := pairU s a && ((selVals s [] [b]).getD 0 (.u 0)).isU
    executes n s = true → isPaired s s.me = false → Resolves s .cadd (cfmtSize fmt) (pairAt s a) fab leaf →
    (∀ th, activeIn s th = true → rangeMatches (rangeDesc s (field (leaf th).toNat 63 52)) fmt isMax = true) →
    outLoads s s.me.who.id < 63 → outStores s s.me.who.id < 63 →
    ∃ t o, exec (mk a b scope) s = .next t ∧ Launched n o s t ∧ FragmentPast 1 s t ∧ LatchesPast n none s t ∧ t.mem.copies = s.mem.copies ∧
      o.what = .cadd fmt isMax ∧ o.scope = scope ∧ o.holds = false ∧ o.gate = (scope != Scope.lane) ∧
      Serves s u o.accs (cfmtSize fmt) (pairAt s a) fab leaf
        (fun th => BitVec.ofNat 128 ((operand s [b] 0 th).toNat % 2 ^ (8 * cfmtSize fmt))) (fun _ => 0)

/-- What a decide-once instruction asks at issue. -/
def decideNeed (i : Instr) (d a : Reg) (more : List Reg) (sels : List Sel) (releasing : Bool) : Need :=
  { words := encodeWords i, regs := [d, nextReg d 1, nextReg d 2, nextReg d 3, a, nextReg a 1] ++ more,
    uses := [a, nextReg a 1] ++ more, sels := sels, memory := true, blocking := true, releasing := releasing, beyond := beyond d 4 }

/-- A decide-once instruction on cells without a reserved STATE becomes outstanding with its generation as an input; at a scope other
than `lane` it closes the window of a paired strand first (16 R412). -/
def Decides (i : Instr) (n : Need) (what : OpKind) (writes u : Bool) (d a : Reg) (scope : Scope)
    (data : Fin 32 → BitVec 128) (gen : Fin 32 → Word) (s : State) : Prop :=
  (scope ≠ .lane → isPaired s s.me = true → executes n s = true → ClosesWindow i n s) ∧
  ∀ (fab : Fin 32 → Nat) (leaf : Fin 32 → DWord),
    executes n s = true → isPaired s s.me = false → Resolves s .doc 16 (pairAt s a) fab leaf →
    (∀ th, activeIn s th = true → memNat s.mem.bytes (fabLocal (fab th) + 8) 8 < 2 ^ 63) →
    outLoads s s.me.who.id < 63 → outStores s s.me.who.id < 63 →
    ∃ t o, exec i s = .next t ∧ Launched n o s t ∧ Goes n o true s t ∧ t.mem.copies = s.mem.copies ∧
      Owes o what d scope (writes && scope != Scope.lane) s ∧
      Serves s u o.accs 16 (pairAt s a) fab leaf data (fun th => ((gen th).extractLsb' 0 30).setWidth 64)

/-- What `wwait` asks at issue; a 64-bit compare from a register reads its pair. -/
def watchNeed (d a : Reg) (b : Sel) (cmp : WCmp) (w64 dl : Bool) : Need :=
  let wideReg := match b with
    | .reg r => if w64 then [nextReg r 1] else []
    | _ => []
  { words := encodeWords (.wwait d a b cmp w64 dl), regs := [d, a, nextReg a 1] ++ wideReg,
    uses := [a, nextReg a 1] ++ wideReg, sels := [b], memory := true, blocking := true }

end Sys2Proof.Claims

/-- 08 R222–R227, R229, R230: atomics and accumulates become outstanding with one request for each distinct source, and write
nothing else at issue. At a scope other than `lane` one closes the window of a paired strand first (16 R412). Model's choices:
which accesses an atomic awaits (log 35). -/
def Obligations.AtomicsIssue : Prop :=
  Atomic32 Instr.aadd .add ∧ Atomic32 Instr.aand .and ∧ Atomic32 Instr.aor .or ∧ Atomic32 Instr.axor .xor ∧
  Atomic32 Instr.axchg .xchg ∧ Atomic32 Instr.amin .imin ∧ Atomic32 Instr.amax .imax ∧ Atomic32 Instr.anmin .nmin ∧
  Atomic32 Instr.anmax .nmax ∧ Atomic32 Instr.acas .cas ∧ Atomic32 Instr.ainc .inc ∧ Atomic32 Instr.abadd .badd ∧
  Atomic32 Instr.afadd .fadd ∧ Atomic32 Instr.afmax .fmax ∧ Atomic32 Instr.afaddBf16x2 .faddBf16x2 ∧
  Atomic64 Instr.aadd64 .add ∧ Atomic64 Instr.axchg64 .xchg ∧ Atomic64 Instr.acas64 .cas ∧
  Atomic64 Instr.amin64 .imin ∧ Atomic64 Instr.amax64 .imax ∧
  Accumulates Instr.caddF32 .f32 false ∧ Accumulates Instr.caddBf16 .bf16 false ∧
  Accumulates Instr.caddF16 .f16 false ∧ Accumulates Instr.caddI32 .i32 false ∧ Accumulates Instr.cmaxF32 .f32 true

/-- 08 R225, R233, R236–R239: decide-once instructions and watches become outstanding; the fragment of a `wwait` waits at its
place for the reply. At a scope other than `lane` a decision closes the window of a paired strand first (16 R412). Model's
choices: which accesses a decision awaits (log 35). -/
def Obligations.DecisionsAndWatchesIssue : Prop :=
  (∀ (d a b : Reg) (scope : Scope) (s : State),
    Decides (.dprop d a b scope) (decideNeed (.dprop d a b scope) d a [b, nextReg b 1, nextReg d 3] [] (scope != Scope.lane))
      .docProp true (pairU s a && pairU s b && (reg s (nextReg d 3)).isU) d a scope
      (fun th => (pairAt s b th).setWidth 128) (fun th => (reg s (nextReg d 3)).at th) s) ∧
  (∀ (d a : Reg) (b : Sel) (scope : Scope) (s : State),
    Decides (.dread d a b scope) (decideNeed (.dread d a b scope) d a [] [b] false) .docRead false
      (pairU s a && ((selVals s [] [b]).getD 0 (.u 0)).isU) d a scope (fun _ => 0) (operand s [b] 0) s) ∧
  (∀ (d a : Reg) (b : Sel) (scope : Scope) (s : State),
    Decides (.dreset d a b scope) (decideNeed (.dreset d a b scope) d a [] [b] (scope != Scope.lane)) .docReset true
      (pairU s a && ((selVals s [] [b]).getD 0 (.u 0)).isU) d a scope
      (fun th => (operand s [b] 0 th).setWidth 128) (operand s [b] 0) s) ∧
  (∀ (d a : Reg) (scope : Scope) (s : State),
    Decides (.dstat d a scope) (decideNeed (.dstat d a scope) d a [] [] false) .docStat false (pairU s a) d a scope
      (fun _ => 0) (fun _ => 0) s) ∧
  (∀ (d a : Reg) (b : Sel) (cmp : WCmp) (w64 dl : Bool) (s : State) (fab : Nat) (leaf : DWord),
    executes (watchNeed d a b cmp w64 dl) s = true →
    ResolvesOnce s .watch (if w64 then 8 else 4) a fab leaf → outLoads s s.me.who.id < 63 →
    ∃ t o, exec (.wwait d a b cmp w64 dl) s = .next t ∧ Launched (watchNeed d a b cmp w64 dl) o s t ∧
      t.mem.copies = s.mem.copies ∧ t.me.cur.wait = .watch o.id ∧ t.me.cur.begun = .sent o.id ∧
      t.me.cur.hdr = s.me.cur.hdr ∧ t.me.cur.widx = s.me.cur.widx ∧ t.me.cur.mask = s.me.cur.mask ∧
      o.what = .watch cmp w64 (if dl then some (pair s.me.wdl s.me.wdlh) else none) ∧ o.dst = d ∧ o.holds = true ∧
      ServesOnce s o.accs (if w64 then 8 else 4) (onceVa s a) fab leaf (match b with
        | .reg r => if w64 then (pairAt s r (lowest s.me.cur.mask)).setWidth 128
                    else ((reg s r).at (lowest s.me.cur.mask)).setWidth 128
        | _ => (operand s [b] 0 (lowest s.me.cur.mask)).setWidth 128))

/-! ### Barriers and `join` -/

namespace Sys2Proof.Claims

open Sys2Proof Sys2Proof.Machine

/-- A status written to d, the pc past the instruction, and every other register, the predicates, the flags and home
memory as before. -/
structure Answers (n : Need) (d : Reg) (nw : Bool) (status : Word) (s t : State) : Prop where
  value : ∀ th, (reg t d).at th = if !nw && activeIn s th then status else (reg s d).at th
  latches : s.me.cur.begun = .no →
    LatchesPast n (some (fun th => if activeIn s th then status else (reg s d).at th)) s t
  regs : ∀ r, r ≠ d → reg t r = reg s r
  same : t.me.preds = s.me.preds ∧ t.me.fflags = s.me.fflags ∧ t.mem.bytes = s.mem.bytes ∧ t.mem.slices = s.mem.slices
  frag : FragmentPast n.words.length s t

/-- The instruction waits at its place, with its pops not made; no register, predicate, flag or byte changes. -/
structure WaitsHere (w : Wait) (s t : State) : Prop where
  wait : t.me.cur.wait = w
  pc : t.me.cur.hdr = s.me.cur.hdr ∧ t.me.cur.widx = s.me.cur.widx ∧ t.me.cur.mask = s.me.cur.mask
  same : t.me.regs = s.me.regs ∧ t.me.preds = s.me.preds ∧ t.me.fflags = s.me.fflags ∧ t.me.qstatus = s.me.qstatus ∧
    t.mem.bytes = s.mem.bytes ∧ t.mem.scratch = s.mem.scratch ∧ t.mem.slices = s.mem.slices

/-- A named barrier of a block. -/
def barrierOf (b : Block) (num : Nat) : Barrier := vget b.bars num ⟨0, 0, false, false⟩

/-- The count that a phase expects once x, the count of an arrival, has been seen (08 R243). -/
def expects (s : State) (b : Block) (num : Nat) (x : Word) : Nat :=
  if (barrierOf b num).set then (barrierOf b num).expected else if x = 0 then liveThreads s b else x.toNat

/-- The count of a phase after an arrival of the executing fragment: the threads of its mask are added (08 R243). -/
def arrivedAfter (s : State) (b : Block) (num : Nat) : Nat := (barrierOf b num).arrived + popc s.me.cur.mask

/-- An arrival that leaves the phase open: the barrier counts it, and no other strand changes. -/
def Counted (b : Block) (num : Nat) (x : Word) (s t : State) : Prop :=
  blockOf t t.me = some { b with
    bars := vset b.bars num ⟨arrivedAfter s b num, expects s b num x, true, (barrierOf b num).phase⟩ } ∧
  t.others = s.others

/-- A phase that has completed: the phase bit flips, the counts begin anew, and every fragment of the block that waited for
it is ready (08 R243, R244); strands of other blocks stay. -/
def Completed (b : Block) (num : Nat) (s t : State) : Prop :=
  blockOf t t.me = some { b with bars := vset b.bars num ⟨0, 0, false, !(barrierOf b num).phase⟩ } ∧
  (∀ st ∈ t.others, inBlock b st = true → st.imaging = false →
    ∀ f ∈ st.cur :: st.frags, f.wait ≠ .bar num (barrierOf b num).phase) ∧
  (∀ st ∈ s.others, inBlock b st = false → st ∈ t.others)

/-- Everything of the package but the executing strand's fragment, registers and marks, the other strands' waits, the blocks
and what pops take is as before. -/
def BarrierFrame (s t : State) : Prop :=
  t = { s with
    me := { s.me with
      regs := t.me.regs
      resident := t.me.resident
      qstatus := t.me.qstatus
      pendingBars := t.me.pendingBars
      cur := t.me.cur
      frags := t.me.frags }
    others := t.others
    work := { s.work with blocks := t.work.blocks }
    mem := { s.mem with scratch := t.mem.scratch }
    opLog := t.opLog }

/-- A strand of a launch is live in a gang: it has a live fragment on a lane of the package, or its block has been evicted with it
(02 R50; 08 R245). -/
def LiveInGang (s : State) (l : Launch) (scope : Scope) (ix : Nat) (id : StrandId) : Prop :=
  (∃ st ∈ strandsOf s, st.who.id = id ∧ id.handle = l.handle ∧ st.place.isCtl = false ∧ st.liveFrags ≠ [] ∧
    gangIndex l.record scope st.who.blockIdx = ix) ∨
  ∃ e ∈ s.work.evicted, e.handle = l.handle ∧ gangIndex l.record scope e.idx = ix ∧ id ∈ e.strands

/-- With the executing strand every live strand of its gang has arrived: none of this package's is missing, no block of the gang is
still to be placed, and the other packages of a pod gang have told of theirs. -/
def LastToArrive (s : State) (l : Launch) (scope : Scope) : Prop :=
  let ix := gangIndex l.record scope s.me.who.blockIdx
  (∀ id, LiveInGang s l scope ix id → id = s.me.who.id ∨ id ∈ (gangOf s l.handle scope ix).arrived) ∧
    gangUnplaced l scope ix = false ∧
    (scope = .pod → podPackages l.record = 1 ∨
      Config.peersArrived l.record.podId (gangOf s l.handle scope ix).phase s.fresh = true)

/-- A gang barrier arrives once the accesses before it are performed. When every live strand of the gang has arrived the phase
completes and it goes on, with 1 where a strand of the gang has been killed in that phase and 0 otherwise; else it waits. Once its
phase is over it goes on with the status of that phase (08 R245, R246; 16 R409). In a paired strand it closes the window first (16
R412). -/
def GangBarrier (mk : Reg → Bool → Instr) (scope : Scope) : Prop :=
  (∀ (d : Reg) (nw : Bool) (s : State) (l : Launch), executes (barNeed (mk d nw) d [] true) s = true →
    findLaunch s s.me.who.id.handle = some l → s.me.place.isCtl = false → hasGang l.record scope = true →
    s.me.liveFrags.length = 1 → isPaired s s.me = true → ClosesWindow (mk d nw) (barNeed (mk d nw) d [] true) s) ∧
  (∀ (d : Reg) (nw : Bool) (s : State) (l : Launch), executes (barNeed (mk d nw) d [] true) s = true →
    findLaunch s s.me.who.id.handle = some l → s.me.place.isCtl = false → hasGang l.record scope = true →
    s.me.liveFrags.length = 1 → isPaired s s.me = false →
    let ix := gangIndex l.record scope s.me.who.blockIdx
    let g := gangOf s l.handle scope ix
    let ready := releaseReady s s.me.who.id s.mem.nextOp scope
    (ready = false → exec (mk d nw) s = .next s) ∧
    (ready = true → LastToArrive s l scope →
      ∃ t, exec (mk d nw) s = .next t ∧ Answers (barNeed (mk d nw) d [] true) d nw (if g.tainted then 1 else 0) s t ∧
        gangOf t l.handle scope ix =
          { g with phase := g.phase + 1, arrived := [], tainted := false, lastTainted := g.tainted }) ∧
    (ready = true → ¬ LastToArrive s l scope →
      ∃ t, exec (mk d nw) s = .next t ∧ WaitsHere (.gang scope g.phase) s t ∧ t.me.cur.begun = .ganged scope g.phase ∧
        gangOf t l.handle scope ix = { g with arrived := g.arrived ++ [s.me.who.id] })) ∧
  (∀ (d : Reg) (nw : Bool) (s : State) (l : Launch) (sc : Scope) (ph : Nat), mayIssue s = true →
    s.me.cur.begun = .ganged sc ph → findLaunch s s.me.who.id.handle = some l →
    let g := gangOf s l.handle scope (gangIndex l.record scope s.me.who.blockIdx)
    (g.phase ≠ ph → ∃ t, exec (mk d nw) s = .next t ∧
      Answers (barNeed (mk d nw) d [] true) d nw (if g.lastTainted then 1 else 0) s t) ∧
    (g.phase = ph → ∃ t, exec (mk d nw) s = .next t ∧ WaitsHere (.gang scope ph) s t ∧ t.work = s.work))

/-- The other live fragments of the strand wait at a `join` too. -/
def othersJoin (s : State) : Prop := (∃ f ∈ s.me.frags, f.live = true) ∧ ∀ f ∈ s.me.frags, f.live = true → f.wait = .join

/-- A fragment waits at the place where the executing one stands. -/
def atSamePlace (s : State) (f : Fragment) : Prop :=
  f.hdr = s.me.cur.hdr ∧ f.widx = s.me.cur.widx ∧ f.head = s.me.cur.head

end Sys2Proof.Claims

/-- 08 R242–R244, R246: the named barriers. `bar.post` and `bar.meet` add the active threads to the phase, `bar.post` marks it
pending and goes on, `bar.meet` waits unless it completes the phase; `bar.hold` waits for the pending phase. The two that arrive close
the window of a paired strand first (16 R412). Model's choices:
when released waiters are ready (log 63). -/
def Obligations.NamedBarriers : Prop :=
  (∀ (d : Reg) (nw : Bool) (a b : Sel) (s : State) (blk : Block),
    let n := barNeed (.barPost d nw a b) d [a, b] true
    let num := (operand s [a, b] 0 (lowest s.me.cur.mask)).toNat
    let x := operand s [a, b] 1 (lowest s.me.cur.mask)
    executes n s = true → isPaired s s.me = false → blockOf s s.me = some blk → num < 16 → blk.abandoned = false →
    ((barrierOf blk num).set = true ∨ x.toNat ≤ 1024) → releaseReady s s.me.who.id s.mem.nextOp .core = true →
    ∃ t, exec (.barPost d nw a b) s = .next t ∧ Answers n d nw 0 s t ∧ OnlyPops [a, b] s t ∧ BarrierFrame s t ∧
      (num, (barrierOf blk num).phase, decide (expects s blk num x ≤ arrivedAfter s blk num)) ∈ t.me.pendingBars ∧
      (arrivedAfter s blk num < expects s blk num x → Counted blk num x s t) ∧
      (expects s blk num x ≤ arrivedAfter s blk num → Completed blk num s t)) ∧
  (∀ (mk : Reg → Bool → Sel → Sel → Instr) (d : Reg) (nw : Bool) (a b : Sel) (s : State) (blk : Block),
    mk = Instr.barPost ∨ mk = Instr.barMeet →
    let n := barNeed (mk d nw a b) d [a, b] true
    let num := (operand s [a, b] 0 (lowest s.me.cur.mask)).toNat
    executes n s = true → isPaired s s.me = false → blockOf s s.me = some blk → num < 16 → blk.abandoned = true →
    releaseReady s s.me.who.id s.mem.nextOp .core = true →
    ∃ t, exec (mk d nw a b) s = .next t ∧ Answers n d nw 1 s t ∧ OnlyPops [a, b] s t ∧ BarrierFrame s t ∧
      t.me.pendingBars = s.me.pendingBars ∧ t.work = s.work) ∧
  (∀ (mk : Reg → Bool → Sel → Sel → Instr) (d : Reg) (nw : Bool) (a b : Sel) (s : State) (blk : Block),
    mk = Instr.barPost ∨ mk = Instr.barMeet →
    let num := (operand s [a, b] 0 (lowest s.me.cur.mask)).toNat
    executes (barNeed (mk d nw a b) d [a, b] true) s = true → isPaired s s.me = true → blockOf s s.me = some blk → num < 16 →
    (blk.abandoned = true ∨ (barrierOf blk num).set = true ∨ (operand s [a, b] 1 (lowest s.me.cur.mask)).toNat ≤ 1024) →
    ClosesWindow (mk d nw a b) (barNeed (mk d nw a b) d [a, b] true) s) ∧
  (∀ (d : Reg) (nw : Bool) (a b : Sel) (s : State) (blk : Block),
    let n := barNeed (.barMeet d nw a b) d [a, b] true
    let num := (operand s [a, b] 0 (lowest s.me.cur.mask)).toNat
    let x := operand s [a, b] 1 (lowest s.me.cur.mask)
    executes n s = true → isPaired s s.me = false → blockOf s s.me = some blk → num < 16 → blk.abandoned = false →
    ((barrierOf blk num).set = true ∨ x.toNat ≤ 1024) → releaseReady s s.me.who.id s.mem.nextOp .core = true →
    ∃ t, exec (.barMeet d nw a b) s = .next t ∧ BarrierFrame s t ∧ t.me.pendingBars.length = s.me.pendingBars.length ∧
      (arrivedAfter s blk num < expects s blk num x →
        WaitsHere (.bar num (barrierOf blk num).phase) s t ∧ Counted blk num x s t) ∧
      (expects s blk num x ≤ arrivedAfter s blk num →
        Answers n d nw 0 s t ∧ OnlyPops [a, b] s t ∧ Completed blk num s t)) ∧
  (∀ (d : Reg) (nw : Bool) (a b : Sel) (s : State) (status : Word), mayIssue s = true →
    s.me.cur.begun = .answered status →
    ∃ t, exec (.barMeet d nw a b) s = .next t ∧ BarrierFrame s t ∧ OnlyPops [a, b] s t ∧
      Answers (barNeed (.barMeet d nw a b) d [a, b] true) d nw status s t ∧ t.work = s.work ∧ t.others = s.others) ∧
  (∀ (d : Reg) (nw : Bool) (a : Sel) (s : State) (blk : Block),
    let n := barNeed (.barHold d nw a) d [a] false
    let num := (operand s [a] 0 (lowest s.me.cur.mask)).toNat
    let mark := s.me.pendingBars.find? (fun m => m.1 == num)
    executes n s = true → blockOf s s.me = some blk → num < 16 →
    ∃ t, exec (.barHold d nw a) s = .next t ∧ BarrierFrame s t ∧ t.work = s.work ∧ t.others = s.others ∧
      (blk.abandoned = true → Answers n d nw 1 s t ∧ ∀ m ∈ t.me.pendingBars, m.1 ≠ num) ∧
      (blk.abandoned = false → (∃ m, mark = some m ∧ (m.2.2 = true ∨ (barrierOf blk num).phase ≠ m.2.1)) →
        Answers n d nw 0 s t ∧ OnlyPops [a] s t ∧ ∀ m ∈ t.me.pendingBars, m.1 ≠ num) ∧
      (blk.abandoned = false → (∀ m, mark = some m → m.2.2 = false ∧ (barrierOf blk num).phase = m.2.1) →
        WaitsHere (.bar num (barrierOf blk num).phase) s t ∧ t.me.pendingBars = s.me.pendingBars))

/-- 02 R43; 08 R245, R246; 16 R409: the gang barriers, and `join`: a single fragment passes at once; while another live one has not
come to a `join` it waits; at one address they fuse, and at several each goes on. Model's choices: serial records at a `join`, when
released waiters are ready, and that a gang with a block still to be placed waits for it (log 57, 63); when the other packages of a
pod gang have arrived is free (log 2). -/
def Obligations.GangsAndJoin : Prop :=
  GangBarrier Instr.barQuad .quad ∧ GangBarrier Instr.barDie .die ∧ GangBarrier Instr.barPkg .pkg ∧
  GangBarrier Instr.barPod .pod ∧
  (∀ s : State, executes { plainNeed .join [] [] with blocking := true } s = true →
    ((∀ f ∈ s.me.frags, f.live = false) →
      ∃ t, exec .join s = .next t ∧ OnlyFragment [] s t ∧ FragmentPast 1 s t) ∧
    ((∃ f ∈ s.me.frags, f.live = true ∧ f.wait ≠ .join) →
      ∃ t, exec .join s = .next t ∧ OnlyFragment [] s t ∧ WaitsHere .join s t) ∧
    (othersJoin s → (∀ f ∈ s.me.frags, f.live = true → atSamePlace s f) →
      (∀ r ∈ s.me.serials, r.phase = true ∨ r.mask = 0) →
      ∃ t, exec .join s = .next t ∧ t.me.frags = [] ∧ t.me.serials = [] ∧ t.me.cur.mask = s.me.liveMask ∧
        t.me.cur.parent = none ∧ t.me.cur.wait = .ready ∧ pastPc 1 s.me.cur t.me.cur ∧
        t = { s with me := { s.me with cur := t.me.cur, frags := [], serials := [] } }) ∧
    (othersJoin s → (∀ f ∈ s.me.frags, f.live = true → atSamePlace s f) →
      (∃ r ∈ s.me.serials, r.phase = false ∧ r.mask ≠ 0) →
      ∃ t, exec .join s = .next t ∧ t.me.serials = [] ∧
        t = { s with me := { s.me with nextFrag := t.me.nextFrag, cur := t.me.cur, frags := t.me.frags, serials := [] } }) ∧
    (othersJoin s → (∃ f ∈ s.me.frags, f.live = true ∧ ¬ (f.hdr = s.me.cur.hdr ∧ f.widx = s.me.cur.widx)) →
      ∃ t, exec .join s = .next t ∧ FragmentPast 1 s t ∧ t.me.frags.length = s.me.frags.length ∧
        t = { s with me := { s.me with cur := t.me.cur, frags := t.me.frags } } ∧
        ∀ (k : Nat) (f : Fragment), s.me.frags[k]? = some f → ∃ g : Fragment, t.me.frags[k]? = some g ∧ (f.wait ≠ .join → g = f) ∧
          (f.wait = .join → g.id = f.id ∧ g.mask = f.mask ∧ g.parent = f.parent ∧ g.reconv = f.reconv ∧ g.wait = .ready ∧
            pastPc 1 f g)))

/-! ### Queues -/

namespace Sys2Proof.Claims

open Sys2Proof Sys2Proof.Machine

/-- Where a field of a queue's descriptor lies in the core scratchpads (08 R247). -/
def fieldAt (s : State) (b : Binding) (f : Nat) : Option Nat := scratchAddr s s.me b.quadSpace (b.offset.toNat + f)

/-- A descriptor is aligned and lies in its region (08 R249). -/
def descriptorIn (s : State) (b : Binding) : Prop := b.offset.toNat % 32 = 0 ∧ (fieldAt s b 31).isSome = true

/-- A four-byte field at `h` is apart from every popped HEAD. -/
def freeOfPops (s : State) (sels : List Sel) (h : Nat) : Prop := ∀ x, h ≤ x → x < h + 4 → ¬ popHead s sels x

/-- Only queue state of the executing strand and scratch memory change. -/
def QueueFrame (s t : State) : Prop :=
  t = { s with
    me := { s.me with
      resident := t.me.resident
      qstatus := t.me.qstatus
      binds := t.me.binds
      cur := t.me.cur }
    mem := { s.mem with scratch := t.mem.scratch } }

/-- One field of a descriptor takes a value; the rest of the scratchpads stays but for the pops. -/
def FieldSet (b : Binding) (f v : Nat) (sels : List Sel) (s t : State) : Prop :=
  memoriesWf s = true → ∀ h, fieldAt s b f = some h →
    (freeOfPops s sels h → memNat t.mem.scratch h 4 = v % 2 ^ 32) ∧
    ∀ x, (x < h ∨ h + 4 ≤ x) → ¬ popHead s sels x → memByte t.mem.scratch x = memByte s.mem.scratch x

/-- What `qput` asks at issue. -/
def qputNeed (q : QNo) (a : Sel) : Need :=
  { words := encodeWords (.qput q a), sels := [a], blocking := true, releasing := true, tileOrder := true }

/-- What `qtry` asks at issue. -/
def qtryNeed (d : Reg) (nw : Bool) (q : QNo) : Need :=
  { words := encodeWords (.qtry d nw q), regs := [d, nextReg d 1], dst := some d, tileOrder := true, beyond := beyond d 2 }

/-- The queue of the engines or of the distributor behind a queue register has no room for a word (08 R250; log 61). -/
def noRoomIn (q : QNo) (s : State) : Bool := bit s.engines.noRoom q.toNat

/-- The pair that `qtry` writes; other registers, predicates, flags and home memory stay. -/
structure Tries (q : QNo) (d : Reg) (nw : Bool) (x y : Word) (s t : State) : Prop where
  value : ∀ th, pairAt t d th = if !nw && activeIn s th then pair x y else pairAt s d th
  latches : LatchesPast (qtryNeed d nw q) (some (fun th => if activeIn s th then x else (reg s d).at th)) s t
  regs : ∀ r, r ≠ d → r ≠ nextReg d 1 → reg t r = reg s r
  same : t.me.preds = s.me.preds ∧ t.me.fflags = s.me.fflags ∧ t.mem.bytes = s.mem.bytes ∧ t.me.binds = s.me.binds
  frag : FragmentPast 1 s t

end Sys2Proof.Claims

/-- 08 R247–R251; 03 R69; 09 R275, R280; 16 R410: `qput` to a bound producer register stores the entry at TAIL and advances
it, with an allowance that it draws up to 16 at a time; without allowance, or with the ring full, it waits; into an abandoned
queue that no consumer is bound to it completes and stores nothing. To `q0`, `q1`, `q2` it collects the words of a command,
and the last one hands it over; while their queue has no room it waits with kind 5. A paired strand closes its window first
(16 R412). Model's choices: that room behind `q0` to `q2` is free (log 61), and SLOTS of 0 or above 256 (log 95). -/
def Obligations.QueuePushes : Prop :=
  (∀ (q : QNo) (a : Sel) (s : State), executes (qputNeed q a) s = true → isPaired s s.me = true →
    (q = 0 ∨ q = 1 ∨ 4 ≤ q.toNat ∧ ∃ b, binding s.me q = some b ∧ b.consumer = false) →
    ClosesWindow (.qput q a) (qputNeed q a) s) ∧
  (∀ (q : QNo) (a : Sel) (s : State) (b : Binding),
    let n := qputNeed q a
    let v := operand s [a] 0 (lowest s.me.cur.mask)
    let allow := qField s s.me b 8 % 512
    let tail := qField s s.me b 4
    let slots := max 1 (qField s s.me b 12 % 512)
    executes n s = true → 4 ≤ q.toNat → binding s.me q = some b → b.consumer = false → isPaired s s.me = false →
    releaseReady s s.me.who.id s.mem.nextOp (if b.quadSpace then .quad else .core) = true → memoriesWf s = true →
    descriptorIn s b →
    ((qField s s.me b 12).testBit 16 = true → qField s s.me b 20 / 2 ^ 16 = 0 →
      ∃ t, exec (.qput q a) s = .next t ∧ QueueFrame s t ∧ FragmentPast 1 s t ∧ OnlyPops [a] s t ∧ t.me.binds = s.me.binds) ∧
    ((qField s s.me b 12).testBit 16 = false ∨ qField s s.me b 20 / 2 ^ 16 ≠ 0 →
    ((b.drawn ≠ 0 ∨ allow ≠ 0) → (tail + 2 ^ 32 - qField s s.me b 0) % 2 ^ 32 < slots →
      ∃ t, exec (.qput q a) s = .next t ∧ QueueFrame s t ∧ FragmentPast 1 s t ∧
        binding t.me q = some { b with drawn := b.drawn + (if b.drawn = 0 then min allow 16 else 0) - 1 } ∧
        ∀ h8 h4 e, fieldAt s b 8 = some h8 → fieldAt s b 4 = some h4 →
          scratchAddr s s.me b.quadSpace (qField s s.me b 16 + 4 * (tail % slots)) = some e →
          (e + 4 ≤ h4 ∨ h4 + 4 ≤ e) →
          (freeOfPops s [a] h4 → memNat t.mem.scratch h4 4 = (tail + 1) % 2 ^ 32) ∧
          (freeOfPops s [a] e → memNat t.mem.scratch e 4 = v.toNat) ∧
          (freeOfPops s [a] h8 → (e + 4 ≤ h8 ∨ h8 + 4 ≤ e) → memNat t.mem.scratch h8 4 =
            if b.drawn = 0 then allow - min allow 16 else memNat s.mem.scratch h8 4) ∧
          ∀ x, (x < h4 ∨ h4 + 4 ≤ x) → (x < h8 ∨ h8 + 4 ≤ x) → (x < e ∨ e + 4 ≤ x) → ¬ popHead s [a] x →
            memByte t.mem.scratch x = memByte s.mem.scratch x) ∧
    ((b.drawn ≠ 0 ∨ allow ≠ 0) → slots ≤ (tail + 2 ^ 32 - qField s s.me b 0) % 2 ^ 32 →
      ∃ t, exec (.qput q a) s = .next t ∧ QueueFrame s t ∧ t.me.cur.wait = .push q ∧ t.me.cur.hdr = s.me.cur.hdr ∧
        t.me.cur.widx = s.me.cur.widx ∧ t.me.cur.mask = s.me.cur.mask ∧ t.me.qstatus = s.me.qstatus ∧
        binding t.me q = some { b with drawn := b.drawn + (if b.drawn = 0 then min allow 16 else 0) } ∧
        (b.drawn ≠ 0 → t.mem.scratch = s.mem.scratch) ∧
        (b.drawn = 0 → FieldSet b 8 (allow - min allow 16) [] s t)) ∧
    (b.drawn = 0 → allow = 0 →
      ∃ t, exec (.qput q a) s = .next t ∧ WaitsHere (.push q) s t ∧ t.me.binds = s.me.binds))) ∧
  (∀ (a : Sel) (s : State), executes (qputNeed 0 a) s = true → isPaired s s.me = false →
    releaseReady s s.me.who.id s.mem.nextOp .pkg = true →
    (noRoomIn 0 s = true → ∃ t, exec (.qput 0 a) s = .next t ∧ WaitsHere (.push 0) s t ∧ t.engines = s.engines) ∧
    (noRoomIn 0 s = false → s.me.pushed0.length < 4 →
      ∃ t, exec (.qput 0 a) s = .next t ∧ FragmentPast 1 s t ∧ OnlyPops [a] s t ∧
        t.me.pushed0 = s.me.pushed0 ++ [operand s [a] 0 (lowest s.me.cur.mask)] ∧
        QueueFrame { s with me := { s.me with pushed0 := t.me.pushed0 } } t) ∧
    (∀ c, noRoomIn 0 s = false → s.me.pushed0.length = 4 → inFlight s s.me.who.id < 63 →
      copyHeld s (s.me.pushed0 ++ [operand s [a] 0 (lowest s.me.cur.mask)]) = false →
      copyCommand s (s.me.pushed0 ++ [operand s [a] 0 (lowest s.me.cur.mask)]) = .inl c →
      ∃ t, exec (.qput 0 a) s = .next t ∧ FragmentPast 1 s t ∧ OnlyPops [a] s t ∧ t.me.pushed0 = [] ∧
        t.engines.copies = s.engines.copies ++ [c] ∧ c.id = s.mem.nextOp ∧ c.owner = s.me.who.id)) ∧
  (∀ (a : Sel) (s : State), executes (qputNeed 1 a) s = true → isPaired s s.me = false →
    releaseReady s s.me.who.id s.mem.nextOp .pkg = true →
    (noRoomIn 1 s = true → ∃ t, exec (.qput 1 a) s = .next t ∧ WaitsHere (.push 1) s t ∧ t.engines = s.engines) ∧
    (noRoomIn 1 s = false → s.me.pushed1.length < 6 →
      ∃ t, exec (.qput 1 a) s = .next t ∧ FragmentPast 1 s t ∧ OnlyPops [a] s t ∧
        t.me.pushed1 = s.me.pushed1 ++ [operand s [a] 0 (lowest s.me.cur.mask)] ∧
        QueueFrame { s with me := { s.me with pushed1 := t.me.pushed1 } } t) ∧
    (∀ c, noRoomIn 1 s = false → s.me.pushed1.length = 6 → inFlight s s.me.who.id < 63 → outStores s s.me.who.id < 63 →
      nearWalked s (s.me.pushed1 ++ [operand s [a] 0 (lowest s.me.cur.mask)]) = false →
      nearCommand s (s.me.pushed1 ++ [operand s [a] 0 (lowest s.me.cur.mask)]) = .inl c →
      ∃ t, exec (.qput 1 a) s = .next t ∧ FragmentPast 1 s t ∧ OnlyPops [a] s t ∧ t.me.pushed1 = [] ∧
        t.engines.nears = s.engines.nears ++ [c] ∧ c.id = s.mem.nextOp ∧ c.owner = s.me.who.id)) ∧
  (∀ (a : Sel) (s : State), executes (qputNeed 2 a) s = true → isPaired s s.me = false →
    releaseReady s s.me.who.id s.mem.nextOp .pkg = true →
    (noRoomIn 2 s = true → ∃ t, exec (.qput 2 a) s = .next t ∧ WaitsHere (.push 2) s t ∧ t.engines = s.engines) ∧
    (noRoomIn 2 s = false → s.me.pushed2.length < 15 →
      ∃ t, exec (.qput 2 a) s = .next t ∧ FragmentPast 1 s t ∧ OnlyPops [a] s t ∧
        t.me.pushed2 = s.me.pushed2 ++ [operand s [a] 0 (lowest s.me.cur.mask)] ∧
        QueueFrame { s with me := { s.me with pushed2 := t.me.pushed2 } } t) ∧
    (noRoomIn 2 s = false → s.me.pushed2.length = 15 →
      ∃ t r, exec (.qput 2 a) s = .next t ∧ FragmentPast 1 s t ∧ OnlyPops [a] s t ∧ t.me.pushed2 = [] ∧
        t.work.device = s.work.device ++ [r] ∧ r.owner = s.me.who.id ∧ r.context = s.me.who.context ∧
        r.words = s.me.pushed2 ++ [operand s [a] 0 (lowest s.me.cur.mask)]))

/-- 08 R249, R251, R252; 09 R279: binding, unbinding, allowances, counts, and pops that never wait. A pop from `q3` lets in the events
that found it full. Model's choices: `qtry` of a ring whose oldest entry is held for another instruction (log 95). -/
def Obligations.QueueRegisters : Prop :=
  (∀ (q : QNo) (a : Sel) (consumer quadSpace : Bool) (s : State),
    let n := { plainNeed (.qbind q a consumer quadSpace) [] [a] with tileOrder := true }
    let off := operand s [a] 0 (lowest s.me.cur.mask)
    let b : Binding := { offset := off, quadSpace := quadSpace, consumer := consumer, drawn := 0 }
    executes n s = true → 4 ≤ q.toNat → binding s.me q = none → descriptorIn s b →
    ∃ t, exec (.qbind q a consumer quadSpace) s = .next t ∧ QueueFrame s t ∧ FragmentPast 1 s t ∧
      binding t.me q = some b ∧ FieldSet b 20 (qField s s.me b 20 + (if consumer then 2 ^ 16 else 1)) [a] s t) ∧
  (∀ (q : QNo) (a : Sel) (s : State) (b : Binding), executes { plainNeed (.qallow q a) [] [a] with tileOrder := true } s = true →
    4 ≤ q.toNat → binding s.me q = some b → b.consumer = true →
    ∃ t, exec (.qallow q a) s = .next t ∧ QueueFrame s t ∧ FragmentPast 1 s t ∧ t.me.binds = s.me.binds ∧
      FieldSet b 8 (min 256 (qField s s.me b 8 % 512 + (operand s [a] 0 (lowest s.me.cur.mask)).toNat)) [a] s t) ∧
  (∀ (d : Reg) (nw : Bool) (q : QNo) (s : State),
    let n := { vecNeed (.qcount d nw q) d [] with tileOrder := true }
    executes n s = true →
    (q.toNat < 4 →
      ∃ t, exec (.qcount d nw q) s = .next t ∧
        VecEffect n d nw (fun _ => BitVec.ofNat 32 (waiting s.me q.toNat).length) 0 s t) ∧
    (∀ b, 4 ≤ q.toNat → binding s.me q = some b →
      ∃ t, exec (.qcount d nw q) s = .next t ∧
        VecEffect n d nw
          (fun _ => BitVec.ofNat 32 (qField s s.me b 4) - BitVec.ofNat 32 (qField s s.me b 0)) 0 s t)) ∧
  (∀ (q : QNo) (s : State) (b : Binding), executes { plainNeed (.qunbind q) [] [] with tileOrder := true } s = true → 4 ≤ q.toNat →
    memoriesWf s = true →
    binding s.me q = some b → descriptorIn s b →
    ∃ t, exec (.qunbind q) s = .next t ∧ QueueFrame s t ∧ FragmentPast 1 s t ∧ binding t.me q = none ∧
      t.me.qstatus.getLsbD q.toNat = false ∧
      (∀ h8, fieldAt s b 8 = some h8 → memNat t.mem.scratch h8 4 = min 256 (qField s s.me b 8 % 512 + b.drawn)) ∧
      (∀ h20, fieldAt s b 20 = some h20 → memNat t.mem.scratch h20 4 =
        if b.consumer then (if 2 ^ 16 ≤ qField s s.me b 20 then qField s s.me b 20 - 2 ^ 16 else qField s s.me b 20)
        else (if qField s s.me b 20 % 2 ^ 16 = 0 then qField s s.me b 20 else qField s s.me b 20 - 1)) ∧
      (∀ h8 h20, fieldAt s b 8 = some h8 → fieldAt s b 20 = some h20 →
        ∀ x, (x < h8 ∨ h8 + 4 ≤ x) → (x < h20 ∨ h20 + 4 ≤ x) →
          memByte t.mem.scratch x = memByte s.mem.scratch x)) ∧
  (∀ (d : Reg) (nw : Bool) (q : QNo) (s : State), executes (qtryNeed d nw q) s = true →
    (∀ w r, q.toNat < 4 → waiting s.me q.toNat = w :: r →
      ∃ t, exec (.qtry d nw q) s = .next t ∧ Tries q d nw w 1 s t ∧ (q.toNat < 3 → waiting t.me q.toNat = r) ∧
        (q.toNat = 3 →
          ((64 < r.length + 2 ∨ ∀ e ∈ s.engines.eventWait, e.1 ≠ s.me.who.id) → waiting t.me 3 = r ∧ t.engines = s.engines) ∧
          (∀ e, s.engines.eventWait.find? (fun e => e.1 == s.me.who.id) = some e → r.length + 2 ≤ 64 →
            ∃ l, waiting t.me 3 = r ++ [e.2.1, e.2.2.1] ++ l))) ∧
    (q.toNat < 4 → waiting s.me q.toNat = [] →
      ∃ t, exec (.qtry d nw q) s = .next t ∧ Tries q d nw 0 0 s t ∧ t.mem.scratch = s.mem.scratch) ∧
    (∀ b, 4 ≤ q.toNat → binding s.me q = some b → b.consumer = true →
      (qCount s s.me b ≠ 0 → ringHeld s b = true →
        ∃ t, exec (.qtry d nw q) s = .next t ∧ Tries q d nw 0 0 s t ∧ t.mem.scratch = s.mem.scratch) ∧
      (qCount s s.me b ≠ 0 → ringHeld s b = false →
        ∃ t, exec (.qtry d nw q) s = .next t ∧ Tries q d nw (qEntry s s.me b (qField s s.me b 0)) 1 s t ∧
          FieldSet b 0 (qField s s.me b 0 + 1) [] s t) ∧
      (qCount s s.me b = 0 → qDead s s.me b = false →
        ∃ t, exec (.qtry d nw q) s = .next t ∧ Tries q d nw 0 0 s t ∧ t.mem.scratch = s.mem.scratch) ∧
      (qDead s s.me b = true →
        ∃ t, exec (.qtry d nw q) s = .next t ∧ Tries q d nw 0 2 s t ∧ t.mem.scratch = s.mem.scratch ∧
          t.me.qstatus.getLsbD q.toNat = true)))

/-! ### Tiles and the matrix queue -/

namespace Sys2Proof.Claims

open Sys2Proof Sys2Proof.Machine

/-- A tile instruction asks that no `tgive` of the strand is still to flip its tile (09 R259). -/
def tileNeed (i : Instr) : Need := { words := encodeWords i, tileOrder := true }

/-- Only the control context `key` changes besides the fragment. -/
def ControlFrame (key : Nat) (s t : State) : Prop :=
  (∀ k, k ≠ key → controlAt t k = controlAt s k) ∧
  t = { s with
    me := { s.me with
      resident := t.me.resident
      qstatus := t.me.qstatus
      cur := t.me.cur }
    engines := { s.engines with controls := t.engines.controls }
    mem := { s.mem with
      scratch := t.mem.scratch
      nextOp := t.mem.nextOp } }

/-- A control context whose tile `tn` is `x`. -/
def withTile (c : Control) (tn : TileNo) (x : Tile) : Control := { c with tiles := vset c.tiles tn.toNat x }

/-- The control context of a control lane. -/
def contextKey (s : State) : Nat := ownControl s

/-- A matrix instruction enters its operation at the end of its context's queue (09 R263). -/
def Enqueues (i : Instr) (op : MatOp) (s : State) : Prop :=
  ∃ t, exec i s = .next t ∧ FragmentPast (encodeWords i).length s t ∧ ControlFrame (contextKey s) s t ∧
    t.mem.scratch = s.mem.scratch ∧ t.mem.nextOp = s.mem.nextOp + 1 ∧
    controlAt t (contextKey s) = { controlAt s (contextKey s) with
      queue := (controlAt s (contextKey s)).queue ++ [⟨s.mem.nextOp, op, none⟩] }

end Sys2Proof.Claims

/-- 09 R257–R261: `tgive` of a thread-side tile leaves its flip to come, in a paired strand once the window is closed (16
R412); `ttake` hands a tile back at once, or with an operation pending sets return pending, and does nothing on a thread-side
tile; `towner` and `rdtd` read, `mvtd` writes the descriptor of a thread-side tile. Model's choices: `ttake` of a tile whose
return is pending (log 18). -/
def Obligations.TileInstructions : Prop :=
  (∀ (tn : TileNo) (s : State) (key : Nat), executes { tileNeed (.tgive tn) with releasing := true } s = true →
    isPaired s s.me = true → tableOf s s.me = some key → tileOwner (tileAt s key tn) = false →
    ClosesWindow (.tgive tn) (tileNeed (.tgive tn)) s) ∧
  (∀ (tn : TileNo) (s : State) (key : Nat), executes { tileNeed (.tgive tn) with releasing := true } s = true →
    tablesRise s = true → isPaired s s.me = false → tableOf s s.me = some key → tileOwner (tileAt s key tn) = false →
    ∃ t, exec (.tgive tn) s = .next t ∧ FragmentPast 1 s t ∧ ControlFrame key s t ∧ t.mem = s.mem ∧
      ∃ x, controlAt t key = { controlAt s key with gives := (controlAt s key).gives ++ [x] } ∧
        x.2.1 = tn ∧ x.2.2.1 = s.me.who.id) ∧
  (∀ (tn : TileNo) (s : State) (key : Nat), executes (tileNeed (.ttake tn)) s = true → tablesRise s = true →
    tableOf s s.me = some key →
    ∃ t, exec (.ttake tn) s = .next t ∧ FragmentPast 1 s t ∧ ControlFrame key s t ∧ t.mem = s.mem ∧
      controlAt t key =
        if tileOwner (tileAt s key tn) then
          withTile (controlAt s key) tn
            (if opPending s key tn then { tileAt s key tn with ret := true }
             else ⟨(tileAt s key tn).desc &&& ~~~0x80000000000, false⟩)
        else controlAt s key) ∧
  (∀ (d : Reg) (nw : Bool) (tn : TileNo) (s : State) (key : Nat),
    let n := { vecNeed (.towner d nw tn) d [] with tileOrder := true }
    executes n s = true → tableOf s s.me = some key →
    ∃ t, exec (.towner d nw tn) s = .next t ∧
      VecEffect n d nw (fun _ => BitVec.ofNat 32 ((if (tileAt s key tn).desc.getLsbD 43 then 1 else 0)
        + (if (tileAt s key tn).ret then 2 else 0))) 0 s t) ∧
  (∀ (d : Reg) (nw : Bool) (tn : TileNo) (s : State) (key : Nat),
    let n := { pairNeed (.rdtd d nw tn) d [] [] with tileOrder := true }
    executes n s = true → tableOf s s.me = some key →
    ∃ t, exec (.rdtd d nw tn) s = .next t ∧ PairEffect n d nw (fun _ => (tileAt s key tn).desc) 0 s t) ∧
  (∀ (tn : TileNo) (a : Reg) (s : State) (key : Nat),
    executes { tileNeed (.mvtd tn a) with regs := [a, nextReg a 1], uses := [a, nextReg a 1] } s = true → tablesRise s = true →
    tableOf s s.me = some key → descBad s key (pairAt s a (lowest s.me.cur.mask)) = false →
    tileOwner (tileAt s key tn) = false →
    ∃ t, exec (.mvtd tn a) s = .next t ∧ FragmentPast 1 s t ∧ ControlFrame key s t ∧ t.mem = s.mem ∧
      controlAt t key = withTile (controlAt s key) tn
        { tileAt s key tn with desc := pairAt s a (lowest s.me.cur.mask) })

/-- 09 R263–R274; 05 R140: with fewer than 64 operations queued and its checks met, a matrix instruction enters its operation
with the descriptors, scales and HOFF as they stand; `hclr`, `hset` and `hrd` act on a histogram that no queued drain names;
`cwait` goes on at once when the tile's OWNER is v and waits otherwise. Model's choices: which tile a misuse names (log 65). -/
def Obligations.MatrixInstructions : Prop :=
  (∀ (m : MmaArgs) (s : State), tablesRise s = true → (controlAt s (contextKey s)).queue.length < 64 →
    let key := contextKey s
    let dA := (tileAt s key m.ta).desc
    let dB := (tileAt s key m.tb).desc
    let scales := fun (r : Reg) => if m.noscale then [] else (List.finRange 32).map (fun th => (reg s r).at th)
    let regs := if m.noscale then [] else [m.areg, m.breg]
    (executes (matNeed (.mma m) regs) s = true → mmaCheck s m false = none →
      Enqueues (.mma m) (.dense m dA dB (scales m.areg) (scales m.breg) m.acc) s) ∧
    (executes (matNeed (.mmab m) regs) s = true → mmaCheck s m true = none →
      Enqueues (.mmab m) (.batched m dA dB (scales m.areg) (scales m.breg) m.acc) s) ∧
    (∀ (diag : BitVec 7) (upper : Bool) (k : BitVec 2), executes (matNeed (.mmat m diag upper k) regs) s = true →
      mmaCheck s m false = none →
      Enqueues (.mmat m diag upper k) (.tri m dA dB (scales m.areg) (scales m.breg) m.acc diag upper k) s)) ∧
  (∀ (c : CTileNo) (tn : TileNo) (fmt : Fmt) (s : State), tablesRise s = true →
    (controlAt s (contextKey s)).queue.length < 64 →
    (executes (matNeed (.czero c) []) s = true → Enqueues (.czero c) (.czero c) s) ∧
    (executes (matNeed (.cload c tn fmt) []) s = true → movedTile s tn fmt = none →
      Enqueues (.cload c tn fmt) (.cload c tn fmt (tileAt s (contextKey s) tn).desc) s) ∧
    (∀ (hist : Option HistNo) (give relu : Bool) (rm : RMode) (sreg : Reg) (ssel : BitVec 2) (rowScale : Bool),
      executes (matNeed (.cdrain c tn fmt hist give relu rm sreg ssel rowScale) [sreg]) s = true →
      movedTile s tn fmt = none →
      Enqueues (.cdrain c tn fmt hist give relu rm sreg ssel rowScale)
        (.cdrain c tn fmt hist give relu rm ((List.finRange 32).map (fun th => (reg s sreg).at th)) ssel.toNat rowScale
          (tileAt s (contextKey s) tn).desc
          (match hist with
           | some h => vget (controlAt s (contextKey s)).hoff h.toNat 0
           | none => 0)) s)) ∧
  (∀ (k : HistNo) (s : State), drainsOutstanding s k = false → tablesRise s = true →
    let key := contextKey s
    let h := vget (controlAt s key).hists k.toNat (Vector.replicate 32 0)
    (executes { words := encodeWords (.hclr k), onCtl := true } s = true →
      ∃ t, exec (.hclr k) s = .next t ∧ FragmentPast 1 s t ∧ ControlFrame key s t ∧
        controlAt t key = { controlAt s key with
          hists := vset (controlAt s key).hists k.toNat (Vector.replicate 32 0) }) ∧
    (∀ a : Sel, executes { words := encodeWords (.hset a k), sels := [a], onCtl := true } s = true →
      ∃ t, exec (.hset a k) s = .next t ∧ FragmentPast 1 s t ∧ ControlFrame key s t ∧ OnlyPops [a] s t ∧
        controlAt t key = { controlAt s key with
          hists := vset (controlAt s key).hists k.toNat
            (Vector.ofFn (fun th => if activeIn s th then operand s [a] 0 th else h[th])) }) ∧
    (∀ (d : Reg) (nw : Bool) (a : Sel), executes { vecNeed (.hrd d nw a k) d [a] with onCtl := true } s = true →
      ∃ t, exec (.hrd d nw a k) s = .next t ∧
        VecEffect { vecNeed (.hrd d nw a k) d [a] with onCtl := true } d nw
          (fun th => vget h ((operand s [a] 0 th).extractLsb' 0 5).toNat 0) 0 s t)) ∧
  (∀ (tn : TileNo) (v : Bool) (s : State),
    executes { words := encodeWords (.cwait tn v), onCtl := true, tileOrder := true, blocking := true } s = true →
    ∃ t, exec (.cwait tn v) s = .next t ∧ OnlyFragment [] s t ∧
      ((tileAt s (contextKey s) tn).desc.getLsbD 43 = v → FragmentPast 1 s t) ∧
      ((tileAt s (contextKey s) tn).desc.getLsbD 43 ≠ v → WaitsHere (.owner tn v) s t))

/-! ### Steps of lanes and strands -/

namespace Sys2Proof.Claims

open Sys2Proof Sys2Proof.Machine

/-- Resident strands have different ids, and fragments of one strand different numbers. -/
def idsDiffer (s : State) : Prop :=
  (strandsOf s).Pairwise (fun a b => a.who.id ≠ b.who.id) ∧
  ∀ st ∈ strandsOf s, (st.cur :: st.frags).Pairwise (fun f g => f.id ≠ g.id)

/-- Strand `st` has become `x`; every other strand and all else of the package stay. -/
def StrandBecomes (st : StrandId) (x : Strand) (s t : State) : Prop :=
  findStrand t st = some x ∧ (∀ id, id ≠ st → findStrand t id = findStrand s id) ∧
    t = { s with
      me := t.me
      others := t.others }

/-- A strand that may take the issue slot of a lane. -/
def candidate (s : State) (lane : LaneId) (st : Strand) : Prop := st ∈ strandsOn s lane ∧ st.readyFrags ≠ []

/-- `p` comes first by 03 R82: the oldest of those passed over 256 times, or else the oldest of the least PRIO. -/
def comesFirst (s : State) (lane : LaneId) (p : Strand) : Prop :=
  candidate s lane p ∧
  ((256 ≤ p.skip ∧ ∀ q, candidate s lane q → 256 ≤ q.skip → q.who.id ≠ p.who.id → p.age < q.age) ∨
    ((∀ q, candidate s lane q → q.skip < 256) ∧ ∀ q, candidate s lane q → q.who.id ≠ p.who.id →
      p.prio.toNat < q.prio.toNat ∨ (p.prio = q.prio ∧ p.age < q.age)))

/-- A fragment that holds the issue slot stands before a clause that begins with header `h`. -/
def beforeClause (s : State) (h : Word) : Prop :=
  s.me.here = true ∧ s.me.cur.wait = .ready ∧ s.me.mayGo s.me.cur.id = true ∧ s.mem.mode ≠ .fenced ∧ s.me.cur.inClause = false ∧
    s.me.cur.tf = none ∧ s.me.cur.slot = true ∧ s.me.cur.widx = 0 ∧ s.me.cur.hdr.toNat % 4 = 0 ∧ arrive s = none ∧ fetchAt s s.me s.me.cur.hdr = .word h ∧
    headerBad h = false ∧ (field h.toNat 27 26 = 2 → bit h.toNat 9 = true → (tableOf s s.me).isSome = true)

end Sys2Proof.Claims

/-- 02 R24, R32, R48–R50, R56, R57; 03 R82; 06 R142–R148; 09 R259; 16 R404–R406: the issue slot, the beginning of a clause,
waits that end, time slices, drowsy banks, register errors and the flips of `tgive`; a header of another package is asked of it. Model's choices: a wait for another
package's answer, the check bits of an operand log and what wakes a bank (log 16, 35, 66). -/
def Obligations.LaneAndStrandSteps : Prop :=
  (∀ (lane : LaneId) (s : State) (p : Strand) (f : Fragment) (r : List Fragment), idsDiffer s →
    slotHolder s lane = none → comesFirst s lane p → p.readyFrags = f :: r →
    ∃ t, exec (.clauseIssue lane) s = .next t ∧ t.me.who = p.who ∧ t.me.regs = p.regs ∧ t.me.skip = 0 ∧
      t.me.cur.id = f.id ∧ t.me.cur.hdr = f.hdr ∧ t.me.cur.widx = f.widx ∧ t.me.cur.mask = f.mask ∧
      t.me.cur.slot = true ∧
      (∀ q, candidate s lane q → q.who.id ≠ p.who.id → ∃ q' ∈ t.others, q'.who = q.who ∧ q'.skip = q.skip + 1) ∧
      (∀ d ∈ t.failure.drowsy, d ∈ s.failure.drowsy ∧ d.1 ≠ lane) ∧ t.mem = s.mem ∧ t.work = s.work) ∧
  (∀ (s : State), s.me.here = true → s.me.mayGo s.me.cur.id = true → s.me.cur.wait = .ready → s.me.cur.slot = true →
    (∀ f ∈ s.me.frags, f.slot = false) → exec (.clauseIssue s.me.place.lane) s = .next s) ∧
  (∀ (s : State) (h : Word), beforeClause s h →
    (h.getLsbD 11 = true → s.me.requested = true →
      ∃ t, exec .clauseBegin s = .next t ∧ yieldsWhen true s t ∧ t.me.cur.hdr = s.me.cur.hdr ∧ t.me.cur.widx = 0 ∧
        t = { sendFetch s s.me s.me.cur.hdr with me := { s.me with timeSlice := false, cur := t.me.cur } }) ∧
    ((h.getLsbD 11 = false ∨ s.me.requested = false) → headerHolds s s.me h = true →
      ∃ t, exec .clauseBegin s = .next t ∧ t.me.cur.inClause = true ∧ t.me.cur.head = h ∧ t.me.cur.widx = 1 ∧
        t.me.cur.k = 0 ∧ t.me.cur.hdr = s.me.cur.hdr ∧ t.me.cur.mask = s.me.cur.mask ∧
        t.me.cur.latches = Vector.replicate 4 (.u 0) ∧
        t = { sendFetch s s.me s.me.cur.hdr with me := { s.me with cur := t.me.cur } }) ∧
    ((h.getLsbD 11 = false ∨ s.me.requested = false) → headerHolds s s.me h = false →
      ∃ t, exec .clauseBegin s = .next t ∧ t.me.cur.wait = .header (headerWaitKind s s.me h) ∧
        t.me.cur.hdr = s.me.cur.hdr ∧ t.me.cur.widx = 0 ∧ t.me.cur.slot = false ∧
        t = { sendFetch s s.me s.me.cur.hdr with me := { s.me with cur := t.me.cur } })) ∧
  (∀ (s : State) (x : TfTest), s.me.here = true → s.me.cur.wait = .ready → s.me.mayGo s.me.cur.id = true →
    s.mem.mode ≠ .fenced → s.me.cur.inClause = false → s.me.cur.tf = some x → s.me.cur.slot = true →
    (tfWaits s = true → exec .clauseBegin s = .next s) ∧
    (tfWaits s = false → trapFlags s.me = 0 →
      ∃ t, exec .clauseBegin s = .next t ∧ yieldsWhen true s t ∧ t.me.cur.tf = none ∧ t.me.cur.slot = false ∧
        t.me.cur.hdr = s.me.cur.hdr ∧ t.me.cur.widx = s.me.cur.widx ∧ t.me.cur.mask = s.me.cur.mask ∧
        t = { s with me := { s.me with timeSlice := t.me.timeSlice, cur := t.me.cur } }) ∧
    (tfWaits s = false → trapFlags s.me ≠ 0 → s.me.halted = false → delivers s = true →
      ∃ t, exec .clauseBegin s = .next t ∧
        EntersHandler 0x04 0 ((trapFlags s.me).setWidth 64) (position s.me.cur.hdr s.me.cur.widx) x.last x.head s t)) ∧
  (∀ (st : StrandId) (frag : Nat) (s : State) (x : Strand) (f : Fragment), findStrand s st = some x →
    x.frag? frag = some f →
    (waitOver s x f = true → (x.imaging = false ∨ x.atBlockingPoint = false) →
      ∃ t, exec (.strandReady st frag) s = .next t ∧
        StrandBecomes st (x.modFrag frag (fun g => { g with wait := .ready, slot := false })) s t) ∧
    (waitOver s x f = true → x.imaging = true → x.atBlockingPoint = true → exec (.strandReady st frag) s = .next s) ∧
    (waitOver s x f = false → (∀ k, f.wait ≠ .header k) → exec (.strandReady st frag) s = .next s) ∧
    (waitOver s x f = false → (∃ k, f.wait = .header k) → ∃ t, exec (.strandReady st frag) s = .next t ∧
      StrandBecomes st (x.modFrag frag (fun g => { g with wait := .header (headerWaitKind s x f.head) })) s t)) ∧
  (∀ (st : StrandId) (s : State) (x : Strand), findStrand s st = some x →
    ((x.atBlockingPoint = false ∨ x.halted = true) → ∃ t, exec (.timeSliceExpiry st) s = .next t ∧
      StrandBecomes st { x with timeSlice := true } s t) ∧
    (x.atBlockingPoint = true → x.halted = false → exec (.timeSliceExpiry st) s = .next s)) ∧
  (∀ (lane : LaneId) (bank : Nat) (s : State),
    (∀ st ∈ strandsOn s lane, st.readyFrags = []) → (lane, bank) ∉ s.failure.drowsy →
    exec (.bankDrowsy lane bank) s =
      .next { s with failure := { s.failure with drowsy := s.failure.drowsy ++ [(lane, bank)] } }) ∧
  (∀ (st : StrandId) (frag : Nat) (what : RegSite) (threads : Mask) (s : State) (x : Strand) (f : Fragment),
    idsDiffer s → findStrand s st = some x → x.frag? frag = some f → mayRead s x f = true →
    spilled x what = false →
    (∀ e, logged s x frag what = some e → Config.logHolds s.fresh = true →
      ∃ t y, exec (.registerError st frag what threads) s = .next t ∧ StrandBecomes st y { s with fresh := s.fresh + 1 } t ∧
        (∀ r, what = .reg r → vget y.regs r.toNat (.u 0) = e.value ∧
          y = { x with regs := vset x.regs r.toNat e.value })) ∧
    ((logged s x frag what = none ∨ Config.logHolds s.fresh = false) →
      ∃ t, exec (.registerError st frag what threads) s = .next t ∧ t.me.who = x.who ∧ t.me.cur.id = frag ∧
        t.me.cur.wait = .parked (nextFault s) ∧ t.me.cur.hdr = f.hdr ∧ t.me.cur.widx = f.widx ∧ t.me.regs = x.regs)) ∧
  (∀ (tc : Nat) (tn : TileNo) (s : State) (g : Nat × TileNo × StrandId × Nat), tablesRise s = true →
    (controlAt s tc).gives.find? (fun g => g.2.1 == tn) = some g →
    (releaseReady s g.2.2.1 g.2.2.2 .quad = true →
      ∃ t, exec (.tgiveFlip tc tn) s = .next t ∧ (∀ k, k ≠ tc → controlAt t k = controlAt s k) ∧
        t = { s with engines := { s.engines with controls := t.engines.controls } } ∧
        controlAt t tc = { withTile (controlAt s tc) tn
            { tileAt s tc tn with desc := (tileAt s tc tn).desc ||| 0x80000000000 } with
          gives := dropFirst (fun x => x.2.1 == tn) (controlAt s tc).gives }) ∧
    (releaseReady s g.2.2.1 g.2.2.2 .quad = false → exec (.tgiveFlip tc tn) s = .next s))

/-! ### Launches -/

namespace Sys2Proof.Claims

open Sys2Proof Sys2Proof.Machine

/-- One launch queue has become `x`; the others stay. -/
def QueueBecomes (q : Nat) (x : LaunchQueue) (s t : State) : Prop :=
  queueAt t q = x ∧ ∀ k, k ≠ q → queueAt t k = queueAt s k

/-- A slot has been taken: QCONS advances, and a reason other than 0 stands in QERR with the slot's index (03 R66, R68). -/
def slotTaken (x : LaunchQueue) (reason : Nat) : LaunchQueue :=
  { x with
    cons := x.cons + 1
    rereads := 0
    nextRead := 0
    err := if reason = 0 then x.err
      else BitVec.ofNat 32 (x.cons.toNat % 2 ^ (x.size.toNat % 32) % 2 ^ 16 * 2 ^ 16 + reason) }

/-- A launch as it is accepted: every block index is unassigned (03 R78, R429). -/
structure Accepted (r : Record) (roles : List RoleRec) (ctx : Nat) (s : State) (l : Launch) : Prop where
  what : l.record = r ∧ l.roles = roles ∧ l.context = ctx ∧ l.free = [(0, r.gx * r.gy * r.gz)] ∧ l.runs = [] ∧ l.ended = 0
  order : l.order = s.work.acceptCount
  handle : l.handle = assignHandle s

/-- The command processor can read ranges of virtual addresses now: no unit there is to be fetched from a lender first, and no home
serves no reads (11 R322; 15 R376, R381). -/
def canRead (s : State) (ctx : Nat) (ranges : List (Nat × Nat)) : Prop := ∀ x ∈ ranges, cpAway s ctx x = []

/-- SYNC of a completed launch is one more than before (03 R65); 0 names none. -/
def SyncCounted (off : Nat) (s t : State) : Prop :=
  memoriesWf s = true → off ≠ 0 → memNat t.mem.bytes (0x70000000000 + s.work.master * 0x4000000 + off) 8 =
    (memNat s.mem.bytes (0x70000000000 + s.work.master * 0x4000000 + off) 8 + 1) % 2 ^ 64

end Sys2Proof.Claims

/-- 03 R65–R71, R78, R79, R429; 14 R368; 15 R403: doorbells, records taken from a launch queue and from a strand, torn
records, handles, and the completion of a launch; a role table in staged pages is fetched first. Model's choices: the slot index that QERR shows with reason 3 (log 88). -/
def Obligations.LaunchSteps : Prop :=
  (∀ (q : QNo) (value : Word) (s : State),
    let x := queueAt s q.toNat
    let moved := (value - x.prod).toInt
    let waiting := ((x.prod - x.cons).toNat : Int)
    ∃ t, exec (.launchDoorbell q value) s = .next t ∧
      t = { s with work := { s.work with queues := t.work.queues } } ∧
      ((moved.natAbs ≤ 2 ^ (x.size.toNat % 32) ∧ (moved < 0 → 0 ≤ waiting + moved)) →
        QueueBecomes q.toNat { x with prod := value } s t) ∧
      (¬ (moved.natAbs ≤ 2 ^ (x.size.toNat % 32) ∧ (moved < 0 → 0 ≤ waiting + moved)) →
        QueueBecomes q.toNat { x with
          err := BitVec.ofNat 32 (value.toNat % 2 ^ (x.size.toNat % 32) % 2 ^ 16 * 2 ^ 16 + 3) } s t)) ∧
  (∀ (q : QNo) (s : State), ∃ t, exec (.qerrClear q) s = .next t ∧
    QueueBecomes q.toNat { queueAt s q.toNat with err := 0 } s t ∧
    t = { s with work := { s.work with queues := t.work.queues } }) ∧
  (∀ (s : State) (q : Nat) (ws : List Word), accepting s = true → nextQueue s = some q →
    readSlot s (queueAt s q) = some ws →
    let x := queueAt s q
    let ctx := (vget s.kernel.qctx q 0).toNat % 256
    (ws.getD 0 0 = ws.getD 15 0 → ¬ canRead s ctx (recordRanges ws) →
      ∃ t, exec .launchRecordAccept s = .next t ∧ QueueBecomes q x s t ∧ t.work.launches = s.work.launches) ∧
    ((ws.getD 0 0 = ws.getD 15 0 → canRead s ctx (recordRanges ws)) →
    ∃ t, exec .launchRecordAccept s = .next t ∧ t.work.rr = (q + 1) % 16 ∧ t.mem = s.mem ∧ t.me = s.me ∧
      t.kernel = s.kernel ∧
      (ws.getD 0 0 ≠ ws.getD 15 0 →
        QueueBecomes q { x with rereads := 1, nextRead := s.tick + 4000 } s t ∧ t.work.launches = s.work.launches) ∧
      (ws.getD 0 0 = ws.getD 15 0 → isGraphRecord ws = false → checkRecord s ctx ws = none →
        QueueBecomes q (slotTaken x 1) s t ∧ t.work.launches = s.work.launches) ∧
      (ws.getD 0 0 = ws.getD 15 0 → isGraphRecord ws = true → graphRecBad ws = false →
        QueueBecomes q x s t ∧ ∃ g, t.work.graphRecs = s.work.graphRecs ++ [g] ∧ g.source = .queue q ∧ g.context = ctx) ∧
      (∀ r roles, ws.getD 0 0 = ws.getD 15 0 → isGraphRecord ws = false → checkRecord s ctx ws = some (r, roles) →
        r.gp = false →
        QueueBecomes q (slotTaken x 0) s t ∧ ∃ l, t.work.launches = s.work.launches ++ [l] ∧
          Accepted r roles ctx s l ∧ t.work.lastHandle = l.handle))) ∧
  (∀ s : State, (handlesInUse s).length < 2 ^ 20 → assignHandle s ≠ 0 ∧ assignHandle s ∉ handlesInUse s) ∧
  (∀ (q : QNo) (s : State) (ws : List Word),
    let x := queueAt s q.toNat
    accepting s = true → x.rereads ≠ 0 →
    (s.tick.toNat < x.nextRead.toNat → exec (.tornReread q) s = .next s) ∧
    (x.nextRead.toNat ≤ s.tick.toNat → readSlot s x = some ws → ws.getD 0 0 ≠ ws.getD 15 0 →
      ∃ t, exec (.tornReread q) s = .next t ∧ t.work.launches = s.work.launches ∧
        (x.rereads < 16 → QueueBecomes q.toNat { x with rereads := x.rereads + 1, nextRead := s.tick + 4000 } s t) ∧
        (16 ≤ x.rereads → QueueBecomes q.toNat (slotTaken x 2) s t ∧
          (hasRing s = true → ringRoom s = true → s.kernel.waitingFaults = [] →
            ∃ e, tget? t.kernel.written s.kernel.fqprod.toNat = some e ∧ e.cause = 0x17 ∧ e.parks = none)))) ∧
  (∀ (st : StrandId) (s : State) (d : DeviceRecord) (x : Strand), accepting s = true →
    (∀ g ∈ s.work.graphRecs, g.source ≠ .strand st) → s.work.device.find? (fun d => d.owner == st) = some d →
    findStrand s st = some x → (∀ e ∈ s.work.evicted, st ∉ e.strands) →
    (d.words.getD 0 0 ≠ d.words.getD 15 0 →
      ∃ t, exec (.deviceLaunch st) s = .next t ∧ t.work.launches = s.work.launches ∧
        t.work.device = dropFirst (fun d => d.owner == st) s.work.device ∧
        findStrand t st = some { x with acks := x.acks ++ [0x80000000] }) ∧
    (∀ r roles, d.words.getD 0 0 = d.words.getD 15 0 → isGraphRecord d.words = false →
      canRead s d.context (recordRanges d.words) → checkRecord s d.context d.words = some (r, roles) → r.gp = false →
      ∃ t l, exec (.deviceLaunch st) s = .next t ∧ t.work.launches = s.work.launches ++ [l] ∧
        Accepted r roles d.context s l ∧ t.work.device = dropFirst (fun d => d.owner == st) s.work.device ∧
        findStrand t st = some { x with acks := x.acks ++ [BitVec.ofNat 32 l.handle] })) ∧
  (∀ (handle : Nat) (s : State) (l : Launch), findLaunch s handle = some l →
    (launchOver s l = false → exec (.launchComplete handle) s = .next s) ∧
    (launchOver s l = true → l.replay = none →
      ∃ t, exec (.launchComplete handle) s = .next t ∧ findLaunch t handle = none ∧
        (∀ h, h ≠ handle → findLaunch t h = findLaunch s h) ∧ (∀ r ∈ t.work.regions, r.handle ≠ handle) ∧
        (∀ g ∈ t.work.gangs, g.handle ≠ handle) ∧ SyncCounted l.record.sync s t))

namespace Sys2Proof.Claims

open Sys2Proof Sys2Proof.Machine

/-- A graph record is done with: it leaves the list, and the slot it came from is taken. -/
def RecordDone (g : GraphRec) (reason : Nat) (s t : State) : Prop :=
  t.work.graphRecs = dropFirst (fun x => x == g) s.work.graphRecs ∧
  ∀ q, q < 16 → g.source = .queue q → queueAt t q = slotTaken (queueAt s q) reason

/-- A replay record carried out: rejected for an object that is not registered, else accepted with its parameters bound, and
every node without an incoming edge, no package gang, accepted at once (03 R73, R76, R77). -/
def ReplayCarriedOut (i : Instr) (g : GraphRec) (s : State) : Prop :=
  (s.work.graphs.find? (Graph.named g.addr g.context) = none →
    ∃ t, exec i s = .next t ∧ RecordDone g 1 s t ∧ t.work.replays = s.work.replays) ∧
  (∀ x params, s.work.graphs.find? (Graph.named g.addr g.context) = some x → bindParams s x = some params →
    canRead s x.context [(x.addr + 0x28, 8), (x.patches, 16 * x.pcount)] →
    x.rolesOf.length = x.nodes.length → (∀ r ∈ s.work.replays, r.handle ≠ assignHandle s) →
    ∃ t, exec i s = .next t ∧ RecordDone g 0 s t ∧
      (∃ r ∈ t.work.replays, r.handle = assignHandle s ∧ r.addr = g.addr ∧ r.context = g.context ∧ r.params = params ∧
        r.sync = g.sync ∧ r.done = []) ∧
      ∀ n y, x.nodes[n]? = some y → y.gp = false → hasSource x n = false →
        ∃ l ∈ t.work.launches, l.replay = some (assignHandle s, n))

end Sys2Proof.Claims

/-- 03 R72–R81: graph objects are registered, unregistered and replayed, nodes accepted once their sources have completed; a
die takes a range from the master, or the upper half of another's; and a block is placed whole on a core that fits it, the one
with the most free strand slots. Model's choices: a replay that waits for a pending copy, the order of placement and steals, and
where a range is cut so that it splits neither a die gang nor a quad gang (log 68, 88). -/
def Obligations.GraphsAndPlacement : Prop :=
  (∀ (s : State) (g : GraphRec), s.work.graphRecs.find? (fun g => g.gop == 1) = some g →
    canRead s g.context ([(g.addr, 64)] ++ graphRecords s g.context g.addr ++ graphRanges s g.context g.addr) →
    (readGraph s g.context g.addr = none →
      ∃ t, exec .graphRegister s = .next t ∧ RecordDone g 1 s t ∧ t.work.graphs = s.work.graphs) ∧
    (∀ x, readGraph s g.context g.addr = some x → graphCount s < 256 → replaysOf s g.addr g.context = [] →
      ∃ t, exec .graphRegister s = .next t ∧ RecordDone g 0 s t ∧ { x with pending := false } ∈ t.work.graphs)) ∧
  (∀ (s : State) (g : GraphRec), s.work.graphRecs.find? (fun g => g.gop == 2) = some g →
    (s.work.graphs.any (Graph.named g.addr g.context) = false →
      ∃ t, exec .graphUnregister s = .next t ∧ RecordDone g 1 s t ∧ t.work.graphs = s.work.graphs) ∧
    (s.work.graphs.any (Graph.named g.addr g.context) = true →
      ∃ t, exec .graphUnregister s = .next t ∧ RecordDone g 0 s t ∧
        t.work.graphs.any (Graph.named g.addr g.context) = false)) ∧
  (∀ (s : State) (g : GraphRec), s.work.graphRecs.find? (fun g => g.gop == 0) = some g → accepting s = true →
    (replayWaits s g.addr g.context = false → ReplayCarriedOut .graphReplay g s) ∧
    (replayWaits s g.addr g.context = true → exec .graphReplay s = .next s)) ∧
  (∀ (s : State) (g : GraphRec),
    s.work.graphRecs.find? (fun g => g.gop == 0 && !replayWaits s g.addr g.context) = some g → accepting s = true →
    ReplayCarriedOut .graphReplayStart g s) ∧
  (∀ (replay node : Nat) (s : State) (r : Replay) (g : Graph), s.work.replays.find? (fun r => r.handle == replay) = some r →
    s.work.graphs.find? (fun g => g.addr == r.addr && g.context == r.context && !g.pending) = some g →
    (node ∈ r.accepted ∨ (∃ e ∈ g.edges, e.dst = node ∧ e.src ∉ r.done) →
      exec (.graphNodeAccept replay node) s = .next s) ∧
    (∀ x roles, node ∉ r.accepted → (∀ e ∈ g.edges, e.dst = node → e.src ∈ r.done ∧ e.bufs = []) → accepting s = true →
      g.nodes[node]? = some x → g.rolesOf[node]? = some roles → x.gp = false →
      ∃ t l, exec (.graphNodeAccept replay node) s = .next t ∧ t.work.launches = s.work.launches ++ [l] ∧
        l.replay = some (replay, node) ∧ l.record.params = r.params.getD node 0 ∧ l.roles = roles)) ∧
  (∀ (die handle : Nat) (s : State) (l : Launch) (lo hi : Nat), findLaunch s handle = some l → l.record.gp = false →
    accepting s = true → die < 16 → die ∉ s.failure.fencedDies → remaining l die = 0 →
    l.free = [(lo, hi)] → lo < hi →
    let u := max 64 l.record.gang
    let m := if lo + u < hi then (lo + u) / l.record.gang * l.record.gang else hi
    ∃ t, exec (.rangeRequest die handle) s = .next t ∧
      findLaunch t handle = some { l with
        free := if m < hi then [(m, hi)] else []
        runs := l.runs.filter (fun r => r.die != die) ++ [⟨die, lo, m, none⟩] } ∧
      t = { s with work := { s.work with launches := t.work.launches, mirror := t.work.mirror } }) ∧
  (∀ (die handle v : Nat) (s : State) (l : Launch) (lo hi : Nat) (q : Option Nat), findLaunch s handle = some l →
    l.record.gp = false → die < 16 → v < 16 →
    die ∉ s.failure.fencedDies → v ∉ s.failure.fencedDies →
    v ≠ die → l.free = [] → l.runs = [⟨v, lo, hi, q⟩] →
    lo + 2 * l.record.unit ≤ hi →
    let k := (hi - lo) / (2 * l.record.unit) * l.record.unit
    let cut := max lo ((hi - k) / l.record.gang * l.record.gang)
    ∃ t, exec (.rangeSteal die handle) s = .next t ∧
      findLaunch t handle = some { l with
        runs := (if lo < cut then [⟨v, lo, cut, q⟩] else []) ++ [⟨die, cut, hi, none⟩] } ∧
      t = { s with work := { s.work with launches := t.work.launches, mirror := t.work.mirror } }) ∧
  (∀ (die : Nat) (s : State) (l : Launch) (lo hi : Nat), die < 16 → die ∉ s.failure.fencedDies → accepting s = true →
    s.work.launches = [l] → l.record.gp = false → l.record.gq = 0 → l.record.gd = 0 → l.record.pair = false →
    l.record.qbound = false → l.runs = [⟨die, lo, hi, none⟩] → lo < hi →
    (∃ c, c / 16 = die ∧ blockFits s l false c = true) →
    ∃ t core, exec (.blockPlace die) s = .next t ∧ core / 16 = die ∧ blockFits s l false core = true ∧
      (∀ c, c / 16 = die → blockFits s l false c = true → coreSlots s c ≤ coreSlots s core) ∧
      (∃ b, t.work.blocks = s.work.blocks ++ [b] ∧ b.handle = l.handle ∧ b.idx = lo ∧ b.core = core ∧ b.twin = false ∧
        b.size = l.record.scratch ∧ b.strands = l.record.strands ∧ b.abandoned = false ∧
        b.bars = Vector.replicate 16 ⟨0, 0, false, false⟩) ∧
      t.work.launches = [{ l with runs := if lo + 1 < hi then [⟨die, lo + 1, hi, none⟩] else [] }] ∧
      (∀ st ∈ strandsOf t, st ∈ strandsOf s ∨ (st.who.id.handle = l.handle ∧ st.regs = Vector.replicate 64 (.u 0) ∧
        st.preds = Vector.replicate 7 0 ∧ st.frags = [] ∧ st.cur.mask = BitVec.allOnes 32 ∧ st.cur.wait = .ready)) ∧
      t.mem = s.mem ∧ t.kernel = s.kernel)

/-! ### Engines -/

namespace Sys2Proof.Claims

open Sys2Proof Sys2Proof.Machine

/-- The operation that a quad's engine performs, and its control context. -/
def engineRuns (s : State) (quad engine : Nat) (key : Nat) (q : QueuedOp) : Prop :=
  ∃ c, c < 4 ∧ key = quad * 4 + c ∧ (controlAt s key).queue.find? (fun q => q.engine == some engine) = some q ∧
    ∀ c', c' < c → (controlAt s (quad * 4 + c')).queue.find? (fun q => q.engine == some engine) = none

/-- Element (i, j) of c-tile `n` of a control context. -/
def cElem (s : State) (key : Nat) (n : CTileNo) (i j : Nat) : Nat := ctileElem (ctileAt (controlAt s key) n) i j

/-- The product of two numbers (05 R130). -/
def timesOf : Number → Number → Number
  | .nan, _ => .nan
  | _, .nan => .nan
  | .inf s, .inf t => .inf (s != t)
  | .inf s, .real t n _ => if n = 0 then .nan else .inf (s != t)
  | .real s n _, .inf t => if n = 0 then .nan else .inf (s != t)
  | .real s n d, .real t m e => .real (s != t) (n * m) (d * e)

/-- The factor of a scale byte other than the zero scale: 10^s for a DM format, else 2^s (05 R135, R138). -/
def factorOf (f : Fmt) (byte : Byte) : Number :=
  let base := match f with
    | .dm8 | .dm6 | .dm4 => 10
    | _ => 2
  .real false (base ^ byte.toInt.toNat) (base ^ (-byte.toInt).toNat)

/-- Byte `k` of a scale register's value in a thread. -/
def scaleAt (regs : List Word) (thread k : Nat) : Byte := (regs.getD thread 0).extractLsb' (8 * k) 8

/-- Product k of an element of a c-tile: each operand with its factor, and +0 where a zero scale takes part (05 R130, R134–R136). -/
def productAt (s : State) (key : Nat) (m : MmaArgs) (dA dB : DWord) (sA sB : List Word) (row col ta tb k : Nat) : Number :=
  let a := standsFor m.fa false (tileElem s key dA row k)
  let b := standsFor m.fb false (tileElem s key dB k col)
  let bytes := (scaleAt sA ta (m.asel.toNat + k / 32), scaleAt sB tb (m.bsel.toNat + k / 32))
  if m.noscale then timesOf a b
  else if bytes.1 = 0x80 ∨ bytes.2 = 0x80 then .real false 0 1
  else timesOf (timesOf a (factorOf m.fa bytes.1)) (timesOf b (factorOf m.fb bytes.2))

/-- Whether an operand of product k is a NaN that takes part in it. -/
def nanAt (s : State) (key : Nat) (m : MmaArgs) (dA dB : DWord) (sA sB : List Word) (row col ta tb k : Nat) : Prop :=
  (standsFor m.fa false (tileElem s key dA row k) = .nan ∧ (m.noscale = true ∨ scaleAt sA ta (m.asel.toNat + k / 32) ≠ 0x80)) ∨
  (standsFor m.fb false (tileElem s key dB k col) = .nan ∧ (m.noscale = true ∨ scaleAt sB tb (m.bsel.toNat + k / 32) ≠ 0x80))

/-- The exact sum of the finite ones of some numbers, as a fraction. -/
def sumOf (l : List Number) : Int × Nat :=
  l.foldr (fun x a => match x with
    | .real neg n d => ((if neg then -(n : Int) else n) * a.2 + a.1 * d, d * a.2)
    | _ => a) (0, 1)

/-- round_ne of the exact sum of terms in a format (05 R131): NaN for a NaN term or opposite infinities; an exact zero is +0
unless every term is −0. -/
def SumsTo (f : BinFmt) (l : List Number) (r : Nat) (fl : FlagSet) : Prop :=
  if .nan ∈ l ∨ (.inf false ∈ l ∧ .inf true ∈ l) then NotANumber f false r fl
  else if .inf false ∈ l then Infinite f false r fl
  else if .inf true ∈ l then Infinite f true r fl
  else Rounds f .ne
    (if (sumOf l).1 = 0 then l.all (fun x => match x with
      | .real neg n _ => neg && n == 0
      | _ => false) else decide ((sumOf l).1 < 0))
    (sideOf ((sumOf l).1.natAbs * 2 ^ unitLog f) (sumOf l).2) r fl

/-- A finite number that is an integer, as one. -/
def wholeOf : Number → Int
  | .real neg n d => if neg then -((n / d : Nat) : Int) else (n / d : Nat)
  | _ => 0

/-- One group of an element (05 R122, R131): of a float c-tile the sum of the accumulator and the products, rounded once; of an
integer one that sum held within 40 bits. The flags are those that R139 counts. -/
def GroupGives (isInt : Bool) (acc : Nat) (l : List Number) (anyNan : Prop) (r : Nat) (fl : FlagSet) : Prop :=
  if isInt then
    let v := l.foldl (fun x p => x + wholeOf p) (BitVec.ofNat 40 acc).toInt
    let c := max (-(2 ^ 39)) (min v (2 ^ 39 - 1))
    r = (BitVec.ofInt 40 c).toNat ∧ fl = { sat := decide (c ≠ v) }
  else ∃ g, SumsTo fACC (binaryNumber fACC acc :: l) r g ∧ fl.ovf = g.ovf ∧ fl.sat = false ∧
    (fl.nv = true ↔ r = fACC.nan ∧ binaryNumber fACC acc ≠ .nan ∧ ¬ anyNan)

/-- The group loop of an element (05 R131): `acc q` is the accumulator before group `q`, whose flags are `fl q`; the operands are
row `row` of A, column `col` of B and the scales of threads `ta` and `tb`. -/
def GroupLoop (s : State) (key : Nat) (m : MmaArgs) (dA dB : DWord) (sA sB : List Word) (first row col ta tb : Nat)
    (acc : Nat → Nat) (fl : Nat → FlagSet) (last : Nat) : Prop :=
  let g := min (fmtGroup m.fa) (fmtGroup m.fb)
  let groups := (descCols dA + g - 1) / g
  let ks := fun q => (List.range (descCols dA)).filter (fun k => k / g == q)
  acc 0 = first ∧ acc groups = last ∧ (∀ q, groups ≤ q → fl q = noFlags) ∧
  ∀ q, q < groups →
    GroupGives (fmtInt m.fa) (acc q) ((ks q).map (productAt s key m dA dB sA sB row col ta tb))
      (∃ k ∈ ks q, nanAt s key m dA dB sA sB row col ta tb k) (acc (q + 1)) (fl q)

/-- A counter that is moved on stops at its greatest value (05 R139). -/
def countedOn (b : Bool) (x : Word) : Word := if b && x != 0xFFFFFFFF then x + 1 else x

/-- An operation commits (05 R129, R139): each of the three counters of its context takes at most one more, and the matching
flags join the `fflags` of the context's control program. -/
def Commits (key : Nat) (nan ovf sat : Prop) (s t : State) : Prop :=
  ∃ n o a : Bool, (n = true ↔ nan) ∧ (o = true ↔ ovf) ∧ (a = true ↔ sat) ∧
    (controlAt t key).mcnan = countedOn n (controlAt s key).mcnan ∧
    (controlAt t key).mcovf = countedOn o (controlAt s key).mcovf ∧
    (controlAt t key).mcsat = countedOn a (controlAt s key).mcsat ∧
    ∀ id st, (controlAt s key).running = some id → findStrand s id = some st →
      findStrand t id = some { st with fflags := st.fflags ||| FlagSet.word {
        nv := n
        ovf := o
        sat := a } }

/-- A product of 09 R266–R268 completes in its c-tile: the elements where `within` are computed as the group loop says from the old
value with ACC and from 0 without; the others are as `rest` says. The c-tile takes its type (05 R123), the operation commits. -/
def ProductWritten (key : Nat) (m : MmaArgs) (dA dB : DWord) (sA sB : List Word) (within : Nat → Nat → Prop)
    (place : Nat → Nat → Nat × Nat × Nat × Nat) (rest : Nat → Nat → Nat) (s t : State) : Prop :=
  (ctileAt (controlAt t key) m.ct).ty =
    (if m.acc = true ∧ (ctileAt (controlAt s key) m.ct).ty ≠ .openT then (ctileAt (controlAt s key) m.ct).ty else typeOf m.fa) ∧
  ∃ (acc : Nat → Nat → Nat → Nat) (fl : Nat → Nat → Nat → FlagSet),
    (∀ i j, i < 32 → j < 32 → within i j →
      let p := place i j
      GroupLoop s key m dA dB sA sB (if m.acc then cElem s key m.ct i j else 0) p.1 p.2.1 p.2.2.1 p.2.2.2
        (acc i j) (fl i j) (cElem t key m.ct i j)) ∧
    (∀ i j, i < 32 → j < 32 → ¬ within i j → cElem t key m.ct i j = rest i j) ∧
    let any := fun (flag : FlagSet → Bool) => ∃ i j q, i < 32 ∧ j < 32 ∧ within i j ∧ flag (fl i j q) = true
    Commits key (any (fun x => x.nv)) (any (fun x => x.ovf)) (any (fun x => x.sat)) s t

/-- What an element of a c-tile stands for (05 R121, R122). -/
def accNumber (s : State) (key : Nat) (n : CTileNo) (i j : Nat) : Number :=
  if (ctileAt (controlAt s key) n).ty = .int then integerNumber (BitVec.ofNat 40 (cElem s key n i j)).toInt
  else binaryNumber fACC (cElem s key n i j)

/-- The exact value that a drain converts (05 R137, R138): times its factor, +0 under a zero scale, and with RELU +0 where it is
below 0. -/
def drainedAs (f : Fmt) (relu : Bool) (byte : Byte) (v : Number) : Number :=
  let x := if byte = 0x80 then .real false 0 1 else timesOf v (factorOf f byte)
  match x with
  | .real true n _ => if relu && n != 0 then .real false 0 1 else x
  | .inf true => if relu then .real false 0 1 else x
  | _ => x

/-- The bin of a drained element (05 R140). -/
def InBin (hoff : Word) (x : Number) (b : Nat) : Prop :=
  match x with
  | .real _ n d =>
    if n = 0 then b = 0
    else ∃ e : Int, 2 ^ e.toNat * d ≤ n * 2 ^ (-e).toNat ∧ n * 2 ^ (-e).toNat < 2 * (2 ^ e.toNat * d) ∧
      let k := e - hoff.toInt + 15
      b = if 31 ≤ k then 31 else (max 1 (min k 30)).toNat
  | _ => b = 31

/-- A number with its sign turned. -/
def negated (x : Number) : Number := timesOf (.real true 1 1) x

/-- The element `r` that a near-memory command leaves of a target element `w` and a source element `x`, in the format of FMT; `q` is
round_ne(1 − λ × η) in FP32 (09 R281). -/
def NearGives (c : NearCmd) (q w x r : Nat) : Prop :=
  let f := if c.fmt = 0 then fF32 else if c.fmt = 1 then fBF16 else fF16
  let alpha := binaryNumber fF32 c.alpha.toNat
  match c.op with
  | .scale => ∃ fl, SumsTo f [timesOf alpha (binaryNumber f w)] r fl
  | .axpy => ∃ fl, SumsTo f [binaryNumber f w, timesOf alpha (binaryNumber f x)] r fl
  | .fade => (∃ fl, SumsTo fF32 [.real false 1 1, negated (timesOf (binaryNumber fF32 c.lambda.toNat) alpha)] q fl) ∧
    ∃ fl, SumsTo f [timesOf (binaryNumber f w) (binaryNumber fF32 q), negated (timesOf alpha (binaryNumber f x))] r fl
  | .zero => r = 0

/-- A copy command that its engine may move a row of, its one far run being ready. -/
def rowReady (s : State) (cmd row : Nat) (op : CopyOp) (c : CopyCmd) (g : Seg) : Prop :=
  findCopy s cmd = some c ∧ c.running = true ∧ c.op = op ∧ row ∈ c.rows ∧ c.segs.getD row [] = [g] ∧
    farState s c (op == .put) g = .ready ∧ g.len = rowPayload c.desc

/-- A row has been moved. -/
def RowMoved (cmd row : Nat) (c : CopyCmd) (t : State) : Prop :=
  findCopy t cmd = some { c with rows := c.rows.filter (fun r => r != row) }

/-- A unit of a near-memory command that its engine may begin. -/
def unitWaits (s : State) (cmd unit : Nat) (op : NearOp) (c : NearCmd) (u : NearUnit) : Prop :=
  s.engines.nears.find? (fun c => c.id == cmd) = some c ∧ c.units[unit]? = some u ∧ c.op = op ∧ c.windowed = false ∧
    u.state = .waiting ∧ u.value = none

/-- A unit of a near-memory command has become `u`; only the engines change. -/
def UnitBecomes (cmd unit : Nat) (u : NearUnit) (s t : State) : Prop :=
  (∃ c, t.engines.nears.find? (fun c => c.id == cmd) = some c ∧ c.units[unit]? = some u) ∧
    t = { s with engines := { s.engines with nears := t.engines.nears } }

/-- A command without a source reads none. -/
def ReadsNothing (mk : Nat → Nat → Instr) (op : NearOp) : Prop :=
  ∀ (cmd unit : Nat) (s : State) (c : NearCmd) (u : NearUnit), unitWaits s cmd unit op c u →
    ∃ t, exec (mk cmd unit) s = .next t ∧ UnitBecomes cmd unit { u with value := some [] } s t

/-- A command with a source reads its unit at the home; poison there fails the unit. -/
def ReadsSource (mk : Nat → Nat → Instr) (op : NearOp) : Prop :=
  ∀ (cmd unit : Nat) (s : State) (c : NearCmd) (u : NearUnit), unitWaits s cmd unit op c u →
    homeHeld s u.src 256 = false → nearHeld s c u.src = false → nearBefore s c u.tgt (some u.src) = false →
    (poisonedAt s u.src 256 = false → ∃ t, exec (mk cmd unit) s = .next t ∧
      UnitBecomes cmd unit { u with value := some (memRead s.mem.bytes u.src 256) } s t) ∧
    (poisonedAt s u.src 256 = true → ∃ t, exec (mk cmd unit) s = .next t ∧
      UnitBecomes cmd unit { u with state := .failed .poison } s t)

/-- The cause with which a copy command fails: that of the first borrow entry among its far accesses that are not complete which is
neither ACTIVE nor RENEWING, or else the one met (15 R401, R426). -/
def causeByEntry (s : State) (c : CopyCmd) (cause : Cause) : Cause :=
  match (c.entriesOut.filterMap (fun i => leaseCause (borrowAt s i).state)).head? with
  | some x => x
  | none => cause

/-- A promise that 09 R278 allows: 1 to 2^24 ticks ahead. -/
def promised (s : State) (p : DWord) : Prop := ∃ k, 1 ≤ k ∧ k ≤ 2 ^ 24 ∧ p = s.tick + BitVec.ofNat 64 k

/-- A resident strand that has threads and room in `q3` for another event, with none waiting. -/
def takesEvents (s : State) (id : StrandId) (st : Strand) : Prop :=
  findStrand s id = some st ∧ st.all ≠ [] ∧ st.events.length + 2 ≤ 64 ∧ s.engines.eventWait.find? (fun e => e.1 == id) = none

end Sys2Proof.Claims

/-- 03 R83; 05 R122, R123, R129–R131, R134–R141; 09 R263, R266–R272: an engine of the quad takes, of the contexts in turn, the
oldest operation that may go; its completion writes the c-tile, or drains it into its tile, counts, raises flags and takes the
operation out of the queue. Model's choices: when an element became NaN, and the binding after `czero` and `cload` (log 64,
80). -/
def Obligations.MatrixEngineSteps : Prop :=
  (∀ (quad n : Nat) (s : State) (q : QueuedOp) (before r : List QueuedOp), n < 4 → tablesRise s = true →
    let first := tget s.engines.rrQuad 0 quad
    let c := (first + n) % 4
    let key := quad * 4 + c
    let idle := fun e => ∀ c', c' < 4 → ∀ x ∈ (controlAt s (quad * 4 + c')).queue, x.engine ≠ some e
    let unbound := fun e => ∀ c', c' < 4 → ∀ x ∈ (controlAt s (quad * 4 + c')).ctiles.toList, x.bound ≠ some e
    (∀ m, m < n → ∀ x ∈ (controlAt s (quad * 4 + (first + m) % 4)).queue, x.engine ≠ none) →
    (controlAt s key).queue = before ++ q :: r → q.engine = none → (∀ x ∈ before ++ r, x.id ≠ q.id) →
    (∀ b ∈ before, b.engine ≠ none ∧ (∀ t, q.op.writesTile = some t → t ∉ b.op.tiles) ∧
      ∀ t, b.op.writesTile = some t → t ∉ q.op.tiles) →
    (s.power.throttled.contains (quad / 4) = true → exec (.matrixOpTake quad) s = .next s) ∧
    (∀ e, s.power.throttled.contains (quad / 4) = false →
      ((ctileAt (controlAt s key) q.op.ctile).bound = some e ∧ idle e ∨
        (ctileAt (controlAt s key) q.op.ctile).bound = none ∧ e < 64 ∧ idle e ∧ unbound e ∧
          ∀ e', e' < e → ¬ (idle e' ∧ unbound e')) →
      ∃ t, exec (.matrixOpTake quad) s = .next t ∧ (∀ k, k ≠ key → controlAt t k = controlAt s k) ∧
        (controlAt t key).queue = before ++ { q with engine := some e } :: r ∧
        (ctileAt (controlAt t key) q.op.ctile).bound = some e ∧
        (∀ i j, cElem t key q.op.ctile i j = cElem s key q.op.ctile i j) ∧
        tget t.engines.rrQuad 0 quad = (c + 1) % 4 ∧
        t = { s with engines := { s.engines with
          controls := t.engines.controls
          rrQuad := t.engines.rrQuad } })) ∧
  (∀ (quad engine key : Nat) (s : State) (q : QueuedOp), tablesRise s = true → engineRuns s quad engine key q →
    ∃ t, exec (.matrixOpComplete quad engine) s = .next t ∧
      (controlAt t key).queue = (controlAt s key).queue.filter (fun y => y.id != q.id) ∧
      (∀ k, k ≠ key → controlAt t k = controlAt s k) ∧
      t = { s with
        me := { s.me with fflags := t.me.fflags }
        others := t.others
        engines := { s.engines with controls := t.engines.controls }
        mem := { s.mem with scratch := t.mem.scratch } } ∧
      ((∀ n tn f h give relu rm sc sel rs d ho, q.op ≠ .cdrain n tn f h give relu rm sc sel rs d ho) → t.mem = s.mem) ∧
      (∀ n, q.op = .czero n → ctileAt (controlAt t key) n = ⟨.openT, none, []⟩ ∧ Commits key False False False s t) ∧
      (∀ m dA dB sA sB acc, q.op = .dense m dA dB sA sB acc → (fmtInt m.fa = true ↔ fmtInt m.fb = true) →
        (fmtInt m.fa = true → m.noscale = true) → m.fa ≠ .acc → m.fb ≠ .acc →
        descWidth dA = fmtWidth m.fa → descWidth dB = fmtWidth m.fb →
        keysRise none (ctileAt (controlAt s key) m.ct).elems = true →
        ProductWritten key m dA dB sA sB (fun i j => i < descRows dA ∧ j < descCols dB) (fun i j => (i, j, i, j))
          (fun i j => if m.acc then cElem s key m.ct i j else 0) s t) ∧
      (∀ m dA dB sA sB acc diag upper k, q.op = .tri m dA dB sA sB acc diag upper k →
        (fmtInt m.fa = true ↔ fmtInt m.fb = true) → (fmtInt m.fa = true → m.noscale = true) → m.fa ≠ .acc → m.fb ≠ .acc →
        descWidth dA = fmtWidth m.fa → descWidth dB = fmtWidth m.fb →
        keysRise none (ctileAt (controlAt s key) m.ct).elems = true →
        let inside := fun (i j : Nat) => i < descRows dA ∧ j < descCols dB
        let kept := fun (i j : Nat) => if upper then (i : Int) + diag.toInt ≤ j else (j : Int) ≤ i + diag.toInt
        ProductWritten key m dA dB sA sB (fun i j => inside i j ∧ kept i j) (fun i j => (i, j, i, j))
          (fun i j => if i < descRows dA ∧ j < descCols dB then maskConst (fmtInt m.fa) k
            else if m.acc then cElem s key m.ct i j else 0) s t) ∧
      (∀ m dA dB sA sB acc, q.op = .batched m dA dB sA sB acc → (fmtInt m.fa = true ↔ fmtInt m.fb = true) →
        (fmtInt m.fa = true → m.noscale = true) → m.fa ≠ .acc → m.fb ≠ .acc →
        descWidth dA = fmtWidth m.fa → descWidth dB = fmtWidth m.fb →
        keysRise none (ctileAt (controlAt s key) m.ct).elems = true →
        let p := fun (i j : Nat) => 4 * (i / 8) + j / 8
        ProductWritten key m dA dB sA sB (fun _ _ => True) (fun i j => (8 * p i j + i % 8, 8 * p i j + j % 8, p i j, p i j))
          (fun _ _ => 0) s t) ∧
      (∀ n tn f d, q.op = .cload n tn f d → descWidth d = fmtWidth f → keysRise none (ctileAt (controlAt s key) n).elems = true →
        (ctileAt (controlAt t key) n).ty = (if f = .acc then .openT else typeOf f) ∧
        (ctileAt (controlAt t key) n).bound = none ∧ Commits key False False False s t ∧
        ∀ i j, i < 32 → j < 32 →
          if f = .acc then cElem t key n i j = leNat (quadRead s key (rowOffset d i + 8 * j) 8) % 2 ^ 40
          else if fmtInt f then cElem t key n i j = (BitVec.ofInt 40 (wholeOf (standsFor f false (tileElem s key d i j)))).toNat
          else ∃ fl, ToFloat fACC .ne false (standsFor f false (tileElem s key d i j)) (cElem t key n i j) fl) ∧
      (∀ n tn f h give relu rm sc sel rs d ho r, q.op = .cdrain n tn f h give relu rm sc sel rs d ho →
        quadRegionOf s key = some r → memoriesWf s = true → descWidth d = fmtWidth f → descRows d = 32 →
        descCols d = (if f = .acc then 64 else 32) → (f = .acc → descTrn d = false) →
        let byteAt := fun i => scaleAt sc (if rs then i else 0) sel
        let x := fun i j => drainedAs f relu (byteAt i) (accNumber s key n i j)
        (ctileAt (controlAt t key) n).bound = none ∧ (∀ i j, cElem t key n i j = cElem s key n i j) ∧
        (ctileAt (controlAt t key) n).ty = (ctileAt (controlAt s key) n).ty ∧
        (give = true → tileOwner (tileAt t key tn) = false ∧ (tileAt t key tn).ret = false) ∧
        (∀ y, (∀ row k, row < 32 → k < rowPayload d → quadByte r (rowOffset d row + k) ≠ y) →
          memByte t.mem.scratch y = memByte s.mem.scratch y) ∧
        (f = .acc → Commits key False False False s t ∧ (controlAt t key).hists = (controlAt s key).hists ∧
          ∀ i j, i < 32 → j < 32 → leNat (quadRead t key (rowOffset d i + 8 * j) 8) = cElem s key n i j +
            (if (ctileAt (controlAt s key) n).ty = .int then 2 ^ 40 else 0)) ∧
        (f ≠ .acc →
          (∃ fl : Nat → Nat → FlagSet,
            (∀ i j, i < 32 → j < 32 → Converts f rm false (x i j) (tileElem t key d i j) (fl i j)) ∧
            let any := fun (flag : FlagSet → Bool) => ∃ i j, i < 32 ∧ j < 32 ∧ flag (fl i j) = true
            Commits key (any (fun x => x.nv)) (any (fun x => x.ovf)) (any (fun x => x.sat)) s t) ∧
          (h = none → (controlAt t key).hists = (controlAt s key).hists) ∧
          ∀ k, h = some k → ∃ bins : Nat → Nat → Nat, (∀ i j, i < 32 → j < 32 → InBin ho (x i j) (bins i j)) ∧
            ∀ b : Fin 32, (vget (controlAt t key).hists k.toNat (Vector.replicate 32 0))[b] =
              BitVec.ofNat 32 (min ((vget (controlAt s key).hists k.toNat (Vector.replicate 32 0))[b].toNat +
                (grid.filter (fun p => bins p.1 p.2 == b.val)).length) 0xFFFFFFFF))))

/-- 03 R84; 09 R257, R258, R275–R282; 15 R400–R402: copy engines take commands, promise, move rows, complete or fail;
near-memory engines read, apply and complete. Model's choices: what a failed copy leaves, and when its far rows are translated
(log 10, 75). -/
def Obligations.CopyAndNearSteps : Prop :=
  (∀ (die : Nat) (s : State) (c : CopyCmd) (e : Nat) (st : Strand), nextCopy s die = some c →
    (List.range 32).find? (fun e => !(busyEngines s die).contains e) = some e → die ∉ s.failure.fencedDies →
    c.stale = false → findCopy s c.id = some c → findStrand s c.owner = some st →
    ∃ t p, exec (.copyCommandTake die) s = .next t ∧ promised s p ∧
      findCopy t c.id = some { c with engine := some e, promise := some p } ∧
      (∀ id, id ≠ c.id → findCopy t id = findCopy s id) ∧
      findStrand t c.owner = some { st with promises := st.promises ++ [loW p] } ∧ t.mem = s.mem) ∧
  (∀ (cmd row : Nat) (s : State) (c : CopyCmd) (g : Seg) (r : QuadRegion), rowReady s cmd row .get c g →
    memoriesWf s = true →
    g.kind ≠ 2 → (isLocal s g.fab = true ∨ c.space = 2) → quadRegionOf s c.control = some r →
    rowOffset c.desc row + rowPayload c.desc ≤ 2 ^ 24 →
    ∃ t, exec (.get cmd row) s = .next t ∧ RowMoved cmd row c t ∧ t.mem.bytes = s.mem.bytes ∧ t.me = s.me ∧
      (∀ i, i < rowPayload c.desc →
        memByte t.mem.scratch (quadByte r (rowOffset c.desc row + i)) = (segRead s c g).getD i 0) ∧
      ∀ x, (∀ i, i < rowPayload c.desc → quadByte r (rowOffset c.desc row + i) ≠ x) →
        memByte t.mem.scratch x = memByte s.mem.scratch x) ∧
  (∀ (cmd row : Nat) (s : State) (c : CopyCmd) (g : Seg) (r : QuadRegion), rowReady s cmd row .put c g →
    memoriesWf s = true →
    tileRowPoisoned s c row = false → g.kind = 0 → c.space = 0 → isLocal s g.fab = true →
    quadRegionOf s c.control = some r →
    ∃ t, exec (.put cmd row) s = .next t ∧ RowMoved cmd row c t ∧ t.mem.scratch = s.mem.scratch ∧
      (∀ i, i < g.len → memByte t.mem.bytes (fabLocal g.fab + i) =
        memByte s.mem.scratch (quadByte r (rowOffset c.desc row + i))) ∧
      ∀ x, (x < fabLocal g.fab ∨ fabLocal g.fab + g.len ≤ x) → memByte t.mem.bytes x = memByte s.mem.bytes x) ∧
  (∀ (cmd row : Nat) (s : State) (c : CopyCmd) (r : QuadRegion), findCopy s cmd = some c → c.running = true →
    c.op = .fill → row ∈ c.rows → c.segs = [] → memoriesWf s = true → quadRegionOf s c.control = some r →
    rowOffset c.desc row + rowPayload c.desc ≤ 2 ^ 24 →
    ∃ t, exec (.fill cmd row) s = .next t ∧ RowMoved cmd row c t ∧ t.mem.bytes = s.mem.bytes ∧
      ∀ i, i < rowPayload c.desc →
        memByte t.mem.scratch (quadByte r (rowOffset c.desc row + i)) = c.value.extractLsb' (8 * (i % 4)) 8) ∧
  (∀ (cmd : Nat) (s : State) (c : CopyCmd) (st : Strand), findCopy s cmd = some c → c.running = true →
    (c.rows ≠ [] ∨ c.unacked ≠ [] → exec (.copyComplete cmd) s = .next s) ∧
    (c.rows = [] → c.unacked = [] → tablesRise s = true → takesEvents s c.owner st → s.engines.copies.filter (fun x => x.id == cmd) = [c] →
      ∃ t, exec (.copyComplete cmd) s = .next t ∧ t.mem = s.mem ∧
        (tileAt t c.control c.tile).desc = (tileAt s c.control c.tile).desc &&& ~~~0x80000000000 ∧
        (tileAt t c.control c.tile).ret = false ∧ (∀ x ∈ t.engines.copies, x.id = cmd → x.handed = some s.tick) ∧
        findStrand t c.owner = some { st with events := st.events ++
          (if c.event then [BitVec.ofNat 32 (2 ^ 28 + c.tile.toNat), loW s.tick] else []) })) ∧
  (∀ (cmd : Nat) (s : State) (c : CopyCmd) (p : DWord), findCopy s cmd = some c → c.promise = some p →
    (s.tick.toNat ≤ p.toNat → exec (.promiseDecision cmd) s = .next s) ∧
    (p.toNat < s.tick.toNat → c.decided = false → c.handed ≠ none →
      s.engines.copies.filter (fun x => x.id == cmd) = [c] →
      ∃ t, exec (.promiseDecision cmd) s = .next t ∧ (∀ x ∈ t.engines.copies, x.id = cmd → x.decided = true) ∧
        (∀ x ∈ t.engines.undecided, x.2.2 ≠ cmd) ∧
        t = { s with engines := { s.engines with
          copies := t.engines.copies
          undecided := t.engines.undecided } }) ∧
    (p.toNat < s.tick.toNat → c.decided = false → c.handed = none → c.failure = none → c.again < 3 →
      ∃ t q, exec (.promiseDecision cmd) s = .next t ∧ promised s q ∧
        findCopy t cmd = some { c with promise := some q, again := c.again + 1 } ∧
        (c.owner, c.tile, p, cmd) ∈ t.engines.missed ∧ (c.owner, q, cmd) ∈ t.engines.undecided ∧ t.mem = s.mem ∧
        ∀ st, takesEvents s c.owner st → findStrand t c.owner = some { st with events := st.events ++
          [BitVec.ofNat 32 (2 * 2 ^ 28 + c.tile.toNat), loW q] }) ∧
    (∀ st, p.toNat < s.tick.toNat → c.decided = false → c.handed = none → c.failure = none → 3 ≤ c.again →
      takesEvents s c.owner st → (tileAt s c.control c.tile).ret = false →
      s.engines.copies.filter (fun x => x.id == cmd) = [c] →
      ∃ t, exec (.promiseDecision cmd) s = .next t ∧ (c.owner, c.tile, p, cmd) ∈ t.engines.missed ∧
        tileAt t c.control c.tile = tileAt s c.control c.tile ∧
        (∀ x ∈ t.engines.copies, x.id = cmd → x.failure = some .promiseMissed) ∧
        ∃ st', findStrand t c.owner = some st' ∧ st'.events = st.events ++
          [BitVec.ofNat 32 (3 * 2 ^ 28 + c.tile.toNat), 0x06])) ∧
  (∀ (cmd : Nat) (cause : Cause) (s : State) (c : CopyCmd), findCopy s cmd = some c → c.running = true →
    (mayFail s c cause = false → exec (.copyFailed cmd cause) s = .next s) ∧
    (∀ st, mayFail s c cause = true → takesEvents s c.owner st → (tileAt s c.control c.tile).ret = false →
      s.engines.copies.filter (fun x => x.id == cmd) = [c] →
      ∃ t, exec (.copyFailed cmd cause) s = .next t ∧ t.fresh = s.fresh + 1 ∧
        tileAt t c.control c.tile = tileAt s c.control c.tile ∧
        (∀ x ∈ t.engines.copies, x.id = cmd → x.failure = some (causeByEntry s c cause)) ∧
        ∃ st', findStrand t c.owner = some st' ∧ st'.events = st.events ++
          [BitVec.ofNat 32 (3 * 2 ^ 28 + c.tile.toNat), BitVec.ofNat 32 (causeCode (causeByEntry s c cause))])) ∧
  ReadsNothing Instr.scale .scale ∧ ReadsNothing Instr.zero .zero ∧ ReadsSource Instr.axpy .axpy ∧
  ReadsSource Instr.fade .fade ∧
  (∀ (cmd unit : Nat) (s : State) (c : NearCmd) (u : NearUnit) (src : List Byte),
    s.engines.nears.find? (fun c => c.id == cmd) = some c → c.units[unit]? = some u → u.value = some src →
    memoriesWf s = true → u.state = .waiting → writeHeld s u.tgt 256 = false → nearHeld s c u.tgt = false →
    nearBefore s c u.tgt none = false →
    (c.op = .axpy ∨ c.op = .fade → ∀ v ∈ c.units, v.src = u.tgt → v.state = .waiting → v.value ≠ none) →
    poisonedAt s u.tgt 256 = false →
    ∃ t c', exec (.nearUnitApply cmd unit) s = .next t ∧
      memRead t.mem.bytes u.tgt 256 = nearBytes c (memRead s.mem.bytes u.tgt 256) src ∧
      (c.fmt ≤ 2 → ∃ q, ∀ i,
        let n := if c.fmt = 0 then 4 else 2
        n * i < 256 → NearGives c q (memNat s.mem.bytes (u.tgt + n * i) n) (leNat ((src.drop (n * i)).take n))
          (memNat t.mem.bytes (u.tgt + n * i) n)) ∧
      (∀ x, (x < u.tgt ∨ u.tgt + 256 ≤ x) → memByte t.mem.bytes x = memByte s.mem.bytes x) ∧
      t.engines.nears.find? (fun c => c.id == cmd) = some c' ∧
      (c'.units[unit]?).map (fun v => v.state) = some (if hasParity s u.tgt then .applied else .done)) ∧
  (∀ (cmd : Nat) (s : State) (c : NearCmd) (st : Strand), s.engines.nears.find? (fun c => c.id == cmd) = some c →
    (c.units.all (fun u => u.state.finished) = false → exec (.nearCommandComplete cmd) s = .next s) ∧
    (c.units.all (fun u => u.state.finished) = true → findStrand s c.owner = some st → st.all ≠ [] →
      ∃ t, exec (.nearCommandComplete cmd) s = .next t ∧ (∀ x ∈ t.engines.nears, x.id ≠ cmd) ∧
        t.mem.bytes = s.mem.bytes ∧
        findStrand t c.owner = some { st with completions := st.completions ++ [completionWord c] } ∧
        ((∀ u ∈ c.units, u.state = .done) → completionWord c = BitVec.ofNat 32 c.tag)))

/-! ### Accesses at their homes -/

namespace Sys2Proof.Claims

open Sys2Proof Sys2Proof.Machine

/-- An access of an outstanding operation, by number. -/
def accAt (s : State) (op acc : Nat) : Option Access := (findAcc s op acc).map Prod.snd

/-- Access `acc` of operation `op` has become `a`; its other accesses and the other operations stay. -/
def AccBecomes (op acc : Nat) (a : Access) (s t : State) : Prop :=
  ∃ o, findOp s op = some o ∧ findOp t op = some { o with accs := o.accs.set acc a } ∧
    ∀ k, k ≠ op → findOp t k = findOp s k

/-- Only the list of outstanding operations changes. -/
def OnlyOps (s t : State) : Prop := t = { s with mem := { s.mem with ops := t.mem.ops } }

/-- An access has become `a`, and nothing else has changed. -/
def OnlyAcc (i : Instr) (op acc : Nat) (a : Access) (s : State) : Prop :=
  ∃ t, exec i s = .next t ∧ AccBecomes op acc a s t ∧ OnlyOps s t

/-- A load's access has its value, and so has every other access of the load to the same bytes that had none (08 R213). -/
def LoadBecomes (op acc : Nat) (a : Access) (v : BitVec 128) (s t : State) : Prop :=
  ∃ o l, findOp s op = some o ∧ findOp t op = some { o with accs := l } ∧ l.length = o.accs.length ∧
    (∀ k b, o.accs[k]? = some b → l[k]? = some
      (if k = acc ∨ (b.state = .waiting ∨ b.state = .switched) ∧ a.kind ≠ 5 ∧ b.fab = a.fab ∧ b.size = a.size then
        { b with
          state := .done
          result := v }
      else b)) ∧
    ∀ k, k ≠ op → findOp t k = findOp s k

/-- A load's access has its value, and nothing else has changed. -/
def OnlyLoad (i : Instr) (op acc : Nat) (a : Access) (v : BitVec 128) (s : State) : Prop :=
  ∃ t, exec i s = .next t ∧ LoadBecomes op acc a v s t ∧ OnlyOps s t

/-- An access has left for another package, with the tag of its die for that home, as one flit more that its port holds (15
R391, R394). -/
def SentAway (i : Instr) (op acc die : Nat) (a : Access) (fab : Nat) (s : State) : Prop :=
  ∃ t, exec i s = .next t ∧
    AccBecomes op acc { a with state := .switched, seq := (nextTag s die fab).seq, sent := s.tick } s t ∧
    t = { s with
      mem := { s.mem with ops := t.mem.ops }
      links := { s.links with
        sequence := t.links.sequence
        ports := t.links.ports }
      outbox := s.outbox ++ [awayRequest s op acc (nextTag s die fab) fab] }

/-- A message leaves: one to this package itself needs no link; one to another is a flit more in the replay buffer of the port that
leads there, or while that link is full waits in its order (01 R11; 15 R391). -/
def Sends (dest : Nat) (m : OutMsg) (s t : State) : Prop :=
  if dest = pkgNo s then
    t.outbox = s.outbox ++ [m] ∧ t.links.ports = s.links.ports ∧ t.links.queued = s.links.queued
  else if linkFull s dest = true then
    t.outbox = s.outbox ∧ t.links.ports = s.links.ports ∧ t.links.queued = s.links.queued ++ [(dest, m)]
  else
    t.outbox = s.outbox ++ [m] ∧ t.links.queued = s.links.queued ∧
      ∃ i, outPort s dest = some i ∧ t.links.ports = vset s.links.ports i
        { vget s.links.ports i .untrained with buffer := (vget s.links.ports i .untrained).buffer ++ [(dest, m)] }

/-- What a message that leaves may change. -/
def SendFrame (s t : State) : Prop :=
  t = { s with
    links := { s.links with
      ports := t.links.ports
      queued := t.links.queued }
    outbox := t.outbox }

/-- A message has left, or waits for room on its link. -/
def Out (dest : Nat) (m : OutMsg) (t : State) : Prop := m ∈ t.outbox ∨ (dest, m) ∈ t.links.queued

/-- A request of the package's own agents to the home of `fab`, in the name of a die: it is waited for from now on; it leaves
with the die's next tag, or with 256 requests out to that home is held until one is free (15 R394, R395). -/
def Asks (dest die fab : Nat) (m : OutMsg) (s t : State) : Prop :=
  ⟨dest, m, s.tick, 0, tagsUsed s die fab⟩ ∈ t.links.awaited ∧
    (tagsUsed s die fab = true → t.outbox = s.outbox ∧ t.links.ports = s.links.ports ∧
      t.links.queued = s.links.queued ∧ t.links.sequence = s.links.sequence) ∧
    (tagsUsed s die fab = false → Sends dest m s t ∧
      (tablesRise s = true → (nextTag t die fab).seq = ((nextTag s die fab).seq + 1) % 2 ^ 16))

/-- An access has gone to the package switch, a fetch of the unit of its staging frame having been asked of the lender: with the
next tag of the frame's die, or, with 256 requests out to that home, held until one is free (15 R394, R395). -/
def FetchSent (i : Instr) (op acc : Nat) (a : Access) (s : State) : Prop :=
  let unit := stageUnit s a.index a.fab
  let b := borrowAt s a.index
  let die := unitDie s a.index unit
  let fab := unitFab s a.index unit
  let m : OutMsg := .stageFetch (nextTag s die fab) a.index unit b.leaseId
  ∃ t w, exec i s = .next t ∧ AccBecomes op acc { a with state := .switched } s t ∧ w ∈ t.links.awaited ∧
    w = ⟨b.lender, m, s.tick, 0, tagsUsed (modAcc op acc (fun a => { a with state := .switched }) s) die fab⟩ ∧
    (w.held = false → Out b.lender m t) ∧ t.mem.bytes = s.mem.bytes ∧ t.me = s.me

/-- What may change when an agent writes at a home: home memory, watches that the write answers, near copies and the
messages that leave; strands, scratchpads and parity stay. -/
def HomeFrame (s t : State) : Prop :=
  t = { s with
    mem := { t.mem with
      parity := s.mem.parity
      scratch := s.mem.scratch
      slices := s.mem.slices }
    links := { s.links with
      filter := t.links.filter
      ports := t.links.ports
      queued := t.links.queued }
    outbox := t.outbox
    fresh := t.fresh }

/-- `bs` has been written at local address `x`, and no other byte. -/
def HomeWritten (x : Nat) (bs : List Byte) (s t : State) : Prop :=
  memRead t.mem.bytes x bs.length = bs ∧
    ∀ y, (y < x ∨ x + bs.length ≤ y) → memByte t.mem.bytes y = memByte s.mem.bytes y

/-- The owner of an operation has threads, so it does not end. -/
def ownerLives (s : State) (o : Op) : Prop := ∃ st, findStrand s o.owner = some st ∧ st.all ≠ []

/-- Whether an operation loads, by `ld`, `ldv` or `acq`. -/
def loads (o : Op) : Bool := o.what.isLoad

/-- Nothing keeps an access from leaving for another package now: a route, a tag and room in the link's replay buffer (04 R92;
15 R391, R394). -/
def mayLeave (s : State) (die fab : Nat) : Prop :=
  reaches s (fabPkg fab) = true ∧ tagsUsed s die fab = false ∧ linkFull s (fabPkg fab) = false

/-- A unit of a staging frame whose fetch may be asked for: ABSENT, or CLEAN. -/
def fetchable (u : Staged) : Prop := u = .absent ∨ ∃ tick, u = .clean tick

/-- Whether it stores, by `st` or `rel`. -/
def storesOut : OpKind → Bool
  | .store | .rel => true
  | _ => false

/-- The near copy that serves a load: `ldv` and `acq` take none (08 R215). -/
def servedByCopy (s : State) (o : Op) (a : Access) : Option NearCopy :=
  if o.what.plainLoad && copyable s o.die a.fab a.kind a.clevel then nearCopy? s o.die (a.fab / 128) else none

/-- The state of an access after its write has been applied (04 R106). -/
def afterWrite (s : State) (x : Nat) : AccState := if hasParity s x then .applied else .done

/-- A line's value with its partials combined, one after another in ascending order of their holders (08 R231). -/
def lineCombined (s : State) (x : Nat) : List Byte :=
  (sortBy (fun p => p.core) (holdersOf (s.mem.partials.filter (fun p => p.addr / 128 == x / 128)))).foldl
    (fun b h => combineHolder (x / 128 * 128) (s.mem.partials.filter (fun p => p.addr / 128 == x / 128)) h b)
    (memRead s.mem.bytes (x / 128 * 128) 128)

/-- An access of an HBM or pool page, or of a die's scratchpad: no staging frame, no MMIO. -/
def plainKind (a : Access) : Prop := a.kind ≠ 2 ∧ a.kind ≠ 4 ∧ a.kind ≠ 5

end Sys2Proof.Claims

/-- 03 R67; 04 R101–R109; 08 R213–R217, R231; 11 R322; 15 R376–R379, R394: what a load and a store do at their home, near
copies, staging frames, MMIO ranges and other packages included; and a parity delta, applied in home order. Model's choices: what waits for a store
on its way, routes, and staged stores at a closed entry (log 25, 37, 70). -/
def Obligations.HomeAccesses : Prop :=
  (∀ (op acc : Nat) (s : State) (o : Op) (a : Access), findAcc s op acc = some (o, a) → loads o = true →
    let i : Instr := .homeAccess op acc
    let x := fabLocal a.fab
    let value := fun (bs : List Byte) => seen s o a bs
    (mayGo s o acc a true = false → exec i s = .next s) ∧
    (mayGo s o acc a true = true →
      (∀ c, a.kind ≠ 4 → a.kind ≠ 5 → servedByCopy s o a = some c → OnlyLoad i op acc a (value (copyBytes c a)) s) ∧
      (plainKind a → servedByCopy s o a = none → isLocal s a.fab = true →
        (homeHeld s x a.size = true → exec i s = .next s) ∧
        (homeHeld s x a.size = false → ownServes s x = true →
          (poisonedAt s x a.size = true → OnlyAcc i op acc { a with state := .failed .poison } s) ∧
          (poisonedAt s x a.size = false →
            ∃ t, exec i s = .next t ∧ LoadBecomes op acc a (value (memRead s.mem.bytes x a.size)) s t ∧
              t = { s with
                mem := { s.mem with
                  ops := t.mem.ops
                  copies := t.mem.copies }
                fresh := t.fresh } ∧
              ∀ c ∈ t.mem.copies, c ∈ s.mem.copies ∨ (c.die = o.die ∧ c.line = a.fab / 128 ∧ c.tick = s.tick)))) ∧
      (a.kind = 2 → servedByCopy s o a = none → isLocal s a.fab = true → writeHeld s x a.size = false →
        ownServes s x = true → poisonedAt s x a.size = false → 0 < a.size → x % 128 + a.size ≤ 128 →
        lineWatched s x = false → memoriesWf s = true →
        ∃ t, exec i s = .next t ∧ HomeWritten (x / 128 * 128) (lineCombined s x) s t ∧
          (∀ p ∈ t.mem.partials, p.addr / 128 ≠ x / 128) ∧ t.me = s.me ∧
          accAt t op acc = some
            { a with
              state := .done
              result := seen { s with mem := { s.mem with bytes := t.mem.bytes } } o a (memRead t.mem.bytes x a.size) }) ∧
      (a.kind ≠ 4 → a.kind ≠ 5 → servedByCopy s o a = none → isLocal s a.fab = false →
        (storesAhead s o a = true → exec i s = .next s) ∧
        (storesAhead s o a = false →
          (reaches s (fabPkg a.fab) = false → OnlyAcc i op acc { a with state := .failed .remoteFault } s) ∧
          (linkFull s (fabPkg a.fab) = true → reaches s (fabPkg a.fab) = true → exec i s = .next s) ∧
          (mayLeave s o.die a.fab → SentAway i op acc o.die a a.fab s))) ∧
      (a.kind = 5 → mmioHeld s o acc = false →
        ∃ t, exec i s = .next t ∧
          AccBecomes op acc { a with state := .done, result := BitVec.ofNat 128 (mmioRead s x a.size) } s t ∧
          t = { s with
            mem := { s.mem with ops := t.mem.ops }
            fresh := s.fresh + 1 }) ∧
      (a.kind = 4 → o.what.plainLoad = true → absentUnits s a.index a.fab a.size = [] → homeHeld s x a.size = false →
        poisonedAt s x a.size = false → OnlyLoad i op acc a (value (memRead s.mem.bytes x a.size)) s) ∧
      (a.kind = 4 → o.what.plainLoad = true → absentUnits s a.index a.fab a.size ≠ [] →
        leaseCause (borrowAt s a.index).state = none → fetchHeld s o = false →
        fetchable (stagedAt s a.index (stageUnit s a.index a.fab)) → FetchSent i op acc a s) ∧
      (∀ c, a.kind = 4 → (o.what.plainLoad = false ∨ absentUnits s a.index a.fab a.size ≠ []) →
        leaseCause (borrowAt s a.index).state = some c → OnlyAcc i op acc { a with state := .failed c } s) ∧
      (a.kind = 4 → o.what.plainLoad = false → leaseCause (borrowAt s a.index).state = none → fetchHeld s o = false →
        storesAhead s o a = false → tablesRise s = true → fetchable (stagedAt s a.index (stageUnit s a.index a.fab)) →
        FetchSent i op acc a s ∧
          ∀ t, exec i s = .next t → stagedAt t a.index (stageUnit s a.index a.fab) = .fetching false))) ∧
  (∀ (op acc : Nat) (s : State) (o : Op) (a : Access), findAcc s op acc = some (o, a) → storesOut o.what = true →
    ownerLives s o →
    let i : Instr := .homeAccess op acc
    let x := fabLocal a.fab
    let data := leBytes a.size a.data.toNat
    (mayGo s o acc a false = false → exec i s = .next s) ∧
    (mayGo s o acc a false = true →
      (plainKind a → isLocal s a.fab = true →
        (writeHeld s x a.size = true → exec i s = .next s) ∧
        (writeHeld s x a.size = false → ownServes s x = true → memoriesWf s = true →
          (∀ d, zoneOf (isPlain s) x = .die d → d ∉ s.failure.fencedDies) →
          ∃ t, exec i s = .next t ∧ HomeWritten x data s t ∧ HomeFrame s t ∧
            ∀ b, accAt t op acc = some b → b.state = afterWrite s x)) ∧
      (a.kind = 2 → isLocal s a.fab = true → writeHeld s x a.size = false → ownServes s x = true → memoriesWf s = true →
        (∀ d, zoneOf (isPlain s) x ≠ .die d) → 0 < a.size → x % 128 + a.size ≤ 128 →
        ∃ t, exec i s = .next t ∧ memRead t.mem.bytes x a.size = data ∧
          (∀ y, y / 128 ≠ x / 128 → memByte t.mem.bytes y = memByte s.mem.bytes y) ∧
          (∀ p ∈ t.mem.partials, p.addr / 128 ≠ x / 128) ∧ t.me = s.me) ∧
      (a.kind ≠ 4 → a.kind ≠ 5 → isLocal s a.fab = false →
        (mayLeave s o.die a.fab → SentAway i op acc o.die a a.fab s) ∧
        (∀ st, reaches s (fabPkg a.fab) = false → findStrand s o.owner = some st →
          ∃ t, exec i s = .next t ∧ t.mem.bytes = s.mem.bytes ∧
            findStrand t o.owner = some (recordPsf .remoteFault (BitVec.ofNat 64 a.fab) a.index st))) ∧
      (a.kind = 5 → (zoneOf (isPlain s) x = .doorbell ∧ releaseReady s o.owner op .sys = false ∨
        mmioHeld s o acc = true) → exec i s = .next s) ∧
      (a.kind = 5 → mmioHeld s o acc = false → (zoneOf (isPlain s) x = .doorbell → releaseReady s o.owner op .sys = true) →
        (a.size = 4 ∨ a.size = 8) → x % a.size = 0 → isMmio s x = true → a.data.toNat < 2 ^ 64 →
        ∃ t, exec (.registerWrite x a.size (a.data.setWidth 64)) (modAcc op acc (fun a => { a with state := .done }) s)
            = .next t ∧ exec i s = .next (settleOp op t)) ∧
      (a.kind = 4 → leaseCause (borrowAt s a.index).state = none → absentUnits s a.index a.fab a.size = [] →
        0 < a.size → writeHeld s x a.size = false → memoriesWf s = true → tablesRise s = true →
        ∃ t, exec i s = .next t ∧ HomeWritten x data s t ∧ HomeFrame s t ∧
          o.owner ∈ (stagedAt t a.index (stageUnit s a.index a.fab)).owers) ∧
      (a.kind = 4 → leaseCause (borrowAt s a.index).state = none →
        fetchHeld s o = false → stageUnit s a.index a.fab ∈ absentUnits s a.index a.fab a.size →
        fetchable (stagedAt s a.index (stageUnit s a.index a.fab)) → FetchSent i op acc a s) ∧
      (∀ c st, a.kind = 4 → leaseCause (borrowAt s a.index).state = some c → findStrand s o.owner = some st →
        ∃ t, exec i s = .next t ∧ t.mem.bytes = s.mem.bytes ∧
          findStrand t o.owner = some (recordPsf (if c = .lenderLost then .lenderLost else .leaseExpired)
            (BitVec.ofNat 64 a.fab) a.index st)))) ∧
  (∀ (op acc : Nat) (s : State) (o : Op) (a : Access), findAcc s op acc = some (o, a) →
    let x := fabLocal a.fab
    ((a.state ≠ .applied ∨ deltaRefused s x = true ∨ deltaBehind s op acc x = true) →
      exec (.parityDeltaApply op acc) s = .next s) ∧
    (∀ l d r, a.state = .applied → s.mem.deltas = l ++ d :: r → (op, acc) ∉ l → d ≠ (op, acc) →
      deltaUnit s d = some (x / 256) → exec (.parityDeltaApply op acc) s = .next s) ∧
    (a.state = .applied → deltaRefused s x = false → deltaBehind s op acc x = false → ownerLives s o → memoriesWf s = true →
      ∃ t, exec (.parityDeltaApply op acc) s = .next t ∧
        (∀ k, k < a.delta.length → memByte t.mem.parity (parityKey x + k) =
          if hasParity s x then memByte s.mem.parity (parityKey x + k) ^^^ a.delta.getD k 0
          else memByte s.mem.parity (parityKey x + k)) ∧
        (∀ y, (y < parityKey x ∨ parityKey x + a.delta.length ≤ y) →
          memByte t.mem.parity y = memByte s.mem.parity y) ∧
        (∀ b, accAt t op acc = some b → b.state = if unsettledAt s x && replyDied o then .failed .remoteFault else .done) ∧
        t = { s with mem := { s.mem with
          parity := t.mem.parity
          ops := t.mem.ops } })) ∧
  (∀ (op unit : Nat) (s : State) (c : NearCmd) (u : NearUnit), findOp s op = none →
    s.engines.nears.find? (fun c => c.id == op) = some c → c.units[unit]? = some u →
    u.state = .applied → deltaRefused s u.tgt = false → deltaBehind s op unit u.tgt = false →
    ∃ t, exec (.parityDeltaApply op unit) s = .next t ∧ t.mem = (applyDelta s u.tgt u.delta).mem ∧
      UnitBecomes op unit { u with state := if unsettledAt s u.tgt then .failed .remoteFault else .done }
        (applyDelta s u.tgt u.delta) t)

namespace Sys2Proof.Claims

open Sys2Proof Sys2Proof.Machine

/-- What an atomic writes over `old`, if it writes; `b` and `d` are its operands (08 R223, R224). -/
def atomicNew (fn : AtomFn) {w : Nat} (old b d : BitVec w) : Option (BitVec w) :=
  match fn with
  | .add => some (old + b)
  | .and => some (old &&& b)
  | .or => some (old ||| b)
  | .xor => some (old ^^^ b)
  | .xchg => some b
  | .imin => some (if b.toInt < old.toInt then b else old)
  | .imax => some (if old.toInt < b.toInt then b else old)
  | .nmin => some (if b.toNat < old.toNat then b else old)
  | .nmax => some (if old.toNat < b.toNat then b else old)
  | .cas => if old = d then some b else none
  | .inc => some (if b.toNat ≤ old.toNat then 0 else BitVec.ofNat w (old.toNat + 1))
  | .badd => if old.toNat + b.toNat ≤ d.toNat then some (old + b) else none
  | .fadd => some (BitVec.ofNat w (addNe fF32 old.toNat b.toNat))
  | .fmax => some (BitVec.ofNat w (fpMax fF32 false old.toNat b.toNat))
  | .faddBf16x2 => some (BitVec.ofNat w (addNe fBF16 (old.toNat / 2 ^ 16) (b.toNat / 2 ^ 16) * 2 ^ 16 +
      addNe fBF16 (old.toNat % 2 ^ 16) (b.toNat % 2 ^ 16)))

/-- A decide-once request answered with VALUE, a status and GEN; `w` are the cell's new VALUE and header (08 R232–R234). -/
def CellReplies (op acc x value status gen : Nat) (w : Option (Nat × Nat)) (s : State) : Prop :=
  ∃ t b, exec (.docCellRequest op acc) s = .next t ∧ accAt t op acc = some b ∧
    b.result = BitVec.ofNat 128 (value + status * 2 ^ 64 + gen * 2 ^ 96) ∧
    b.state = (if w.isSome then afterWrite s x else .done) ∧
    (∀ p, w = some p → HomeWritten x (leBytes 8 p.1 ++ leBytes 8 p.2) s t ∧ HomeFrame s t) ∧
    (w = none → t = { s with
      mem := { s.mem with
        ops := t.mem.ops
        copies := t.mem.copies }
      fresh := t.fresh })

/-- The number of a deposit's partial in its holder: address, core, format and operation (08 R230). -/
def partialOf (x core : Nat) (fmt : CFmt) (isMax : Bool) (p : Partial) : Bool :=
  p.addr == x && p.core == core && p.fmt == fmt && p.isMax == isMax

/-- The condition of a watch (08 R237). -/
def watchTrue (cmp : WCmp) (w b : Nat) : Prop :=
  match cmp with
  | .eq => w = b
  | .ne => w ≠ b
  | .geu => b ≤ w
  | .ltu => w < b

/-- The number of an operation is that of no copy command, hub request or election: numbers are drawn once. -/
def onlyOp (s : State) (op : Nat) : Prop :=
  findCopy s op = none ∧ (∀ p ∈ s.mem.hub, p.2.asked ≠ some op) ∧ ∀ e, s.lending.electing = some e → e.op ≠ op

/-- A watch request answered at once. -/
def WatchAnswers (op : Nat) (a : Access) (status : Nat) (s : State) : Prop :=
  OnlyAcc (.watchArmRequest op) op 0 { a with state := .done, result := BitVec.ofNat 128 status } s

end Sys2Proof.Claims

/-- 08 R219–R240; 09 R278; 10 R298; 14 R347–R349, R362; 15 R394, R395: atomics, deposits, decide-once requests and watches at
their homes, replies, releases, and requests sent again. Model's choices: the copy that a deposit drops, the combine of
untouched elements, whose table a watch takes and where a late cause is taken (log 35, 56, 58, 59). -/
def Obligations.HomeAtomicsAndReplies : Prop :=
  (∀ (op acc : Nat) (s : State) (o : Op) (a : Access) (fn : AtomFn) (wide : Bool), findAcc s op acc = some (o, a) →
    o.atomic? = some (fn, wide) →
    let i : Instr := .atomicAtPoint op acc
    let x := fabLocal a.fab
    let old := memNat s.mem.bytes x a.size
    let new := atomicNew fn (BitVec.ofNat (8 * a.size) old) (BitVec.ofNat (8 * a.size) a.data.toNat)
      (BitVec.ofNat (8 * a.size) a.din.toNat)
    (mayGo s o acc a false = false → exec i s = .next s) ∧
    (mayGo s o acc a false = true →
      (a.kind ≠ 4 → isLocal s a.fab = true → writeHeld s x a.size = true → exec i s = .next s) ∧
      (plainKind a → isLocal s a.fab = true → writeHeld s x a.size = false → ownServes s x = true →
        poisonedAt s x a.size = false → memoriesWf s = true → (a.size = 4 ∨ a.size = 8) →
        a.din.toNat < 2 ^ (8 * a.size) →
        ∃ t b, exec i s = .next t ∧ accAt t op acc = some b ∧ b.result = BitVec.ofNat 128 old ∧
          b.ok = (new.isSome || decide (fn ≠ .badd)) ∧
          b.state = (if new.isSome then afterWrite s x else .done) ∧
          (∀ v, new = some v → HomeWritten x (leBytes a.size v.toNat) s t ∧ HomeFrame s t) ∧
          (new = none → t.mem.bytes = s.mem.bytes ∧ t.me = s.me) ∧
          (zoneOf (isPlain s) x = .hbm → a.clevel ≠ 2 →
            (o.mode = 1 → ∃ p ∈ t.mem.points, p.line = x / 128 ∧ p.owner = some o.core) ∧
            (o.mode = 2 → ∃ p ∈ t.mem.points, p.line = x / 128 ∧ p.owner = none))) ∧
      (a.kind ≠ 4 → isLocal s a.fab = false → mayLeave s o.die a.fab → SentAway i op acc o.die a a.fab s))) ∧
  (∀ (op acc : Nat) (s : State) (o : Op) (a : Access) (fmt : CFmt) (isMax : Bool), findAcc s op acc = some (o, a) →
    o.what = .cadd fmt isMax → ownerLives s o → mayGo s o acc a false = true →
    let i : Instr := .caddDeposit op acc
    let x := fabLocal a.fab
    let n := cfmtSize fmt
    let mine := partialOf x o.core fmt isMax
    (isLocal s a.fab = false → mayLeave s o.die a.fab → SentAway i op acc o.die a a.fab s) ∧
    (isLocal s a.fab = true → lineWatched s x = false →
      ∃ t, exec i s = .next t ∧
        (∃ p ∈ t.mem.partials, mine p = true ∧ p.value = BitVec.ofNat 32 (combine fmt isMax
          (match s.mem.partials.find? mine with
           | some q => q.value
           | none => identityOf isMax).toNat (a.data.toNat % 2 ^ 32))) ∧
        (∀ p, mine p = false → (p ∈ t.mem.partials ↔ p ∈ s.mem.partials)) ∧
        (∀ b, accAt t op acc = some b → b.state = .done) ∧
        (∀ c ∈ t.mem.copies, ¬ (c.die = o.die ∧ c.line = a.fab / 128)) ∧
        t = { s with mem := { s.mem with
          ops := t.mem.ops
          partials := t.mem.partials
          copies := t.mem.copies } }) ∧
    (isLocal s a.fab = true → lineWatched s x = true → writeHeld s x a.size = false → memoriesWf s = true →
      x % 128 + n ≤ 128 →
      ∃ t, exec i s = .next t ∧
        memRead t.mem.bytes x n = leBytes n (combine fmt isMax
          (leNat (((lineCombined s x).drop (x % 128)).take n)) a.data.toNat) ∧
        (∀ y, y / 128 ≠ x / 128 → memByte t.mem.bytes y = memByte s.mem.bytes y) ∧
        (∀ p ∈ t.mem.partials, p.addr / 128 ≠ x / 128) ∧ t.me = s.me)) ∧
  (∀ (op acc : Nat) (s : State) (o : Op) (a : Access), findAcc s op acc = some (o, a) →
    mayGo s o acc a false = true →
    let i : Instr := .docCellRequest op acc
    let x := fabLocal a.fab
    let v := memNat s.mem.bytes x 8
    let state := memNat s.mem.bytes (x + 8) 8 / 2 ^ 62
    let gen := memNat s.mem.bytes (x + 8) 8 / 2 ^ 32 % 2 ^ 30
    let e := a.din.toNat % 2 ^ 30
    let replies := fun value status gen w => CellReplies op acc x value status gen w s
    (∀ c, o.what = .docRead → docCopy? s o.die a.fab e = some c →
      OnlyAcc i op acc { a with state := .done, result := BitVec.ofNat 128 (c.value.toNat + e * 2 ^ 96) } s) ∧
    ((o.what = .docProp ∨ o.what = .docReset ∨ o.what = .docStat ∨
        o.what = .docRead ∧ docCopy? s o.die a.fab e = none) →
      (isLocal s a.fab = false → mayLeave s o.die a.fab → SentAway i op acc o.die a a.fab s) ∧
      (isLocal s a.fab = true → writeHeld s x 16 = true → exec i s = .next s) ∧
      (isLocal s a.fab = true → writeHeld s x 16 = false → ownServes s x = true → poisonedAt s x 16 = false →
        memoriesWf s = true →
        (2 ≤ state → OnlyAcc i op acc { a with state := .failed .docMisuse } s) ∧
        (state < 2 → o.what ≠ .docStat → e ≠ gen → replies 0 2 gen none) ∧
        (state = 1 → o.what = .docProp → e = gen → replies v 1 gen none) ∧
        (∀ st, state = 0 → o.what = .docProp → e = gen → findStrand s o.owner = some st →
          replies (a.data.toNat % 2 ^ 64) 0 gen
            (some (a.data.toNat % 2 ^ 64, 2 ^ 62 + gen * 2 ^ 32 + winnerId s st))) ∧
        (state = 1 → o.what = .docRead → e = gen → replies v 0 gen none) ∧
        (state = 0 → o.what = .docRead → e = gen → replies 0 1 gen none) ∧
        (state = 0 → o.what = .docReset → e = gen → replies 0 1 gen none) ∧
        (state = 1 → o.what = .docReset → e = gen →
          replies 0 0 ((gen + 1) % 2 ^ 30) (some (0, (gen + 1) % 2 ^ 30 * 2 ^ 32))) ∧
        (state < 2 → o.what = .docStat → replies v state gen none)))) ∧
  (∀ (op : Nat) (s : State) (o : Op) (a : Access) (cmp : WCmp) (wide : Bool) (deadline : Option DWord),
    findOp s op = some o → o.what = .watch cmp wide deadline → o.accs[0]? = some a → a.state = .waiting → a.kind ≠ 4 →
    let x := fabLocal a.fab
    let n := if wide then 8 else 4
    let b := a.data.toNat % 2 ^ (8 * n)
    let holds := watchTrue cmp (memNat s.mem.bytes x n) b
    let late := ∃ d, deadline = some d ∧ d.toNat ≤ s.tick.toNat
    (isLocal s a.fab = false → mayLeave s o.die a.fab →
      SentAway (.watchArmRequest op) op 0 o.die a a.fab s) ∧
    (isLocal s a.fab = true → homeHeld s x a.size = true → exec (.watchArmRequest op) s = .next s) ∧
    (isLocal s a.fab = true → homeHeld s x a.size = false → ownServes s x = true → poisonedAt s x a.size = false →
      watchDie s x ∉ s.failure.fencedDies → (∀ p ∈ s.mem.partials, p.addr / 128 ≠ x / 128) → x % 128 + n ≤ 128 →
      (holds → WatchAnswers op a 0 s) ∧
      (¬ holds → late → WatchAnswers op a 1 s) ∧
      (¬ holds → ¬ late → freeWatch s (watchDie s x) = none → WatchAnswers op a 2 s) ∧
      (∀ k st, ¬ holds → ¬ late → freeWatch s (watchDie s x) = some k → findStrand s o.owner = some st →
        ∃ t, exec (.watchArmRequest op) s = .next t ∧ AccBecomes op 0 { a with state := .switched } s t ∧
          tget? t.mem.watches (watchDie s x * 4096 + k) = some
            { who := .strand op o.owner (ownerWord s st), cmp := cmp, wide := wide, deadline := deadline,
              cmpv := BitVec.ofNat 64 b, addr := a.fab, status := none } ∧
          (∀ j, j ≠ watchDie s x * 4096 + k → tget? t.mem.watches j = tget? s.mem.watches j) ∧
          t = { s with mem := { s.mem with
            ops := t.mem.ops
            watches := t.mem.watches } }))) ∧
  (∀ (entry : Nat) (s : State) (e : WatchEntry), tget? s.mem.watches entry = some e →
    ((e.status ≠ none ∨ ∀ d, e.deadline = some d → s.tick.toNat < d.toNat) → exec (.watchDeadline entry) s = .next s) ∧
    (∀ d op st w o, e.status = none → e.deadline = some d → d.toNat ≤ s.tick.toNat → e.who = .strand op st w →
      findOp s op = some o → tablesRise s = true →
      ∃ t, exec (.watchDeadline entry) s = .next t ∧ tget? t.mem.watches entry = none ∧
        (∀ j, j ≠ entry → tget? t.mem.watches j = tget? s.mem.watches j) ∧
        findOp t op = some { o with accs := o.accs.map (fun a => { a with state := .done, result := 1 }) } ∧
        t = { s with mem := { s.mem with
          ops := t.mem.ops
          watches := t.mem.watches } })) ∧
  (∀ (op : Nat) (s : State) (o : Op) (st : Strand), findOp s op = some o → o.shared = none → o.windowed = false →
    o.gate = false → findStrand s o.owner = some st → st.all ≠ [] → idsDiffer s → onlyOp s op →
    awayStrand s o.owner = false →
    (o.holds = true → o.accs ≠ [] → (∀ a ∈ o.accs, a.state = .done) → (o.uniform = true → o.accs.length = 1) →
      (∀ f, st.frag? o.frag = some f → f.heldPops = []) →
      ∃ t x, exec (.replyArrive op []) s = .next t ∧ findOp t op = none ∧ findStrand t o.owner = some x ∧
        (∀ k th, k < o.writes.length → (vget x.regs (nextReg o.dst k).toNat (.u 0)).at th =
          match o.accOf th with
          | some a => (o.words a).getD k 0
          | none => (vget st.regs (nextReg o.dst k).toNat (.u 0)).at th) ∧
        (∀ k, k < o.writes.length → (vget x.regs (nextReg o.dst k).toNat (.u 0)).tagNo =
          if o.uniform = true ∧ (∀ th, (o.accOf th).isSome = true) then 0 else 2) ∧
        (∀ r : Reg, (∀ k, k < o.writes.length → nextReg o.dst k ≠ r) →
          vget x.regs r.toNat (.u 0) = vget st.regs r.toNat (.u 0)) ∧
        x = { st with
          regs := x.regs
          resident := x.resident
          cur := x.cur
          frags := x.frags } ∧
        (∀ f, st.frag? o.frag = some f → f.begun = .sent op → st.imaging = false →
          ∃ g, x.frag? o.frag = some g ∧ g.wait = .ready ∧ g.mask = f.mask ∧ pastPc 1 f g) ∧
        (∀ id, id ≠ o.owner → findStrand t id = findStrand s id) ∧ t.mem.bytes = s.mem.bytes ∧
        t.work = s.work ∧ t.kernel = s.kernel) ∧
    (∀ c a wd f, o.holds = true → o.what = .load wd → o.accs = [a] → a.state = .failed c →
      c ∈ [Cause.leaseRecalled, .lenderLost, .poison, .leaseExpired, .remoteFault] → st.frag? o.frag = some f → f.live = true →
      (f.begun = .sent op ∨ f.wait = .ready ∧ f.begun = .no) →
      ∃ t, exec (.replyArrive op []) s = .next t ∧ t.me.who = st.who ∧ t.me.regs = st.regs ∧ t.me.cur.id = o.frag ∧
        t.me.cur.wait = .parked (nextFault s) ∧ t.me.cur.hdr = o.pc ∧ t.me.cur.widx = o.widx ∧
        t.me.cur.mask = f.mask) ∧
    (∀ r a, findAcc s op r.acc = some (o, a) → a.state = .switched → isLocal s a.fab = false → a.kind ≠ 4 →
      peerMmio a.fab = false → (∃ k b, k ≠ r.acc ∧ o.accs[k]? = some b ∧ b.state = .switched ∧ b.fab ≠ a.fab) →
      (r.fault = none → ∃ t, exec (.replyArrive op [r]) s = .next t ∧ t.me = s.me ∧ t.mem.bytes = s.mem.bytes ∧
        (loads o = false →
          AccBecomes op r.acc { a with state := .done, result := r.value, ok := r.value.getLsbD 64 } s t) ∧
        (loads o = true → LoadBecomes op r.acc a r.value s t) ∧
        (loads o = true → a.kind ≠ 5 → (op, r.acc) ∈ s.mem.late → nearCopy? t o.die (a.fab / 128) = none)) ∧
      (∀ c, r.fault = some c → o.what.posted = false → ∃ t, exec (.replyArrive op [r]) s = .next t ∧
        AccBecomes op r.acc { a with state := .failed c } s t ∧ OnlyOps s t)) ∧
    (∀ r a, o.what = .store → o.holds = false → o.accs = [a] → r.acc = 0 → a.state = .switched →
      isLocal s a.fab = false → a.kind ≠ 4 → peerMmio a.fab = false →
      (r.fault = none → ∃ t, exec (.replyArrive op [r]) s = .next t ∧ findOp t op = none ∧ t.me = s.me) ∧
      (∀ c, r.fault = some c → ∃ t, exec (.replyArrive op [r]) s = .next t ∧ findOp t op = none ∧
        findStrand t o.owner = some (recordPsf c (BitVec.ofNat 64 a.fab) a.index st)))) ∧
  (∀ (op : Nat) (s : State) (o : Op), findOp s op = some o → o.gate = true →
    let scope := if takenOver s o then Scope.pkg else o.scope
    ((o.scope ≠ .pod ∧ o.scope ≠ .sys ∨ stagedOwed s o.owner = false) →
      (releaseReady s o.owner op scope = false → exec (.releasePerform op) s = .next s) ∧
      (releaseReady s o.owner op scope = true → o.what ≠ .fence → (∀ svc nw, o.what ≠ .service svc nw) →
        ∃ t, exec (.releasePerform op) s = .next t ∧ OnlyOps s t ∧
          findOp t op = some { o with gate := false, switchHeld := takenOver s o } ∧
          ∀ k, k ≠ op → findOp t k = findOp s k) ∧
      (releaseReady s o.owner op scope = true → o.what = .fence → ownerLives s o →
        ∃ t, exec (.releasePerform op) s = .next t ∧ findOp t op = none ∧ (∀ k, k ≠ op → findOp t k = findOp s k) ∧
          t.me = s.me ∧ t.mem.bytes = s.mem.bytes ∧
          (o.scope = .pod ∨ o.scope = .sys → (∀ c ∈ t.mem.copies, c.die ≠ o.die) ∧
            ∀ p ∈ s.mem.ops, p.id ≠ op → p.die = o.die → ∀ k b, p.accs[k]? = some b → b.state = .switched →
              isLocal s b.fab = false → (p.id, k) ∈ t.mem.late)))) ∧
  (∀ (op : Nat) (s : State) (o : Op), findOp s op = some o →
    ((o.switchHeld = false ∨ postedOut s ≠ 0) → exec (.switchReleaseForward op) s = .next s) ∧
    (∀ a, o.switchHeld = true → postedOut s = 0 → o.accs = [a] → ownerLives s o →
      let dest := fabPkg a.fab
      let fence : OutMsg := .fenceMsg (fenceBytes ⟨op % 2 ^ 16, 1, pkgNo s, 1, dest⟩)
      (mayLeave s o.die a.fab → linkFull (sendTo dest fence s) dest = false →
        ∃ t b, exec (.switchReleaseForward op) s = .next t ∧ accAt t op 0 = some b ∧ b.state = .switched ∧
          t.outbox = s.outbox ++ [fence, awayRequest s op 0 (nextTag s o.die a.fab) a.fab] ∧ t.me = s.me ∧
          t.mem.bytes = s.mem.bytes) ∧
      (reaches s dest = true → linkFull s dest = true → dest ≠ pkgNo s → a.state = .waiting →
        ∃ t, exec (.switchReleaseForward op) s = .next t ∧ accAt t op 0 = some a ∧ t.outbox = s.outbox ∧
          t.links.queued = s.links.queued ++ [(dest, fence)] ∧ t.me = s.me))) ∧
  (∀ (op acc : Nat) (s : State) (o : Op) (a : Access), findAcc s op acc = some (o, a) →
    ((sentAway s o a = false ∨ s.tick.toNat < a.sent.toNat + 1000000) → exec (.requestRetry op acc) s = .next s) ∧
    (sentAway s o a = true → a.sent.toNat + 1000000 ≤ s.tick.toNat → a.kind ≠ 4 →
      (tget s.links.attempts 0 (attemptKey op acc) < 4 → linkFull s (boundFor s o a) = true →
        exec (.requestRetry op acc) s = .next s) ∧
      (tget s.links.attempts 0 (attemptKey op acc) < 4 → linkFull s (boundFor s o a) = false →
        ∃ t, exec (.requestRetry op acc) s = .next t ∧ AccBecomes op acc { a with sent := s.tick } s t ∧
          tget t.links.attempts 0 (attemptKey op acc) = tget s.links.attempts 0 (attemptKey op acc) + 1 ∧
          t.outbox = s.outbox ++ [awayRequest s op acc ⟨pkgNo s, o.die, a.seq⟩ a.fab] ∧ t.me = s.me ∧
          t.mem.bytes = s.mem.bytes) ∧
      (4 ≤ tget s.links.attempts 0 (attemptKey op acc) → o.what.posted = false → ownerLives s o → o.holds = true →
        ∃ t, exec (.requestRetry op acc) s = .next t ∧ AccBecomes op acc { a with state := .failed .remoteFault } s t ∧
          t.outbox = s.outbox ∧ t.me = s.me ∧ t.mem.bytes = s.mem.bytes)))

/-! ### Services, kills, dispositions, paired windows -/

namespace Sys2Proof.Claims

open Sys2Proof Sys2Proof.Machine

/-- A service has been called and not yet begun; every earlier store of its strand is performed at `pkg` (09 R290). -/
def called (s : State) (svc : Nat) (kind : SvcKind) (x : Service) : Prop :=
  serviceOf s svc kind = some x ∧ x.begun = false ∧ svcReady s x = true

/-- A service is over: it leaves the list, and the register of its `sysc` receives the status. -/
def EndsWith (x : Service) (status : Nat) (s t : State) : Prop :=
  (∀ y ∈ t.services, y.id ≠ x.id) ∧ (∀ y ∈ s.services, y.id ≠ x.id → y ∈ t.services) ∧
  ∀ o a st n, findOp s x.op = some o → o.what = .service n false → o.holds = true → o.uniform = true → o.accs = [a] →
    findStrand s o.owner = some st → st.all ≠ [] →
    ∃ y, findStrand t o.owner = some y ∧ ∀ th : Fin 32, (vget y.regs o.dst.toNat (.u 0)).at th =
      if a.threads.getLsbD th.val then BitVec.ofNat 32 status else (vget st.regs o.dst.toNat (.u 0)).at th

/-- An instruction ends a service with a status. -/
def ServiceEnds (i : Instr) (x : Service) (status : Nat) (s : State) : Prop :=
  ∃ t, exec i s = .next t ∧ EndsWith x status s t

/-- A service has begun. -/
def Begun (x : Service) (t : State) : Prop := ∃ y ∈ t.services, y.id = x.id ∧ y.begun = true

/-- The strand that called a service has threads, or is not resident. -/
def callerStays (s : State) (x : Service) : Prop :=
  ∀ o st, findOp s x.op = some o → findStrand s o.owner = some st → st.all ≠ []

/-- The instruction that called a service has no pop still to make. -/
def callerPopsNothing (s : State) (x : Service) : Prop :=
  ∀ o st f, findOp s x.op = some o → findStrand s o.owner = some st → st.frag? o.frag = some f → f.heldPops = []

/-- A cached translation that an INVAL names (04 R100). -/
def namedBy (arg : Nat) (e : TlbEntry) : Bool :=
  invalNames arg (if e.global then arg % 2 ^ 12 else e.asn) e.vpage e.units

/-- The quad's region of a launch on which a block image is placed: for an EVICT image the quad that it names, if the launch still
has it, and else the one restored from that quad's image (16 R420). -/
def regionFor (s : State) (l : Launch) (quad gen : Nat) : Option QuadRegion :=
  let here := s.work.regions.find? (fun r => r.handle == l.handle && r.quad == quad && !r.twin)
  let restored := s.work.regions.find? (fun r => r.handle == l.handle && r.orig == quad && !r.twin)
  if gen = 0 then here.or restored else restored

/-- The strands of a block that live on: those of an evicted block that have not been killed since, or all (16 R408, R420). -/
def livingOf (s : State) (l : Launch) (n gen : Nat) : List StrandId :=
  let kept := match s.work.evicted.find? (fun e => e.handle == l.handle && e.idx == n) with
    | some e => if gen = 0 then e.strands else []
    | none => []
  if kept = [] then [false, true].flatMap (fun t => (List.range l.record.strands).map (fun i => (strandIdentity l n i t).id))
  else kept

/-- Whether the image of a block's strand has a thread. -/
def threadsIn (s : State) (l : Launch) (n : Nat) (bs : List Byte) (i : Nat) : Bool :=
  (strandOfImage s bs (strandSlots bs l.record.strands 0x100) l n i false .none).all.any (fun f => f.mask ≠ 0)

/-- Whether every strand of a block image that lives on has found a lane of the core with room for it, its split-table entries among
it, the strands entering one after another (02 R26; 03 R80; 16 R420). -/
def findsLanes (s : State) (l : Launch) (core home n : Nat) (bs : List Byte) (live : List StrandId) : Bool :=
  let t := restoreTwin l core home n false bs live s
  (List.range l.record.strands).all (fun i => !live.contains (strandIdentity l n i false).id || !threadsIn s l n bs i ||
    (findStrand t (strandIdentity l n i false).id).isSome)

/-- Both twins of a paired strand or block are to be killed, and the package kernel is told (16 R415). -/
def Mismatches (i : Instr) (p : Strand) (s : State) : Prop :=
  ∃ t, exec i s = .next t ∧
    (∀ st ∈ strandsOf t, st.who.id.handle = p.who.id.handle → st.place.isCtl = false → st.who.blockIdx = p.who.blockIdx →
      st.killing = true ∧ st.windowSig = none ∧
        ∀ o ∈ t.mem.ops, o.owner = st.who.id → o.id < s.mem.nextOp → o.windowed = false) ∧
    (hasRing s = true → ringRoom s = true → s.kernel.waitingFaults = [] →
      ∃ e, tget? t.kernel.written s.kernel.fqprod.toNat = some e ∧ e.cause = 0x18 ∧ e.handle = p.who.id.handle ∧
        e.parks = none)

end Sys2Proof.Claims

/-- 02 R47–R50, R55; 04 R100; 08 R235, R239; 09 R276, R290, R293; 14 R362–R365, R371; 16 R407–R421: the service functions,
kills, the disposition of fault-queue entries, and the compare of paired windows. Model's choices: what an INVAL waits for and
the statuses of EVICT and RESTORE (log 35, 36). -/
def Obligations.ServicesAndDispositions : Prop :=
  (∀ (svc : Nat) (s : State) (x : Service), called s svc .inval x →
    let arg := x.arg.toNat
    ((arg / 2 ^ 14 % 4 ≠ 0 ∨ 2 ^ 52 ≤ arg) → ServiceEnds (.inval svc) x 1 s) ∧
    (arg / 2 ^ 14 % 4 = 0 → arg < 2 ^ 52 →
      ∃ t, exec (.inval svc) s = .next t ∧ Begun x t ∧
        (∀ e, e ∈ t.mem.tlb ↔ e ∈ s.mem.tlb ∧ namedBy arg e = false) ∧
        t = { s with
          services := t.services
          mem := { s.mem with tlb := t.mem.tlb } })) ∧
  (∀ (svc : Nat) (s : State) (x : Service), serviceOf s svc .inval = some x → x.begun = true →
    ((∃ id ∈ x.before, (findOp s id).isSome = true) → exec (.invalComplete svc) s = .next s) ∧
    ((∀ id ∈ x.before, findOp s id = none ∧ (∀ c ∈ s.engines.nears, c.id ≠ id) ∧
        ∀ c ∈ s.engines.copies, c.id = id → c.running = false) →
      ∃ t, exec (.invalComplete svc) s = .next t ∧ EndsWith x 0 s t ∧
        ∀ c, c ∈ t.mem.docs ↔ c ∈ s.mem.docs ∧ x.arg.getLsbD 13 = false ∧
          ∀ f ∈ x.frames, c.cell < f.1 ∨ f.1 + f.2 ≤ c.cell)) ∧
  (∀ (svc : Nat) (s : State) (x : Service), called s svc .bindload x →
    let c := contextAt s x.arg.toNat
    let table := bindTable s (pair c.bindl c.bindh).toNat c.bindn.toNat
    (256 ≤ x.arg.toNat → ServiceEnds (.bindload svc) x 1 s) ∧
    (x.arg.toNat < 256 → table = none → ServiceEnds (.bindload svc) x 1 s) ∧
    (∀ l, x.arg.toNat < 256 → table = some l → tablesRise s = true →
      ∃ t, exec (.bindload svc) s = .next t ∧ EndsWith x 0 s t ∧
        contextAt t x.arg.toNat = { c with bindings := l } ∧
        ∀ n, n ≠ x.arg.toNat → contextAt t n = contextAt s n)) ∧
  (∀ (svc : Nat) (s : State) (x : Service), called s svc .evict x →
    let handle := x.arg.toNat % 2 ^ 30
    let block := x.arg.toNat / 2 ^ 32
    (x.arg.toNat / 2 ^ 30 % 4 ≠ 0 → ServiceEnds (.evict svc) x 1 s) ∧
    (x.arg.toNat / 2 ^ 30 % 4 = 0 → findLaunch s handle = none → ServiceEnds (.evict svc) x 2 s) ∧
    (x.arg.toNat / 2 ^ 30 % 4 = 0 → (findLaunch s handle).isSome = true →
      (∃ b ∈ s.work.blocks, b.handle = handle ∧ b.idx = block) → idsDiffer s →
      ∃ t, exec (.evict svc) s = .next t ∧ Begun x t ∧
        (∀ st ∈ blockStrands t handle block, st.evicting = true) ∧
        (∀ id, (∀ st ∈ blockStrands s handle block, st.who.id ≠ id) → findStrand t id = findStrand s id) ∧
        t = { s with
          me := t.me
          others := t.others
          services := t.services })) ∧
  (∀ (handle block : Nat) (s : State) (x : Service) (l : Launch) (b : Block),
    s.services.find? (fun x => x.kind == .evict && x.begun && x.arg.toNat % 2 ^ 30 == handle
      && x.arg.toNat / 2 ^ 32 == block) = some x →
    findLaunch s handle = some l →
    s.work.blocks.find? (fun b => b.handle == handle && b.idx == block && !b.twin) = some b →
    let sts := blockStrands s handle block
    ((launchParked s handle = true ∨ ∃ st ∈ sts, quiet s st = false) →
      exec (.evictionComplete handle block) s = .next s) ∧
    (launchParked s handle = false → (∀ st ∈ sts, quiet s st = true) →
      storeImages [blockImage s l b 0] s = none → ServiceEnds (.evictionComplete handle block) x 3 s) ∧
    (∀ s1, launchParked s handle = false → (∀ st ∈ sts, quiet s st = true) →
      storeImages [blockImage s l b 0] s = some s1 → idsDiffer s → callerPopsNothing s x →
      ∃ t, exec (.evictionComplete handle block) s = .next t ∧ (∀ y ∈ t.services, y.id ≠ x.id) ∧
        blockStrands t handle block = [] ∧ (∀ c ∈ t.work.blocks, ¬ (c.handle = handle ∧ c.idx = block)) ∧
        (∃ e ∈ t.work.evicted, e.handle = handle ∧ e.idx = block ∧ e.strands = sts.map (fun st => st.who.id)) ∧
        t.mem.bytes = s1.mem.bytes)) ∧
  (∀ (svc : Nat) (s : State) (x : Service), called s svc .checkpoint x →
    let handle := x.arg.toNat
    (2 ^ 30 ≤ handle → ServiceEnds (.checkpoint svc) x 1 s) ∧
    (handle < 2 ^ 30 → findLaunch s handle = none → ServiceEnds (.checkpoint svc) x 2 s) ∧
    (∀ l, handle < 2 ^ 30 → findLaunch s handle = some l →
      (l.record.hasGangs = true → ServiceEnds (.checkpoint svc) x 3 s) ∧
      (l.record.hasGangs = false → launchParked s handle = true → exec (.checkpoint svc) s = .next s) ∧
      (l.record.hasGangs = false → launchParked s handle = false → idsDiffer s →
        ∃ t, exec (.checkpoint svc) s = .next t ∧ Begun x t ∧
          (∀ st ∈ launchStrands t handle, st.checkpointing = true) ∧
          t = { s with
            me := t.me
            others := t.others
            services := t.services }))) ∧
  (∀ (svc : Nat) (s : State) (x : Service) (l : Launch), serviceOf s svc .checkpoint = some x →
    findLaunch s x.arg.toNat = some l → x.begun = true →
    let sts := launchStrands s l.handle
    let images := checkpointImages s l x.before (l.generation + 1)
    ((launchParked s l.handle = true ∨ (∀ st ∈ sts, st.checkpointing = true) ∧ ∃ st ∈ sts, quiet s st = false) →
      exec (.checkpointComplete svc) s = .next s) ∧
    (launchParked s l.handle = false → (∀ st ∈ sts, st.checkpointing = true ∧ quiet s st = true) → idsDiffer s →
      callerStays s x →
      (storeImages images s = none → ServiceEnds (.checkpointComplete svc) x 3 s) ∧
      (∀ s1, storeImages images s = some s1 → callerPopsNothing s x →
        ∃ t, exec (.checkpointComplete svc) s = .next t ∧ (∀ y ∈ t.services, y.id ≠ x.id) ∧
          t.mem.bytes = s1.mem.bytes ∧ findLaunch t l.handle = some { l with generation := l.generation + 1 } ∧
          (keysRise none s.work.generations = true → tget t.work.generations 0 l.handle = l.generation + 1) ∧
          ∀ st ∈ launchStrands t l.handle, st.checkpointing = false))) ∧
  (∀ (svc : Nat) (s : State) (x : Service), called s svc .restore x →
    (2 ^ 52 ≤ x.arg.toNat ∨ readImage s x.arg.toNat = none → ServiceEnds (.restore svc) x 1 s) ∧
    (∀ bs, x.arg.toNat < 2 ^ 52 → readImage s x.arg.toNat = some bs →
      let kind := numAt bs 0 4 / 2 ^ 16 % 8
      let handle := numAt bs 8 4 % 2 ^ 30
      let n := numAt bs 0x0C 4
      let gen := numAt bs (bs.length - 8) 4
      let r := parseRecord (recordWords (slice bs 0x20 64))
      (findLaunch s handle = none → kind ≠ 4 → ServiceEnds (.restore svc) x 2 s) ∧
      (∀ roles, findLaunch s handle = none → kind = 4 → rolesOf s (tget s.work.contexts 0 handle) r = some roles →
        callerStays s x →
        ∃ t l, exec (.restore svc) s = .next t ∧ EndsWith x 0 s t ∧ l ∈ t.work.launches ∧ l.handle = handle ∧
          l.record = r ∧ l.roles = roles ∧ l.restored = true ∧ l.generation = tget s.work.generations 0 handle) ∧
      (∀ l, findLaunch s handle = some l → gen ≠ 0 → l.restored = false → ServiceEnds (.restore svc) x 2 s) ∧
      (∀ l q rest, findLaunch s handle = some l → (gen = 0 ∨ l.restored = true) → kind = 3 →
        openQuads s l false = q :: rest → l.record.pair = false → callerStays s x →
        ∃ t g, exec (.restore svc) s = .next t ∧ (∀ y ∈ t.services, y.id ≠ x.id) ∧ g ∈ t.work.regions ∧
          g.handle = l.handle ∧ g.quad = q ∧ g.orig = n) ∧
      (∀ l, findLaunch s handle = some l → kind ≠ 3 → kind ≠ 4 → (gen = 0 ∨ l.restored = true) →
        (∀ b ∈ s.work.blocks, ¬ (b.handle = handle ∧ b.idx = n)) →
        (gen ≠ 0 ∨ ∃ e ∈ s.work.evicted, e.handle = handle ∧ e.idx = n) → l.record.pair = false → callerStays s x →
        let quad := numAt bs 0x1C 4
        (regionFor s l quad gen = none → exec (.restore svc) s = .next s) ∧
        ∀ g, regionFor s l quad gen = some g →
          (chooseCore s l false (coresOf g.quad) = none → exec (.restore svc) s = .next s) ∧
          ∀ core, chooseCore s l false (coresOf g.quad) = some core →
            let live := livingOf s l n gen
            (findsLanes s l core g.quad n bs live = false → exec (.restore svc) s = .next s) ∧
            (findsLanes s l core g.quad n bs live = true → ∃ t b, exec (.restore svc) s = .next t ∧
              (∀ y ∈ t.services, y.id ≠ x.id) ∧ b ∈ t.work.blocks ∧ b.handle = l.handle ∧ b.idx = n ∧ b.core = core ∧
              (∀ e ∈ t.work.evicted, ¬ (e.handle = l.handle ∧ e.idx = n)) ∧
              ∀ i, i < l.record.strands → threadsIn s l n bs i = true → (strandIdentity l n i false).id ∈ live →
                (findStrand t (strandIdentity l n i false).id).isSome = true)))) ∧
  (∀ (svc : Nat) (s : State) (x : Service), serviceOf s svc .kill = some x →
    let id : StrandId := ⟨x.arg.toNat % 2 ^ 30, x.arg.toNat / 2 ^ 32⟩
    (x.begun = true → findStrand s id = none → ServiceEnds (.kill svc) x 0 s) ∧
    (x.begun = true → (findStrand s id).isSome = true → exec (.kill svc) s = .next s) ∧
    (x.begun = false → svcReady s x = false → exec (.kill svc) s = .next s) ∧
    (x.begun = false → svcReady s x = true →
      (x.arg.toNat / 2 ^ 30 % 4 ≠ 0 → ServiceEnds (.kill svc) x 1 s) ∧
      (x.arg.toNat / 2 ^ 30 % 4 = 0 → findLaunch s id.handle = none → ServiceEnds (.kill svc) x 2 s) ∧
      (∀ st, x.arg.toNat / 2 ^ 30 % 4 = 0 → (findLaunch s id.handle).isSome = true → findStrand s id = some st →
        (st.all = [] → ServiceEnds (.kill svc) x 2 s) ∧
        (st.all ≠ [] → ∃ t, exec (.kill svc) s = .next t ∧ Begun x t ∧
          StrandBecomes id { st with killing := true } { s with services := t.services } t)))) ∧
  (∀ (id : StrandId) (s : State) (st : Strand), findStrand s id = some st →
    ((st.killing = false ∨ inFlight s id ≠ 0) → exec (.killAct id) s = .next s) ∧
    (st.killing = true → inFlight s id = 0 → idsDiffer s →
      ∃ t, exec (.killAct id) s = .next t ∧ (∀ y ∈ strandsOf t, y.who.id ≠ id) ∧
        (∀ b, st.place.isCtl = false →
          s.work.blocks.filter (fun b => b.handle == id.handle && b.idx == st.who.blockIdx && b.twin == st.who.twin) = [b] →
          ∀ c ∈ t.work.blocks, c.handle = id.handle → c.idx = st.who.blockIdx → c.twin = st.who.twin →
            c.abandoned = true ∧ c.strands = b.strands - 1) ∧
        (∀ p ∈ t.mem.watches, ∀ op w, p.2.who ≠ .strand op id w))) ∧
  (∀ (s : State) (e : FaultEntry) (r : List FaultEntry), s.kernel.waitingFaults = e :: r →
    ((hasRing s = false ∨ ringRoom s = false) → exec .faultQueueDrain s = .next s) ∧
    (hasRing s = true → ringRoom s = true →
      ∃ t, exec .faultQueueDrain s = .next t ∧ t.kernel.waitingFaults = r ∧ t.kernel.fqprod = s.kernel.fqprod + 1 ∧
        tget? t.kernel.written s.kernel.fqprod.toNat = some e ∧ t.me = s.me ∧ t.others = s.others)) ∧
  (∀ (s : State) (n : Nat) (e : FaultEntry) (id : StrandId) (fr : Nat) (st : Strand), tablesRise s = true →
    nextDisp s = some (n, e) → e.parks = some (id, fr) → findStrand s id = some st →
    let s1 := fun (t : State) => { s with kernel := { s.kernel with written := t.kernel.written } }
    let status := match e.disp with
      | some d => d.2
      | none => 0
    (actionOf s n e = .resume → ∃ t, exec .dispResume s = .next t ∧ tget? t.kernel.written n = none ∧
      StrandBecomes id (st.modFrag fr (fun f =>
        { f with wait := .ready, begun := if e.flags.getLsbD 19 then .answered status else .no })) (s1 t) t) ∧
    (actionOf s n e ≠ .reflect → exec .dispReflect s = .next s) ∧
    (∀ c, actionOf s n e = .reflect → e.flags.getLsbD 19 = false → e.cause = causeCode c → idsDiffer s →
      ∃ t, exec .dispReflect s = .next t ∧ tget? t.kernel.written n = none ∧ t.me.who = st.who ∧ t.me.cur.id = fr ∧
        t.me.regs = st.regs ∧ t.me.cur.hdr = posAddr (tvecOf st) ∧ t.me.cur.widx = 0 ∧ t.me.cur.wait = .ready ∧
        t.me.handler = some fr ∧ pair t.me.trap.tepc t.me.trap.tepch = e.epc ∧
        pair t.me.trap.taddr t.me.trap.taddrh = e.addr ∧ t.me.trap.emword = e.em.emword ∧
        t.me.trap.tcause = BitVec.ofNat 32 (2 ^ 31 + 2 ^ 17 * flag (e.flags.getLsbD 17)
          + 2 ^ 16 * flag (e.flags.getLsbD 16) + 256 * (e.detail % 256) + e.cause)) ∧
    (actionOf s n e ≠ .kill → exec .dispKill s = .next s) ∧
    (actionOf s n e = .kill → ∃ t, exec .dispKill s = .next t ∧ tget? t.kernel.written n = none ∧
      StrandBecomes id { st with killing := true } (s1 t) t)) ∧
  (∀ (handle block strand : Nat) (s : State) (p q : Strand),
    let id := pairedId s handle block strand
    findStrand s id = some p → findStrand s (twinOf id) = some q → idsDiffer s →
    ((p.windowSig = none ∨ q.windowSig = none) → exec (.signatureCompare handle block strand) s = .next s) ∧
    (∀ a, p.windowSig = some a → q.windowSig = some a →
      ∃ t, exec (.signatureCompare handle block strand) s = .next t ∧ findStrand t id = some (openWindow p) ∧
        findStrand t (twinOf id) = some (openWindow q) ∧
        (∀ o ∈ t.mem.ops, o.owner = id ∧ o.id < p.windowEnd ∨ o.owner = twinOf id ∧ o.id < q.windowEnd → o.windowed = false) ∧
        (∀ o ∈ s.mem.ops, o.owner = id → (if o.id < p.windowEnd then { o with windowed := false } else o) ∈ t.mem.ops) ∧
        (∀ o ∈ s.mem.ops, o.owner = twinOf id → o.windowed = true → q.windowEnd ≤ o.id → o ∈ t.mem.ops) ∧
        t.mem.bytes = s.mem.bytes) ∧
    (∀ a b, p.windowSig = some a → q.windowSig = some b → a ≠ b → p.place.isCtl = false →
      Mismatches (.signatureCompare handle block strand) p s) ∧
    (∀ a, p.windowSig = some a → q.windowSig = none →
      (s.tick.toNat < p.windowAt.toNat + 1000000 → exec (.signatureTimeout handle block strand) s = .next s) ∧
      (p.killing = true ∨ q.killing = true → exec (.signatureTimeout handle block strand) s = .next s) ∧
      (p.windowAt.toNat + 1000000 ≤ s.tick.toNat → p.killing = false → q.killing = false → p.place.isCtl = false →
        Mismatches (.signatureTimeout handle block strand) p s)))

/-! ### Requests from outside the compute dies, copies, staging frames, watches of hub cores -/

namespace Sys2Proof.Claims

open Sys2Proof Sys2Proof.Machine

/-- What a decide-once request gives: VALUE, status and GEN of the reply, and the cell's new VALUE and header if it writes
(08 R233, R234). -/
def cellTable (what : OuterKind) (state gen v e value who : Nat) : (Nat × Nat × Nat) × Option (Nat × Nat) :=
  match what with
  | .docProp =>
    if e ≠ gen then ((0, 2, gen), none)
    else if state = 1 then ((v, 1, gen), none)
    else ((value, 0, gen), some (value, 2 ^ 62 + gen * 2 ^ 32 + who))
  | .docRead => if e ≠ gen then ((0, 2, gen), none) else if state = 1 then ((v, 0, gen), none) else ((0, 1, gen), none)
  | .docReset =>
    if e ≠ gen then ((0, 2, gen), none)
    else if state = 0 then ((0, 1, gen), none)
    else ((0, 0, (gen + 1) % 2 ^ 30), some (0, (gen + 1) % 2 ^ 30 * 2 ^ 32))
  | _ => ((v, state, gen), none)

/-- Whether a request is a decide-once one. -/
def asksCell (r : OuterReq) : Bool := r.kind = .docProp || r.kind = .docRead || r.kind = .docReset || r.kind = .docStat

/-- A home may perform a request of package `src` now. -/
def outerReady (src : Nat) (r : OuterReq) (s : State) : Prop :=
  zoneOf (isPlain s) r.addr ≠ .unbacked ∧ isMmio s r.addr = false ∧ s.mem.mode ≠ .fenced ∧
    lenderServes s src r.leaseId r.addr = true ∧ homeHeld s r.addr r.size = false ∧ writeHeld s r.addr r.size = false ∧
    writeHeld s r.addr 16 = false ∧ (∀ d, zoneOf (isPlain s) r.addr = .die d → d ∉ s.failure.fencedDies) ∧
    poisonedAt s r.addr r.size = false ∧ (∀ p ∈ s.mem.partials, p.addr / 128 ≠ r.addr / 128) ∧ 0 < r.size ∧
    r.addr % 128 + r.size ≤ 128 ∧ memoriesWf s = true ∧
    (asksCell r = true → memNat s.mem.bytes (r.addr + 8) 8 / 2 ^ 62 < 2)

/-- Whether a request is one that its home performs at once: neither a watch nor a message about one, and neither a
load-reserved nor a store-conditional, which hub cores alone make (10 R311). -/
def performed : OuterKind → Bool
  | .load | .store | .atomic _ | .deposit | .docProp | .docRead | .docReset | .docStat => true
  | _ => false

/-- A request of another package that this package serves: not one that its switch forwards, and not one held behind a FENCE
(11 R331, R332). -/
def forHome (s : State) (tag : ReqTag) (r : OuterReq) : Prop :=
  r.dest = none ∧ behindFence s tag r = false ∧ (performed r.kind = true ∨ ∃ cmp wide deadline, r.kind = .watch cmp wide deadline)

/-- A request that its home performs at once gives the reply `v` and leaves home memory as in `t`; `hart` is the hub core that
makes it, if one does. -/
def OuterDoes (hart : Option Nat) (r : OuterReq) (v : BitVec 128) (s t : State) : Prop :=
  let x := r.addr
  let old := memNat s.mem.bytes x r.size
  match r.kind with
  | .load => v = BitVec.ofNat 128 old ∧ t.mem.bytes = s.mem.bytes
  | .store => v = 0 ∧ HomeWritten x (leBytes r.size r.data.toNat) s t
  | .lr => v = BitVec.ofNat 128 old ∧ t.mem.bytes = s.mem.bytes ∧ ∀ h, hart = some h → (h, x / 128) ∈ t.mem.reserved
  | .sc => ∀ h, hart = some h →
      ((h, x / 128) ∈ s.mem.reserved → v = 0 ∧ HomeWritten x (leBytes r.size r.data.toNat) s t) ∧
      ((h, x / 128) ∉ s.mem.reserved → v = 1 ∧ t.mem.bytes = s.mem.bytes) ∧ ∀ l, (h, l) ∉ t.mem.reserved
  | .atomic fn =>
    let new := atomicNew fn (BitVec.ofNat (8 * r.size) old) (BitVec.ofNat (8 * r.size) r.data.toNat)
      (BitVec.ofNat (8 * r.size) r.din.toNat)
    (r.size = 4 ∨ r.size = 8) → r.din.toNat < 2 ^ (8 * r.size) →
      v = BitVec.ofNat 128 (old + flag (new.isSome || decide (fn ≠ .badd)) * 2 ^ 64) ∧
      (∀ w, new = some w → HomeWritten x (leBytes r.size w.toNat) s t) ∧ (new = none → t.mem.bytes = s.mem.bytes)
  | .deposit =>
    let n := cfmtSize (depositFmt r.din.toNat)
    v = 0 ∧ HomeWritten x (leBytes n (combine (depositFmt r.din.toNat) (r.din.getLsbD 3) (memNat s.mem.bytes x n)
      (r.data.toNat % 2 ^ (8 * n)))) s t
  | .watch _ _ _ | .watchFree _ | .watchMove _ | .reply _ => False
  | k =>
    let h := memNat s.mem.bytes (x + 8) 8
    let c := cellTable k (h / 2 ^ 62) (h / 2 ^ 32 % 2 ^ 30) (memNat s.mem.bytes x 8) (r.din.toNat % 2 ^ 30)
      (r.data.toNat % 2 ^ 64) r.who.toNat
    v = BitVec.ofNat 128 (c.1.1 + c.1.2.1 * 2 ^ 64 + c.1.2.2 * 2 ^ 96) ∧
      (∀ p, c.2 = some p → HomeWritten x (leBytes 8 p.1 ++ leBytes 8 p.2) s t) ∧
      (c.2 = none → t.mem.bytes = s.mem.bytes)

/-- Outstanding operations have different numbers. -/
def opsDiffer (s : State) : Prop := s.mem.ops.Pairwise (fun a b => a.id ≠ b.id)

/-- A message to an agent of this package is the only thing that a step does. -/
def OnlySends (i : Instr) (m : OutMsg) (s : State) : Prop := exec i s = .next { s with outbox := s.outbox ++ [m] }

/-- A message by a link is the only thing that a step does. -/
def OnlySendsTo (i : Instr) (dest : Nat) (m : OutMsg) (s : State) : Prop :=
  ∃ t, exec i s = .next t ∧ Sends dest m s t ∧ SendFrame s t

/-- Only the states of staged units and the messages that leave by the ports change. -/
def StagedFrame (s t : State) : Prop :=
  t = { s with
    mem := { s.mem with staged := t.mem.staged }
    links := { s.links with
      ports := t.links.ports
      awaited := t.links.awaited
      queued := t.links.queued
      sequence := t.links.sequence }
    outbox := t.outbox }

/-- The unit of a staging frame has become `u`; no other unit changes. -/
def UnitNow (borrow unit : Nat) (u : Staged) (s t : State) : Prop :=
  stagedAt t borrow unit = u ∧
    ∀ b n, stageKey b n ≠ stageKey borrow unit → stagedAt t b n = stagedAt s b n

/-- The message that sends the bytes stored into a unit back to its lender (11 R323). -/
def backMessage (s : State) (tag : ReqTag) (borrow unit : Nat) (mask : List Nat) : OutMsg :=
  .stageWrite tag borrow unit (borrowAt s borrow).leaseId
    (mask.map (fun k => (k, memByte s.mem.bytes (stageAddr s borrow unit + k))))

/-- That message is sent, in the name of the die of the staging frame (15 R394). -/
def WritesBack (borrow unit : Nat) (mask : List Nat) (s t : State) : Prop :=
  let die := unitDie s borrow unit
  let fab := unitFab s borrow unit
  Asks (borrowAt s borrow).lender die fab (backMessage s (nextTag s die fab) borrow unit mask) s t

/-- The fetch of a unit is asked of its lender (11 R322). -/
def AsksFetch (borrow unit : Nat) (s t : State) : Prop :=
  let die := unitDie s borrow unit
  let fab := unitFab s borrow unit
  Asks (borrowAt s borrow).lender die fab (.stageFetch (nextTag s die fab) borrow unit (borrowAt s borrow).leaseId) s t

end Sys2Proof.Claims

/-- 04 R92, R102, R103; 08 R226, R232–R241; 10 R298, R310–R312; 11 R316, R322, R323, R330–R333; 15 R394, R395: requests of
other packages, hub cores and endpoints, near copies and lines that leave, staged units, fence counts, and hub watches.
Model's choices: the reservation of a hart, faults of hub accesses and watches, the layout of a deposit, a refused
write-back, and which of the package's own requests are sent again (log 24, 27, 70, 71, 84, 90). -/
def Obligations.OuterAndStaged : Prop :=
  (∀ (tag : ReqTag) (r : OuterReq) (s : State),
    let home := homeNo s r.addr
    (behindFence s tag r = true → exec (.cxlMemRequest tag r) s = .next s) ∧
    (∀ pkg, behindFence s tag r = false → r.dest = some pkg → (∀ c, r.kind ≠ .reply c) → reaches s pkg = true →
      linkFull s pkg = false → ∃ t, exec (.cxlMemRequest tag r) s = .next t ∧ Sends pkg (.transit tag r) s t ∧
        t.mem = s.mem ∧ t.me = s.me ∧
        (r.kind = .store ∨ r.kind = .deposit → (tag, pkg) ∈ t.links.unacked)) ∧
    (∀ pkg, behindFence s tag r = false → r.dest = some pkg → (∀ c, r.kind ≠ .reply c) → reaches s pkg = false →
      OnlySendsTo (.cxlMemRequest tag r) tag.pkg (.remoteFault tag .remoteFault) s) ∧
    (∀ pkg fault, behindFence s tag r = false → r.dest = some pkg → r.kind = .reply fault →
      ∃ t, exec (.cxlMemRequest tag r) s = .next t ∧ Sends pkg (.transitReply tag r.data fault) s t ∧
        (∀ p, p ∈ t.links.unacked ↔ p ∈ s.links.unacked ∧ p.1 ≠ tag) ∧ t.mem = s.mem ∧ t.me = s.me) ∧
    (seenTag s tag home = none → outerReady tag.pkg r s → forHome s tag r → performed r.kind = true →
      ∃ t v, exec (.cxlMemRequest tag r) s = .next t ∧ OuterDoes none r v s t ∧ Out tag.pkg (.remoteReply tag v) t ∧
        (∃ e ∈ t.links.filter, e.tag = tag ∧ e.home = home ∧ e.replied = true ∧ e.reply = v ∧ e.fault = none) ∧
        t.me = s.me ∧ t.others = s.others) ∧
    (∀ e, seenTag s tag home = some e → forHome s tag r → r.kind ≠ .load → e.replied = true →
      ∃ t, exec (.cxlMemRequest tag r) s = .next t ∧ t.mem = s.mem ∧
        Sends tag.pkg (match e.fault with
          | some c => .remoteFault tag c
          | none => .remoteReply tag e.reply) s t) ∧
    (∀ e, seenTag s tag home = some e → forHome s tag r → r.kind ≠ .load → e.replied = false →
      exec (.cxlMemRequest tag r) s = .next s) ∧
    (seenTag s tag home = none → forHome s tag r → (isMmio s r.addr = true ∨ zoneOf (isPlain s) r.addr = .unbacked) →
      ∃ t, exec (.cxlMemRequest tag r) s = .next t ∧ t.mem = s.mem ∧ Sends tag.pkg (.remoteFault tag .remoteFault) s t) ∧
    (∀ cmp wide deadline, seenTag s tag home = none → outerReady tag.pkg r s → forHome s tag r →
      r.kind = .watch cmp wide deadline → r.size = (if wide then 8 else 4) →
      let b := r.data.toNat % 2 ^ (8 * r.size)
      let late := ∃ d, deadline = some d ∧ d.toNat ≤ s.tick.toNat
      (watchTrue cmp (memNat s.mem.bytes r.addr r.size) b → (r.din.getLsbD 0 = false ∨ unitPending s r.addr = false) →
        ∃ t, exec (.cxlMemRequest tag r) s = .next t ∧ Sends tag.pkg (.remoteReply tag 0) s t ∧ t.mem = s.mem) ∧
      (watchTrue cmp (memNat s.mem.bytes r.addr r.size) b → r.din.getLsbD 0 = true → unitPending s r.addr = true →
        ∃ t, exec (.cxlMemRequest tag r) s = .next t ∧ t.outbox = s.outbox ∧ t.me = s.me ∧
          t.mem = { s.mem with hubOwed := s.mem.hubOwed ++ [(.peer tag true r.who, r.addr)] }) ∧
      (¬ watchTrue cmp (memNat s.mem.bytes r.addr r.size) b → late →
        ∃ t, exec (.cxlMemRequest tag r) s = .next t ∧ Sends tag.pkg (.remoteReply tag 1) s t ∧ t.mem = s.mem) ∧
      (¬ watchTrue cmp (memNat s.mem.bytes r.addr r.size) b → ¬ late → freeWatch s (watchDie s r.addr) = none →
        ∃ t, exec (.cxlMemRequest tag r) s = .next t ∧ Sends tag.pkg (.remoteReply tag 2) s t ∧ t.mem = s.mem) ∧
      (∀ k, ¬ watchTrue cmp (memNat s.mem.bytes r.addr r.size) b → ¬ late → freeWatch s (watchDie s r.addr) = some k →
        ∃ t, exec (.cxlMemRequest tag r) s = .next t ∧ t.outbox = s.outbox ∧
          tget? t.mem.watches (watchDie s r.addr * 4096 + k) = some
            { who := .peer tag (r.din.getLsbD 0) r.who, cmp := cmp, wide := wide, deadline := deadline, cmpv := BitVec.ofNat 64 b,
              addr := pkgNo s * 2 ^ 43 + r.addr, status := none }))) ∧
  (∀ (who : HubHart) (r : OuterReq) (s : State),
    let fits := (r.size = 4 ∨ r.size = 8) ∧ r.addr % r.size = 0
    (isMmio s r.addr = true → who.user = true ∨ ¬ fits →
      OnlySends (.hubCoreAccess who r) (.hubFault who.hart .protection) s) ∧
    (isMmio s r.addr = true → who.user = false → fits → r.kind = .load →
      ∃ t, exec (.hubCoreAccess who r) s = .next t ∧ t.mem = s.mem ∧
        t.outbox = s.outbox ++ [.hubReply who.hart (BitVec.ofNat 128 (mmioRead s r.addr r.size))]) ∧
    (isMmio s r.addr = true → who.user = false → fits → r.kind = .store → ∃ t, exec (.hubCoreAccess who r) s = .next t ∧
      exec (.registerWrite r.addr r.size (BitVec.ofNat 64 r.data.toNat)) s =
        .next { t with outbox := t.outbox.dropLast } ∧ t.outbox.getLast? = some (.hubReply who.hart 0)) ∧
    (outerReady (pkgNo s) r s → performed r.kind = true ∨ r.kind = .lr ∨ r.kind = .sc →
      ∃ t v, exec (.hubCoreAccess who r) s = .next t ∧ OuterDoes (some who.hart)
          { r with who := BitVec.ofNat 32 (pkgNo s * 2 ^ 16 + 2 ^ 15 + 255 * 2 ^ 7 + who.hart) } v s t ∧
        .hubReply who.hart v ∈ t.outbox ∧ t.me = s.me ∧ t.others = s.others)) ∧
  (∀ (port : Nat) (r : OuterReq) (s : State),
    let p := vget s.links.ports port .untrained
    let serves := p.endpoint = true ∧ p.up = true ∧ p.retraining = false
    (¬ serves → exec (.endpointDma port r) s = .next s) ∧
    (serves → ∃ t, exec (.endpointDma port r) s = .next t ∧ t.me = s.me ∧ t.others = s.others ∧
      if r.kind = .store ∧ Config.isMsi s.fresh port r.addr = true then
        t.mem = s.mem ∧ Sends (512 + port) (.dmaReply port 0) { s with outbox := s.outbox ++
          [.interrupt (BitVec.ofNat 64 r.addr) (BitVec.ofNat 32 r.data.toNat)] } t
      else match Config.iommu s.fresh port r.addr with
        | none => t.mem = s.mem ∧ Sends (512 + port) (.dmaFault port .protection) s t
        | some x =>
          (isMmio s x = true → t.mem = s.mem ∧ Sends (512 + port) (.dmaFault port .remoteFault) s t) ∧
          (outerReady (pkgNo s) { r with addr := x } s → (r.kind = .load ∨ r.kind = .store) →
            ∃ v, OuterDoes none { r with addr := x } v s t ∧ Out (512 + port) (.dmaReply port v) t))) ∧
  (∀ (die line : Nat) (s : State), ∃ t, exec (.nearCopyAgeOut die line) s = .next t ∧
    t = { s with mem := { s.mem with copies := t.mem.copies } } ∧
    ∀ c, c ∈ t.mem.copies ↔ c ∈ s.mem.copies ∧ ¬ (c.die = die ∧ c.line = line ∧ c.tick.toNat + 32768 ≤ s.tick.toNat)) ∧
  (∀ (die line : Nat) (s : State), ∃ t, exec (.lineEviction die line) s = .next t ∧
    t = { s with mem := { s.mem with
      copies := t.mem.copies
      docs := t.mem.docs
      modified := t.mem.modified } } ∧
    (∀ c, c ∈ t.mem.copies ↔ c ∈ s.mem.copies ∧ ¬ (c.die = die ∧ c.line = line)) ∧
    (∀ c, c ∈ t.mem.docs ↔ c ∈ s.mem.docs ∧ ¬ (c.die = die ∧ c.cell / 128 = line)) ∧
    (∀ p, p ∈ t.mem.modified ↔ p ∈ s.mem.modified ∧ ¬ (p.1 = die ∧ pkgNo s * 2 ^ 36 + p.2 = line))) ∧
  (∀ (line : Nat) (s : State) (p : Point), s.mem.points.find? (fun p => p.line == line) = some p →
    ((p.far = false ∨ s.tick.toNat < p.lastTransfer.toNat + 16384) → exec (.predictorSwitchNear line) s = .next s) ∧
    (p.far = true → p.lastTransfer.toNat + 16384 ≤ s.tick.toNat →
      ∃ t, exec (.predictorSwitchNear line) s = .next t ∧
        t.mem.points.find? (fun p => p.line == line) = some { p with far := false } ∧
        t = { s with mem := { s.mem with points := t.mem.points } })) ∧
  (∀ (borrow unit : Nat) (reply : FetchReply) (s : State),
    let tick := if s.tick.toNat < reply.supplied.toNat then s.tick else reply.supplied
    ((∀ stale, stagedAt s borrow unit ≠ .fetching stale) → exec (.stagedUnitFetched borrow unit reply) s = .next s) ∧
    (stagedAt s borrow unit = .fetching true → reply.fault = none → leaseCause (borrowAt s borrow).state = none →
      tablesRise s = true →
      ∃ t, exec (.stagedUnitFetched borrow unit reply) s = .next t ∧ StagedFrame s t ∧
        UnitNow borrow unit (.fetching false) s t ∧ AsksFetch borrow unit s t) ∧
    (stagedAt s borrow unit = .fetching false → reply.fault = none → leaseCause (borrowAt s borrow).state = none →
      reply.data.length = 256 → memoriesWf s = true →
      ∃ t, exec (.stagedUnitFetched borrow unit reply) s = .next t ∧ UnitNow borrow unit (.clean tick) s t ∧
        HomeWritten (stageAddr s borrow unit) reply.data s t ∧ t.me = s.me ∧
        (opsDiffer s → s.tick.toNat < tick.toNat + 131072 → (∀ p ∈ s.mem.watches, fabLocal p.2.addr / 128 < stageAddr s borrow unit / 128 ∨
            (stageAddr s borrow unit + 255) / 128 < fabLocal p.2.addr / 128) →
          ∀ op acc o a, findAcc s op acc = some (o, a) → waitsUnit s borrow unit o a = true → o.what.plainLoad = true →
            absentUnits s borrow a.fab a.size = [unit] → accAt t op acc = some { a with state := .waiting })) ∧
    (∀ stale c, stagedAt s borrow unit = .fetching stale → reply.fault = some c → opsDiffer s → tablesRise s = true →
      (∀ k ∈ s.engines.copies, copyWaits s borrow unit k = false) →
      (∀ o ∈ s.mem.ops, o.what.posted = true → ∀ a ∈ o.accs, waitsUnit s borrow unit o a = false) →
      ∃ t, exec (.stagedUnitFetched borrow unit reply) s = .next t ∧ stagedAt t borrow unit = .absent ∧
        t.mem.bytes = s.mem.bytes ∧
        ∀ op acc o a, findAcc s op acc = some (o, a) → waitsUnit s borrow unit o a = true → o.what.plainLoad = true →
          accAt t op acc = some { a with state := .failed ((leaseCause (borrowAt s borrow).state).getD c) })) ∧
  (∀ (borrow unit : Nat) (s : State), tablesRise s = true →
    (∀ tick, stagedAt s borrow unit = .clean tick →
      ((s.tick.toNat < tick.toNat + 131072 ∨ (borrowAt s borrow).state = .lost) →
        exec (.stagedUnitAgeOut borrow unit) s = .next s) ∧
      (tick.toNat + 131072 ≤ s.tick.toNat → (borrowAt s borrow).state ≠ .lost →
        ∃ t, exec (.stagedUnitAgeOut borrow unit) s = .next t ∧ UnitNow borrow unit .absent s t ∧ StagedFrame s t ∧
          t.outbox = s.outbox) ∧
      ((borrowAt s borrow).state ≠ .lost →
        ∃ t, exec (.backInvalidate borrow unit) s = .next t ∧ UnitNow borrow unit .absent s t ∧ StagedFrame s t ∧
          t.outbox = s.outbox)) ∧
    (∀ tick mask by_ since, stagedAt s borrow unit = .dirty tick mask by_ since →
      exec (.stagedUnitAgeOut borrow unit) s = .next s ∧
      (((borrowAt s borrow).state = .lost ∨ (borrowAt s borrow).state = .recalled ∨
          (borrowAt s borrow).state = .releasing) → exec (.stagedWritebackBegin borrow unit) s = .next s) ∧
      ((borrowAt s borrow).state ≠ .lost → (borrowAt s borrow).state ≠ .recalled →
        (borrowAt s borrow).state ≠ .releasing →
        ∃ t begun, exec (.stagedWritebackBegin borrow unit) s = .next t ∧ StagedFrame s t ∧
          UnitNow borrow unit (.writing mask [] tick by_ begun false) s t ∧ WritesBack borrow unit mask s t) ∧
      ((borrowAt s borrow).state ≠ .lost →
        ∃ t, exec (.backInvalidate borrow unit) s = .next t ∧ StagedFrame s t ∧
          UnitNow borrow unit (.writing mask [] tick by_ none true) s t ∧ WritesBack borrow unit mask s t)) ∧
    (∀ sent since tick by_ begun drop, stagedAt s borrow unit = .writing sent since tick by_ begun drop →
      ((borrowAt s borrow).state = .lost → ∀ refused, exec (.stagedWritebackAck borrow unit refused) s = .next s) ∧
      ((borrowAt s borrow).state ≠ .lost →
        (∃ t, exec (.stagedWritebackAck borrow unit false) s = .next t ∧ t.me = s.me ∧ t.mem.bytes = s.mem.bytes ∧
          (drop = false → UnitNow borrow unit
            (if since = [] then .clean tick
             else if (borrowAt s borrow).state = .recalled ∨ (borrowAt s borrow).state = .releasing then
               .writing since [] tick by_ none false
             else .dirty tick since by_ s.tick) s t) ∧
          (drop = true → since ≠ [] → UnitNow borrow unit (.writing since [] tick by_ none true) s t) ∧
          (drop = true → since = [] → (∀ o ∈ s.mem.ops, ∀ a ∈ o.accs, waitsUnit s borrow unit o a = false) →
            UnitNow borrow unit .absent s t) ∧
          (drop = true → since = [] → (∃ o ∈ s.mem.ops, ∃ a ∈ o.accs, waitsUnit s borrow unit o a = true) →
            UnitNow borrow unit (.fetching false) s t)) ∧
        (∃ t mask, exec (.stagedWritebackAck borrow unit true) s = .next t ∧
          UnitNow borrow unit (.dirty tick mask [] s.tick) s t ∧ (∀ k, k ∈ mask ↔ k ∈ sent ∨ k ∈ since) ∧
          ∀ id st, begun = some id → findStrand s id = some st →
            findStrand t id = some (recordPsf .leaseExpired (fabOf s (stageAddr s borrow unit)) borrow st))))) ∧
  (∀ (a : Awaited) (s : State),
    (stillAwaited s a.msg = false → retryAwaited a s =
      { s with links := { s.links with awaited := s.links.awaited.filter (fun x => x != a) } }) ∧
    (∀ tag fab, stillAwaited s a.msg = true → a.held = true → a.msg.asks s = some (tag, fab) →
      (tagsUsed s tag.die fab = true → retryAwaited a s = s) ∧
      (tagsUsed s tag.die fab = false →
        Asks a.dest tag.die fab (a.msg.tagged (nextTag s tag.die fab)) s (retryAwaited a s) ∧
          (retryAwaited a s).mem = s.mem ∧ (retryAwaited a s).me = s.me)) ∧
    (stillAwaited s a.msg = true → a.held = false → s.tick.toNat < a.sent.toNat + 1000000 → retryAwaited a s = s) ∧
    (stillAwaited s a.msg = true → a.held = false → a.sent.toNat + 1000000 ≤ s.tick.toNat → a.tries < 4 →
      (linkFull s a.dest = true → retryAwaited a s = s) ∧
      (linkFull s a.dest = false →
        (retryAwaited a s).outbox = s.outbox ++ [a.msg] ∧ (retryAwaited a s).mem = s.mem ∧ (retryAwaited a s).me = s.me ∧
          ⟨a.dest, a.msg, s.tick, a.tries + 1, false⟩ ∈ (retryAwaited a s).links.awaited)) ∧
    (∀ tag borrow unit lease, a.msg = .stageFetch tag borrow unit lease → a.held = false → stillAwaited s a.msg = true →
      tablesRise s = true →
      a.sent.toNat + 1000000 ≤ s.tick.toNat → 4 ≤ a.tries → s.mem.ops = [] → s.engines.copies = [] →
      stagedAt (retryAwaited a s) borrow unit = .absent ∧ (retryAwaited a s).outbox = s.outbox)) ∧
  (∀ (m : FenceMsg) (s : State), m ∉ s.links.heldFences →
    let passes := fenceCount s m.src = 0 ∨ ∃ x ∈ s.links.forwarded, x.src = m.src ∧ x.tag = m.tag
    (m.code = 1 → ¬ passes →
      exec (.fenceCountMessage m) s = .next { s with links := { s.links with heldFences := s.links.heldFences ++ [m] } }) ∧
    (m.code = 1 → passes →
      ∃ t, exec (.fenceCountMessage m) s = .next t ∧
        (m.dest = pkgNo s → t.outbox = s.outbox ∧ t.links.queued = s.links.queued) ∧
        (m.dest ≠ pkgNo s → Sends m.dest (.fenceMsg (fenceBytes { m with hops := (m.hops + 1) % 2 ^ 16 })) s t) ∧
        t.links.heldFences = s.links.heldFences ∧ m ∈ t.links.forwarded ∧ t.mem = s.mem ∧ t.me = s.me) ∧
    (m.code = 2 → OnlySendsTo (.fenceCountMessage m) m.src (.fenceMsg (fenceBytes { m with code := 3 })) s) ∧
    (m.code = 3 → (∀ p ∈ s.links.probed, p.1 ≠ m.tag) → exec (.fenceCountMessage m) s = .next s) ∧
    (m.code = 3 → (∃ p ∈ s.links.probed, p.1 = m.tag) →
      ∃ t, exec (.fenceCountMessage m) s = .next t ∧ t.mem = s.mem ∧ t.me = s.me ∧
        (∀ n, n ∈ t.links.refusedSwitches ↔ n ∈ s.links.refusedSwitches ∧ n ≠ m.tag) ∧
        ∀ p, p ∈ t.links.probed ↔ p ∈ s.links.probed ∧ p.1 ≠ m.tag)) ∧
  (∀ (switch : Nat) (s : State),
    ((∀ p ∈ s.links.probed, p.1 = switch → s.tick.toNat < p.2.toNat + 10000) →
      exec (.probeTimeout switch) s = .next s) ∧
    ((∃ p ∈ s.links.probed, p.1 = switch) → (∀ p ∈ s.links.probed, p.1 = switch → p.2.toNat + 10000 ≤ s.tick.toNat) →
      ∃ t, exec (.probeTimeout switch) s = .next t ∧ t.mem = s.mem ∧ t.me = s.me ∧
        (∀ n, n ∈ t.links.refusedSwitches ↔ n ∈ s.links.refusedSwitches ∨ n = switch) ∧
        ∀ p, p ∈ t.links.probed ↔ p ∈ s.links.probed ∧ p.1 ≠ switch)) ∧
  (∀ (die hart : Nat) (addr : DWord) (s : State),
    let h := hubSlot s die hart
    let fab := addr.toNat % 2 ^ 52
    let x := fabLocal fab
    let wide := h.hctl.getLsbD 2
    let n := if wide then 8 else 4
    let cmp : WCmp := match h.hctl.toNat % 4 with
      | 0 => .eq
      | 1 => .ne
      | 2 => .geu
      | _ => .ltu
    let b := h.hcmp.toNat % 2 ^ (8 * n)
    let late := h.hctl.getLsbD 3 = true ∧ h.hdl.toNat ≤ s.tick.toNat
    let Answered := fun (status : Nat) => ∃ t, exec (.hubWatchArm die hart addr) s = .next t ∧
      (hubSlot t die hart).hreply = BitVec.ofNat 64 (2 ^ 63 + status) ∧ (hubSlot t die hart).haddr = addr ∧
      t.outbox = s.outbox ++ (if h.hmsia = 0 then [] else [.interrupt h.hmsia h.hmsid]) ∧
      t.mem.watches = s.mem.watches ∧ t.me = s.me
    (tablesRise s = true → hubArmed s die hart = true → Answered 3) ∧
    let served := isLocal s fab = true ∧ homeHeld s x 8 = false ∧ isMmio s x = false ∧ zoneOf (isPlain s) x ≠ .unbacked ∧
      ownServes s x = true ∧ watchDie s x ∉ s.failure.fencedDies
    (hubArmed s die hart = false → isLocal s fab = true → homeHeld s x 8 = true →
      exec (.hubWatchArm die hart addr) s = .next s) ∧
    (hubArmed s die hart = false → isLocal s fab = false → reaches s (fabPkg fab) = true → tablesRise s = true →
      ∃ t, exec (.hubWatchArm die hart addr) s = .next t ∧ (hubSlot t die hart).haddr = addr ∧
        (hubSlot t die hart).asked = some s.mem.nextOp ∧ t.me = s.me ∧
        Asks (fabPkg fab) die fab (.hubWatch s.mem.nextOp hart (nextTag s die fab) fab) s t) ∧
    (hubArmed s die hart = false → isLocal s fab = false → reaches s (fabPkg fab) = false → tablesRise s = true →
      ∃ t, exec (.hubWatchArm die hart addr) s = .next t ∧ t.outbox = s.outbox ++ [.hubFault hart .remoteFault] ∧
        t.mem.watches = s.mem.watches ∧ t.me = s.me) ∧
    (hubArmed s die hart = false → served → poisonedAt s x n = true → tablesRise s = true →
      ∃ t, exec (.hubWatchArm die hart addr) s = .next t ∧ t.outbox = s.outbox ++ [.hubFault hart .poison] ∧
        t.mem.watches = s.mem.watches ∧ t.me = s.me) ∧
    (tablesRise s = true → hubArmed s die hart = false → served → poisonedAt s x n = false → (∀ p ∈ s.mem.partials, p.addr / 128 ≠ x / 128) →
      x % 128 + n ≤ 128 →
      (watchTrue cmp (memNat s.mem.bytes x n) b → unitPending s x = false → Answered 0) ∧
      (watchTrue cmp (memNat s.mem.bytes x n) b → unitPending s x = true →
        ∃ t, exec (.hubWatchArm die hart addr) s = .next t ∧ t.mem.hubOwed = s.mem.hubOwed ++ [(.hub die hart, x)] ∧
          (hubSlot t die hart).hreply = h.hreply ∧ t.outbox = s.outbox ∧ t.me = s.me) ∧
      (¬ watchTrue cmp (memNat s.mem.bytes x n) b → late → Answered 1) ∧
      (¬ watchTrue cmp (memNat s.mem.bytes x n) b → ¬ late → freeWatch s (watchDie s x) = none → Answered 2) ∧
      (∀ k, ¬ watchTrue cmp (memNat s.mem.bytes x n) b → ¬ late → freeWatch s (watchDie s x) = some k →
        ∃ t e, exec (.hubWatchArm die hart addr) s = .next t ∧
          tget? t.mem.watches (watchDie s x * 4096 + k) = some e ∧ e.who = .hub die hart ∧ e.cmp = cmp ∧
          e.wide = wide ∧ e.addr = fab ∧ e.status = none ∧ e.cmpv.toNat = b ∧ t.outbox = s.outbox ∧ t.me = s.me))) ∧
  (∀ (die hart : Nat) (s : State), tablesRise s = true →
    ∃ t, exec (.hubReplyClear die hart) s = .next t ∧ hubSlot t die hart = { hubSlot s die hart with hreply := 0 } ∧
      (∀ d k, hubKey d k ≠ hubKey die hart → hubSlot t d k = hubSlot s d k) ∧
      t = { s with mem := { s.mem with hub := t.mem.hub } })

/-! ### Lending -/

namespace Sys2Proof.Claims

open Sys2Proof Sys2Proof.Machine

/-- At most one message leaves, with the package that it goes to. -/
def MaySend (m : Option (Nat × OutMsg)) (s t : State) : Prop :=
  match m with
  | none => t.outbox = s.outbox ∧ t.links = s.links
  | some p => Sends p.1 p.2 s t

/-- An instruction puts `x` into a lease entry and sends `m`; nothing else changes. -/
def LeaseBecomes (i : Instr) (entry : Nat) (x : Lease) (m : Option (Nat × OutMsg)) (s : State) : Prop :=
  ∃ t, exec i s = .next t ∧ leaseAt t entry = x ∧ (∀ j, j ≠ entry → leaseAt t j = leaseAt s j) ∧ MaySend m s t ∧
    t = { s with
      lending := { s.lending with leases := t.lending.leases }
      links := { s.links with
        ports := t.links.ports
        queued := t.links.queued }
      outbox := t.outbox }

/-- A watch that the borrower of a lease has armed on a word of its extent (08 R240). -/
def leasedWatch (s : State) (x : Lease) (e : WatchEntry) : Prop :=
  (∃ tag hub w, e.who = .peer tag hub w ∧ tag.pkg = x.borrower) ∧ isLocal s e.addr = true ∧
    0x20000000000 + x.extent * 2 ^ 31 ≤ fabLocal e.addr ∧ fabLocal e.addr < 0x20000000000 + (x.extent + 1) * 2 ^ 31

/-- An instruction ends a lease: it puts `x` into its entry, frees the borrower's watches on its extent and sends `m`; nothing
else changes. -/
def LeaseEnds (i : Instr) (entry : Nat) (x : Lease) (m : Option (Nat × OutMsg)) (s : State) : Prop :=
  ∃ t, exec i s = .next t ∧ leaseAt t entry = x ∧ (∀ j, j ≠ entry → leaseAt t j = leaseAt s j) ∧ MaySend m s t ∧
    (∀ p, p ∈ t.mem.watches ↔ p ∈ s.mem.watches ∧ ¬ leasedWatch s x p.2) ∧
    t = { s with
      lending := { s.lending with leases := t.lending.leases }
      mem := { s.mem with watches := t.mem.watches }
      links := { s.links with
        ports := t.links.ports
        queued := t.links.queued }
      outbox := t.outbox }

/-- An instruction puts `x` into a borrow entry and sends `m`; the entry's units stay unless `drops`, and then all are
ABSENT. Nothing else changes. -/
def BorrowBecomes (i : Instr) (entry : Nat) (x : Borrow) (drops : Bool) (m : Option (Nat × OutMsg)) (s : State) : Prop :=
  ∃ t, exec i s = .next t ∧ borrowAt t entry = x ∧ (∀ j, j ≠ entry → borrowAt t j = borrowAt s j) ∧ MaySend m s t ∧
    (drops = true → ∀ u, u < 2 ^ 23 → stagedAt t entry u = .absent) ∧ (drops = false → t.mem = s.mem) ∧
    (∀ j u, j ≠ entry → u < 2 ^ 23 → stagedAt t j u = stagedAt s j u) ∧
    t = { s with
      lending := { s.lending with borrows := t.lending.borrows }
      mem := { s.mem with staged := t.mem.staged }
      links := { s.links with
        ports := t.links.ports
        queued := t.links.queued }
      outbox := t.outbox }

/-- No unit of a borrow entry is DIRTY or being written back, and neither an access nor a copy command goes through it. -/
def unitsQuiet (s : State) (entry : Nat) : Prop :=
  (∀ p ∈ s.mem.staged, p.1 / 2 ^ 23 = entry → (∃ tick, p.2 = .clean tick) ∨ ∃ stale, p.2 = .fetching stale) ∧
    (∀ o ∈ s.mem.ops, ∀ a ∈ o.accs, ¬ ((a.kind = 3 ∨ a.kind = 4) ∧ a.index = entry)) ∧
    ∀ c ∈ s.engines.copies, entry ∉ c.entriesOut

/-- Nothing happens. -/
def Idle (i : Instr) (s : State) : Prop := exec i s = .next s

/-- A package takes up a new term under a cobbler (11 R326, R328). -/
def TermTaken (term cobbler : Nat) (s t : State) : Prop :=
  t.lending.term = term ∧ t.lending.cobbler = some cobbler ∧
    (∀ p ∈ s.lending.leases, p.2.state = .offered → Out cobbler (.offer p.1 p.2.extent) t) ∧
    ∀ p ∈ s.lending.borrows, p.2.state = .requested → Out cobbler (.request p.1) t

end Sys2Proof.Claims

/-- 11 R314–R328: the transitions of the lender's and the borrower's tables, the cobbler's trades, heartbeats and the change
of terms. Model's choices: the entry that an add event fills, fields that a change of state leaves, the moment of a match, and
the elector's identity (log 21, 69, 82, 85). -/
def Obligations.LendingSteps : Prop :=
  (∀ (entry : Nat) (s : State), tablesRise s = true →
    let x := leaseAt s entry
    (∀ extent, x.state = .free → entry < 2048 → extent < 1536 → extentNamed s extent = false → s.lending.synced = true →
      LeaseBecomes (.leaseOffer entry extent) entry { x with state := .offered, extent := extent }
        (some (cobblerPkg s, .offer entry extent)) s) ∧
    (∀ extent, (x.state ≠ .free ∨ extentNamed s extent = true ∨ s.lending.synced = false) →
      Idle (.leaseOffer entry extent) s) ∧
    (x.state = .offered → LeaseBecomes (.leaseWithdraw entry) entry { x with state := .free }
      (some (cobblerPkg s, .withdraw entry)) s) ∧
    (x.state ≠ .offered → Idle (.leaseWithdraw entry) s) ∧
    (x.state = .granted → x.scrubbing = false → s.tick.toNat < x.expiry.toNat → s.tick.toNat + 10000000 < 2 ^ 64 →
      LeaseBecomes (.leaseRecall entry) entry
        { x with state := .recalling, deadline := BitVec.ofNat 64 (min (s.tick.toNat + 10000000) x.expiry.toNat) }
        (some (x.borrower, .recallMsg x.borrower x.leaseId)) s) ∧
    (x.state ≠ .granted → Idle (.leaseRecall entry) s) ∧
    (∀ borrower dur term, (x.state ≠ .offered ∨ term ≠ s.lending.term ∨ s.lending.synced = false) →
      Idle (.extentAdd entry borrower dur term) s) ∧
    (∀ borrower dur, x.state = .offered → s.lending.synced = true →
      ∃ t id, exec (.extentAdd entry borrower dur s.lending.term) s = .next t ∧ id ≠ 0 ∧ id < 2 ^ 32 ∧
        leaseAt t entry = { x with
          state := .granted
          borrower := borrower
          leaseId := id
          expiry := s.tick + BitVec.ofNat 64 (dur * 1000000)
          durMs := dur } ∧
        (∀ j, j ≠ entry → leaseAt t j = leaseAt s j) ∧ t.lending.leaseCount = id ∧
        (s.lending.leaseCount + 1 < 2 ^ 32 → id = s.lending.leaseCount + 1) ∧
        Sends borrower
          (.addEvent borrower (tagBytes ⟨pkgNo s, x.extent, id, s.tick + BitVec.ofNat 64 (dur * 1000000), dur⟩) x.extent dur)
          s t ∧
        t.mem = s.mem ∧ t.me = s.me) ∧
    (x.state = .granted → x.expiry.toNat ≤ s.tick.toNat →
      LeaseEnds (.leaseExpiry entry) entry { x with state := .expired, scrubbing := true } none s) ∧
    ((x.state ≠ .granted ∨ s.tick.toNat < x.expiry.toNat) → Idle (.leaseExpiry entry) s) ∧
    (x.state = .recalling → x.deadline.toNat ≤ s.tick.toNat →
      LeaseEnds (.recallDeadline entry) entry { x with state := .expired, scrubbing := true, deadline := 0 } none s) ∧
    ((x.state ≠ .recalling ∨ s.tick.toNat < x.deadline.toNat) → Idle (.recallDeadline entry) s) ∧
    (x.scrubbing = false → Idle (.extentScrubDone entry) s) ∧
    (x.scrubbing = true → memoriesWf s = true →
      ∃ t, exec (.extentScrubDone entry) s = .next t ∧ leaseAt t entry = Lease.free ∧
        (∀ j, j ≠ entry → leaseAt t j = leaseAt s j) ∧ t.me = s.me ∧
        ∀ y, memByte t.mem.bytes y =
          if 0x20000000000 + x.extent * 2 ^ 31 ≤ y ∧ y < 0x20000000000 + (x.extent + 1) * 2 ^ 31 then 0
          else memByte s.mem.bytes y)) ∧
  (∀ (borrower leaseId : Nat) (s : State), tablesRise s = true →
    (findLease s borrower leaseId = none →
      OnlySendsTo (.leaseRenewal borrower leaseId) borrower (.renewalRefused borrower leaseId) s ∧
      OnlySendsTo (.leaseRelease borrower leaseId) borrower (.releaseAck borrower leaseId) s) ∧
    (∀ k x, findLease s borrower leaseId = some (k, x) →
      (x.state = .granted → x.scrubbing = false → s.tick.toNat < x.expiry.toNat →
        LeaseBecomes (.leaseRenewal borrower leaseId) k { x with expiry := s.tick + BitVec.ofNat 64 (x.durMs * 1000000) }
          (some (borrower, .renewalReply borrower leaseId (s.tick + BitVec.ofNat 64 (x.durMs * 1000000)))) s) ∧
      (x.state = .recalling → x.scrubbing = false → s.tick.toNat < x.deadline.toNat →
        ∃ s1 t, exec (.leaseRenewal borrower leaseId) s = .next t ∧ Sends borrower (.renewalRefused borrower leaseId) s s1 ∧
          SendFrame s s1 ∧ Sends borrower (.recallMsg borrower leaseId) s1 t ∧ SendFrame s1 t) ∧
      ((x.state = .granted ∨ x.state = .recalling) →
        LeaseEnds (.leaseRelease borrower leaseId) k { x with scrubbing := true }
          (some (borrower, .releaseAck borrower leaseId)) s))) ∧
  (∀ (entry : Nat) (s : State), tablesRise s = true →
    let x := borrowAt s entry
    (x.state = .free → entry < 4096 → s.lending.synced = true →
      BorrowBecomes (.extentRequest entry) entry { x with state := .requested } false
        (some (cobblerPkg s, .request entry)) s) ∧
    ((x.state ≠ .free ∨ s.lending.synced = false) → Idle (.extentRequest entry) s) ∧
    (x.state = .requested → BorrowBecomes (.requestCancel entry) entry { x with state := .free } false
      (some (cobblerPkg s, .cancel entry)) s) ∧
    (x.state ≠ .requested → Idle (.requestCancel entry) s) ∧
    (x.state ≠ .active → Idle (.borrowRelease entry) s) ∧
    (x.state = .active → unitsQuiet s entry →
      BorrowBecomes (.borrowRelease entry) entry { x with state := .releasing } false
        (some (x.lender, .release x.lender x.leaseId)) s) ∧
    (x.state = .expired → BorrowBecomes (.borrowReactivate entry) entry { x with lastRenewal := some s.tick } false
      (some (x.lender, .renewal x.lender x.leaseId)) s) ∧
    (x.state ≠ .expired → Idle (.borrowReactivate entry) s) ∧
    ((x.state = .expired ∨ x.state = .lost) → BorrowBecomes (.borrowFree entry) entry Borrow.free true none s) ∧
    (x.state ≠ .expired → x.state ≠ .lost → Idle (.borrowFree entry) s) ∧
    (x.state = .releasing → BorrowBecomes (.releaseAck entry) entry Borrow.free true none s) ∧
    (x.state ≠ .releasing → Idle (.releaseAck entry) s) ∧
    (∀ tag : ExtentTag, tag.lender ∈ s.links.lostPeers → Idle (.addEvent entry tag) s) ∧
    (∀ tag : ExtentTag, tag.lender ∉ s.links.lostPeers →
      let filled := fun (y : Borrow) => { y with
        state := BorrowState.active
        lender := tag.lender
        extent := tag.extent
        leaseId := tag.leaseId
        expiry := tag.expiry
        dur := tag.durMs
        lastRenewal := none }
      (((∀ j, (borrowAt s j).state ≠ .requested) ∨ s.lending.synced = false) →
        OnlySendsTo (.addEvent entry tag) tag.lender (.release tag.lender tag.leaseId) s) ∧
      (x.state = .requested → s.lending.synced = true → BorrowBecomes (.addEvent entry tag) entry (filled x) true none s) ∧
      (∀ e, x.state ≠ .requested → (borrowAt s e).state = .requested → s.lending.synced = true →
        (∀ j, j < e → (borrowAt s j).state ≠ .requested) →
        BorrowBecomes (.addEvent entry tag) e (filled (borrowAt s e)) true none s)) ∧
    (x.state = .active → x.expiry.toNat ≤ s.tick.toNat + 3 * (x.dur * 1000000) / 4 →
      BorrowBecomes (.renewalDue entry) entry { x with state := .renewing, lastRenewal := some s.tick } false
        (some (x.lender, .renewal x.lender x.leaseId)) s) ∧
    ((x.state ≠ .active ∨ s.tick.toNat + 3 * (x.dur * 1000000) / 4 < x.expiry.toNat) → Idle (.renewalDue entry) s) ∧
    (∀ leaseId expiry,
      ((x.state = .renewing ∨ x.state = .expired) → x.leaseId = leaseId →
        BorrowBecomes (.renewalReply entry leaseId expiry) entry
          { x with state := .active, expiry := expiry, lastRenewal := none } false none s) ∧
      ((x.state ≠ .renewing ∧ x.state ≠ .expired ∨ x.leaseId ≠ leaseId) →
        Idle (.renewalReply entry leaseId expiry) s)) ∧
    (∀ tick, x.lastRenewal = some tick →
      (x.state = .renewing → tick.toNat + 10000000 ≤ s.tick.toNat → s.tick.toNat + 10000 < x.expiry.toNat →
        BorrowBecomes (.renewalRetry entry) entry { x with lastRenewal := some s.tick } false
          (some (x.lender, .renewal x.lender x.leaseId)) s) ∧
      ((x.state ≠ .renewing ∨ s.tick.toNat < tick.toNat + 10000000) → Idle (.renewalRetry entry) s)) ∧
    ((x.state = .active ∨ x.state = .renewing) → x.expiry.toNat ≤ s.tick.toNat + 10000 → unitsQuiet s entry →
      BorrowBecomes (.guardReached entry) entry { x with state := .expired, lastRenewal := none } false none s) ∧
    ((x.state ≠ .active ∧ x.state ≠ .renewing ∨ s.tick.toNat + 10000 < x.expiry.toNat) →
      Idle (.guardReached entry) s)) ∧
  (∀ (lender leaseId k : Nat) (x : Borrow) (s : State), tablesRise s = true →
    s.lending.borrows.find? (fun p => p.2.lender == lender && p.2.leaseId == leaseId
      && (p.2.state == .active || p.2.state == .renewing || p.2.state == .expired)) = some (k, x) →
    (unitsQuiet s k →
      BorrowBecomes (.recall lender leaseId) k { x with state := .releasing, lastRenewal := none } false
        (some (lender, .release lender leaseId)) s) ∧
    (∀ unit tick mask by_ since, stagedAt s k unit = .dirty tick mask by_ since → unit < 2 ^ 23 →
      (∀ o ∈ s.mem.ops, ∀ a ∈ o.accs, ¬ ((a.kind = 3 ∨ a.kind = 4) ∧ a.index = k)) →
      (∀ c ∈ s.engines.copies, k ∉ c.entriesOut) →
      ∃ t tag held, exec (.recall lender leaseId) s = .next t ∧
        borrowAt t k = { x with state := .recalled, lastRenewal := none } ∧
        (stagedAt t k unit = .writing mask [] tick by_ none false) ∧
        ⟨lender, backMessage s tag k unit mask, s.tick, 0, held⟩ ∈ t.links.awaited ∧
        (held = false → Out lender (backMessage s tag k unit mask) t) ∧
        t.mem.bytes = s.mem.bytes ∧ t.me = s.me)) ∧
  (∀ (pkg entry : Nat) (s : State),
    (s.lending.cobbler ≠ some (pkgNo s) → ∀ ended,
      Idle (.cobblerOffer pkg ⟨entry, ended⟩) s ∧ Idle (.cobblerRequest pkg ⟨entry, ended⟩) s) ∧
    (s.lending.cobbler = some (pkgNo s) →
      ((∀ o ∈ s.lending.offers, ¬ (o.1 = pkg ∧ o.2.1 = entry)) → exec (.cobblerOffer pkg ⟨entry, false⟩) s =
        .next { s with lending := { s.lending with offers := s.lending.offers ++ [(pkg, entry, s.tick)] } }) ∧
      ((∀ r ∈ s.lending.requests, ¬ (r.1 = pkg ∧ r.2.1 = entry)) → exec (.cobblerRequest pkg ⟨entry, false⟩) s =
        .next { s with lending := { s.lending with requests := s.lending.requests ++ [(pkg, entry, s.tick)] } }) ∧
      ((∃ o ∈ s.lending.offers, o.1 = pkg ∧ o.2.1 = entry) → Idle (.cobblerOffer pkg ⟨entry, false⟩) s) ∧
      ((∃ r ∈ s.lending.requests, r.1 = pkg ∧ r.2.1 = entry) → Idle (.cobblerRequest pkg ⟨entry, false⟩) s) ∧
      (∃ t, exec (.cobblerOffer pkg ⟨entry, true⟩) s = .next t ∧
        (∀ o, o ∈ t.lending.offers ↔ o ∈ s.lending.offers ∧ ¬ (o.1 = pkg ∧ o.2.1 = entry)) ∧
        t = { s with lending := { s.lending with offers := t.lending.offers } }) ∧
      (∃ t, exec (.cobblerRequest pkg ⟨entry, true⟩) s = .next t ∧
        (∀ r, r ∈ t.lending.requests ↔ r ∈ s.lending.requests ∧ ¬ (r.1 = pkg ∧ r.2.1 = entry)) ∧
        t = { s with lending := { s.lending with requests := t.lending.requests } }))) ∧
  (∀ (s : State) (pkg entry : Nat) (at_ : DWord), s.lending.cobbler = some (pkgNo s) →
    s.lending.requests = [(pkg, entry, at_)] →
    let eligible := fun (o : Nat × Nat × DWord) => o ∈ s.lending.offers ∧ o.1 ≠ pkg ∧ o.2.2.toNat < s.tick.toNat
    (s.tick.toNat ≤ at_.toNat → matchAll s = s) ∧
    ((∀ o, ¬ eligible o) → matchAll s = s) ∧
    (∀ o, at_.toNat < s.tick.toNat → eligible o → (∀ p ∈ s.lending.offers, p.1 < 2 ^ 16 ∧ p.2.1 < 2 ^ 16) →
      (∀ p, eligible p → p ≠ o → o.2.2.toNat < p.2.2.toNat ∨
        o.2.2 = p.2.2 ∧ (o.1 < p.1 ∨ o.1 = p.1 ∧ o.2.1 < p.2.1)) →
      ∃ d, 100 ≤ d ∧ d ≤ 60000 ∧ Sends o.1 (.addCommand o.1 o.2.1 pkg d s.lending.term) s (matchAll s) ∧
        SendFrame { s with
          fresh := s.fresh + 1
          lending := { s.lending with
            offers := s.lending.offers.filter (fun x => x != o)
            requests := [] } } (matchAll s))) ∧
  (∀ s : State,
    (s.lending.cobbler = some (pkgNo s) → s.lending.lastSent.toNat + 1000000 ≤ s.tick.toNat →
      ∃ t, exec .heartbeatSend s = .next t ∧ (∀ q ∈ s.links.admitted, Out q (.beat s.lending.term s.tick) t) ∧
        SendFrame { s with lending := { s.lending with lastSent := s.tick } } t) ∧
    ((s.lending.cobbler ≠ some (pkgNo s) ∨ s.tick.toNat < s.lending.lastSent.toNat + 1000000) → Idle .heartbeatSend s)) ∧
  (∀ (sender term : Nat) (time : DWord) (s : State),
    (term < s.lending.term → Idle (.heartbeat sender term time) s) ∧
    (term = s.lending.term → s.lending.cobbler = some sender → s.lending.timeSet = false →
      (s.tick.toNat ≤ time.toNat → ∃ t, exec (.heartbeat sender term time) s = .next t ∧ t.tick = time ∧
        t.lending.synced = true ∧ t.lending.timeSet = true ∧ t.lending.lastBeat = time ∧
        (s.boot.stage = 6 → t.work.opened = true) ∧ t.mem = s.mem) ∧
      (time.toNat < s.tick.toNat → ∃ t, exec (.heartbeat sender term time) s = .next t ∧ t.tick = s.tick ∧
        t.lending.heldUntil = some time ∧ t.lending.timeSet = true ∧ t.lending.synced = s.lending.synced)) ∧
    (term = s.lending.term → s.lending.cobbler = some sender → s.lending.timeSet = true →
      let near := s.tick.toNat ≤ time.toNat + 1000 ∧ time.toNat ≤ s.tick.toNat + 1000
      ∃ t, exec (.heartbeat sender term time) s = .next t ∧ t.tick = s.tick ∧ t.lending.lastBeat = s.tick ∧
        (t.lending.synced = true ↔ s.lending.synced = true ∨ near) ∧ t.lending.heldUntil = s.lending.heldUntil ∧
        t.mem = s.mem ∧ t.outbox = s.outbox) ∧
    (s.lending.term < term → ∃ t, exec (.heartbeat sender term time) s = .next t ∧ TermTaken term sender s t)) ∧
  (∀ s : State,
    ((s.boot.stage ≠ 6 ∨ s.lending.cobbler = none ∨ s.lending.cobbler = some (pkgNo s) ∨ s.lending.electing ≠ none ∨
        s.tick.toNat < s.lending.lastBeat.toNat + 5000000) → Idle .heartbeatTimeout s) ∧
    (∀ a, s.boot.stage = 6 → s.lending.cobbler ≠ none → s.lending.cobbler ≠ some (pkgNo s) →
      s.lending.electing = none → s.lending.lastBeat.toNat + 5000000 ≤ s.tick.toNat → s.lending.anchors ≠ [] →
      s.lending.anchors.getD ((s.lending.term + 1) % s.lending.anchors.length) 0 = a → a ≠ pkgNo s →
      anchorDead s a = false → reaches s a = true →
      ∃ t tag, exec .heartbeatTimeout s = .next t ∧
        t.lending.electing = some ⟨s.lending.term + 1, s.mem.nextOp, .stat⟩ ∧ tag.pkg = pkgNo s ∧ tag.die = 16 ∧
        Asks a 16 (a * 2 ^ 43 + s.lending.electCell) (.cellReq s.mem.nextOp tag (a * 2 ^ 43 + s.lending.electCell) .stat 0
          (BitVec.ofNat 32 (pkgNo s * 2 ^ 16 + (2 ^ 15 + 255 * 2 ^ 7)))) s t ∧ t.me = s.me ∧ t.mem.bytes = s.mem.bytes) ∧
    (∀ a rest, s.boot.stage = 6 → s.lending.cobbler ≠ none → s.lending.cobbler ≠ some (pkgNo s) →
      s.lending.electing = none → memoriesWf s = true →
      s.lending.lastBeat.toNat + 5000000 ≤ s.tick.toNat → s.lending.anchors = a :: rest →
      s.lending.anchors.getD ((s.lending.term + 1) % s.lending.anchors.length) 0 = pkgNo s →
      pkgNo s < 512 → anchorDead s (pkgNo s) = false → poisonedAt s s.lending.electCell 16 = false →
      let g := (s.lending.term + 1) / s.lending.anchors.length
      let h := memNat s.mem.bytes (s.lending.electCell + 8) 8
      (h / 2 ^ 62 = 0 → h / 2 ^ 32 % 2 ^ 30 = g →
        ∃ t, exec .heartbeatTimeout s = .next t ∧ TermTaken (s.lending.term + 1) (pkgNo s) s t ∧
          t.lending.synced = true ∧ memNat t.mem.bytes s.lending.electCell 8 = pkgNo s % 2 ^ 64 ∧
          memNat t.mem.bytes (s.lending.electCell + 8) 8 / 2 ^ 62 = 1 ∧
          memNat t.mem.bytes (s.lending.electCell + 8) 8 / 2 ^ 32 % 2 ^ 30 = g) ∧
      (h / 2 ^ 62 = 1 → h / 2 ^ 32 % 2 ^ 30 = g →
        ∃ t, exec .heartbeatTimeout s = .next t ∧ t.mem = s.mem ∧
          TermTaken (s.lending.term + 1) (memNat s.mem.bytes s.lending.electCell 8) s t)))

namespace Sys2Proof.Claims

open Sys2Proof Sys2Proof.Machine

/-- An event has been reported: its record went to the management interface with the step's messages (15 R372). -/
def Logged (event unit : Nat) (whereD arg : DWord) (s t : State) : Prop :=
  ∃ ms r, t.outbox = s.outbox ++ ms ∧ .logCopy r ∈ ms ∧ r.event = event ∧ r.unit = unit ∧ r.whereD = whereD ∧
    r.arg = arg ∧ r.tick = s.tick

/-- Bytes outside the ring of the error log and its header (15 R373). -/
def clearOfLog (s : State) (x n : Nat) : Prop :=
  x + n ≤ s.failure.logBase ∨ s.failure.logBase + 64 + 32 * 2 ^ s.failure.logSize ≤ x

/-- What a report leaves as it was: strands, work, scratchpads and every byte of memory outside the error log. -/
def ReportFrame (s t : State) : Prop :=
  t.me = s.me ∧ t.others = s.others ∧ t.work = s.work ∧ t.mem.scratch = s.mem.scratch ∧ t.mem.slices = s.mem.slices ∧
    ∀ y, clearOfLog s y 1 → memByte t.mem.bytes y = memByte s.mem.bytes y

/-- A unit newly poisoned, with its record, or poisoned before; no other unit changes. -/
def UnitPoisoned (i : Instr) (unit : Nat) (s : State) : Prop :=
  ∃ t, exec i s = .next t ∧ (∀ u, u ∈ t.mem.poisoned ↔ u = unit ∨ u ∈ s.mem.poisoned) ∧ ReportFrame s t ∧
    (unit ∉ s.mem.poisoned → Logged 3 (logUnit s (unit * 256)) (fabOf s (unit * 256)) 0 s t)

/-- A scratchpad word newly poisoned, with its record. -/
def WordPoisoned (i : Instr) (kind word : Nat) (whereD : DWord) (s : State) : Prop :=
  ∃ t, exec i s = .next t ∧ t.mem.poisonedScratch = s.mem.poisonedScratch ++ [(kind, word)] ∧
    t.mem.poisoned = s.mem.poisoned ∧ ReportFrame s t ∧ Logged 3 0xFFFF whereD (BitVec.ofNat 64 kind) s t

/-- The package is fenced, with its record and a notice on every port in service (15 R390). -/
def PackageFenced (arg : Nat) (s t : State) : Prop :=
  t.mem.mode = .fenced ∧ Logged 6 (pkgNo s) 0 (BitVec.ofNat 64 arg) s t ∧ ReportFrame s t ∧
    ∀ i, i < 18 → (portAt s i).up = true → Out (512 + i) (.fencedNotice (pkgNo s)) t

/-- A peer package is lost, and what this package holds of it changes (15 R396). -/
def PeerLost (pkg : Nat) (arg : DWord) (s t : State) : Prop :=
  Logged 9 pkg 0 arg s t ∧ pkg ∈ t.links.lostPeers ∧ pkg ∉ t.links.admitted ∧
    (∀ k, ((leaseAt s k).state = .granted ∨ (leaseAt s k).state = .recalling) → (leaseAt s k).borrower = pkg →
      leaseAt t k = { leaseAt s k with
        state := .expired
        scrubbing := true
        deadline := 0 }) ∧
    (∀ k, (leaseAt s k).borrower ≠ pkg → leaseAt t k = leaseAt s k) ∧
    (∀ k, (borrowAt s k).lender = pkg → (borrowAt s k).state ≠ .free → (borrowAt s k).state ≠ .requested →
      (borrowAt t k).state = .lost) ∧
    (∀ k, (borrowAt s k).lender ≠ pkg → borrowAt t k = borrowAt s k) ∧
    (∀ p ∈ t.mem.watches, ∀ tag hub w, p.2.who = .peer tag hub w → tag.pkg ≠ pkg) ∧
    (∀ op acc o a, opsDiffer s → findAcc s op acc = some (o, a) → sentAway s o a = true → a.kind ≠ 3 → a.kind ≠ 4 →
      fabPkg a.fab = pkg → o.what.posted = false → (∀ p ∈ s.mem.watches, ∀ st w, p.2.who ≠ .strand op st w) → ∃ b, accAt t op acc = some b ∧ b.state = .failed .remoteFault) ∧
    (s.mem.ops = [] → s.mem.staged = [] → s.engines.copies = [] → s.lending.electing = none → ∀ y, clearOfLog s y 1 → memByte t.mem.bytes y = memByte s.mem.bytes y)

/-- Port `i` has become `p`; the other ports stay. -/
def PortBecomes (i : Nat) (p : Port) (s t : State) : Prop :=
  portAt t i = p ∧ ∀ j, j ≠ i → portAt t j = portAt s j

/-- A port that is out of service. -/
def portOut (p : Port) : Port :=
  { p with up := false, retraining := false, replays := [], attempts := 0, retried := false }

/-- What a port knows of its partner once it has trained: the package number, if it is one (01 R9). -/
def partnerNo : Partner → Option Nat
  | .package n => some n
  | .unfit n => n
  | .switch | .endpoint => none

/-- A report of lost ranges has been taken up, or is kept back while the firmware holds 4,096 records (15 R373). -/
def RangesReported (die : Nat) (whereD arg : DWord) (s t : State) : Prop :=
  Logged 10 die whereD arg s t ∨ ∃ r ∈ t.failure.logLater, r.event = 10 ∧ r.unit = die ∧ r.whereD = whereD ∧ r.arg = arg

/-- The data units of a unit's stripe, less one (04 R104). -/
def siblings (stripe unit : Nat) : List Nat := ((List.range 15).map (fun i => stripe * 15 + i)).filter (fun u => u != unit)

/-- One byte of the XOR of units as they stand at their homes. -/
def unitsXor (s : State) (units : List Nat) (k : Nat) (first : Byte) : Byte :=
  units.foldl (fun v u => v ^^^ memByte s.mem.bytes (u * 256 + k)) first

end Sys2Proof.Claims

/-- 15 R372–R376, R380–R396: what the patrol finds, rebuilds, the error log, the loss of a stack, of a die, of the package and
of a peer, and what the ports do. How a place is numbered is the model's (log 39). Model's choices: what is withdrawn at a
loss, the setting of a rate, poison of a stripe, what is dropped with a peer, and which messages stand in a replay buffer (log 40,
41, 76, 78, 79, 90). -/
def Obligations.FailureAndLinks : Prop :=
  (∀ (unit : Nat) (s : State), Idle (.hbmPatrolRead unit .good) s) ∧
  (∀ (unit : Nat) (s : State), (unit < 2 ^ 32 ∨ 2 ^ 33 ≤ unit) → unit < 2 ^ 40 →
    let zone := zoneOf (isPlain s) (unit * 256)
    (zone = .hbm → onLostStack s unit = true → Idle (.hbmPatrolRead unit .correctable) s) ∧
    ((zone = .hbm ∧ onLostStack s unit = false ∨ zone = .pool) → memoriesWf s = true →
      (logRoom s = true → ∃ t, exec (.hbmPatrolRead unit .correctable) s = .next t ∧ ReportFrame s t ∧
        t.mem.poisoned = s.mem.poisoned ∧ Logged 1 (logUnit s (unit * 256)) (fabOf s (unit * 256)) 0 s t) ∧
      (logRoom s = false → ∃ t, exec (.hbmPatrolRead unit .correctable) s = .next t ∧ ReportFrame s t ∧
        (∀ r, .logCopy r ∈ t.outbox → .logCopy r ∈ s.outbox) ∧
        (s.failure.logDrop < 2 ^ 32 - 1 → t.failure.logDrop = s.failure.logDrop + 1 ∧
          (6 ≤ s.failure.logSize → memNat t.mem.bytes (s.failure.logBase + 0x14) 4 = s.failure.logDrop + 1)))) ∧
    (zone ≠ .hbm → zone ≠ .pool → Idle (.hbmPatrolRead unit .correctable) s ∧ Idle (.hbmPatrolRead unit .uncorrectable) s) ∧
    (zone = .pool → UnitPoisoned (.hbmPatrolRead unit .uncorrectable) unit s) ∧
    (zone = .hbm →
      (s.mem.mode = .plain → UnitPoisoned (.hbmPatrolRead unit .uncorrectable) unit s) ∧
      (s.mem.mode = .fenced → Idle (.hbmPatrolRead unit .uncorrectable) s) ∧
      (s.mem.mode = .parity → unit ∉ s.mem.poisoned → (∀ r ∈ s.mem.rebuilds, r.unit ≠ unit) →
        exec (.hbmPatrolRead unit .uncorrectable) s =
          .next { s with mem := { s.mem with rebuilds := s.mem.rebuilds ++ [⟨unit, unit / 15⟩] } }) ∧
      ∀ l, s.mem.mode = .degraded l →
        (parityStack (unit / 15) = l → UnitPoisoned (.hbmPatrolRead unit .uncorrectable) unit s) ∧
        (parityStack (unit / 15) ≠ l → unit = unitOn (unit / 15) l → Idle (.hbmPatrolRead unit .uncorrectable) s) ∧
        (parityStack (unit / 15) ≠ l → unit ≠ unitOn (unit / 15) l →
          ∃ t, exec (.hbmPatrolRead unit .uncorrectable) s = .next t ∧ ReportFrame s t ∧
            ∀ u, u ∈ t.mem.poisoned ↔ u = unit ∨ u = unitOn (unit / 15) l ∨ u ∈ s.mem.poisoned))) ∧
  (∀ (stripe : Nat) (s : State), stripe < 2 ^ 32 → isPlain s = false → s.mem.mode = .parity →
    2 ^ 32 + stripe ∉ s.mem.poisoned → (∀ r ∈ s.mem.rebuilds, r.unit ≠ 2 ^ 32 + stripe) →
    exec (.hbmPatrolRead (2 ^ 32 + stripe) .uncorrectable) s =
      .next { s with mem := { s.mem with rebuilds := s.mem.rebuilds ++ [⟨2 ^ 32 + stripe, stripe⟩] } }) ∧
  (∀ (stripe l : Nat) (s : State), stripe < 2 ^ 32 → isPlain s = false → s.mem.mode = .degraded l →
    (parityStack stripe = l → Idle (.hbmPatrolRead (2 ^ 32 + stripe) .uncorrectable) s) ∧
    (parityStack stripe ≠ l → ∃ t, exec (.hbmPatrolRead (2 ^ 32 + stripe) .uncorrectable) s = .next t ∧ ReportFrame s t ∧
      ∀ u, u ∈ t.mem.poisoned ↔ u = 2 ^ 32 + stripe ∨ u = unitOn stripe l ∨ u ∈ s.mem.poisoned)) ∧
  (∀ (core lane off : Nat) (s : State), core < 256 → lane < 128 → off < 2 ^ 16 → off % 32 = 0 →
    let word := (core * 2 ^ 23 + lane * 2 ^ 16 + off) / 32
    (1, word) ∉ s.mem.poisonedScratch →
    WordPoisoned (.hbmPatrolRead (2 ^ 40 + 8 * word + 1) .uncorrectable) 1 word
      (BitVec.ofNat 64 (core + lane * 2 ^ 8 + off * 2 ^ 16)) s) ∧
  (∀ (core off : Nat) (s : State), core < 256 → off < 2 ^ 32 → off % 32 = 0 →
    let word := (core * 2 ^ 40 + off) / 32
    (2, word) ∉ s.mem.poisonedScratch →
    WordPoisoned (.hbmPatrolRead (2 ^ 40 + 8 * word + 2) .uncorrectable) 2 word
      (BitVec.ofNat 64 (core + off * 2 ^ 16)) s) ∧
  (∀ (word d : Nat) (s : State), zoneOf (isPlain s) (word * 32) = .die d → d ∉ s.failure.fencedDies →
    (4, word) ∉ s.mem.poisonedScratch →
    WordPoisoned (.hbmPatrolRead (2 ^ 40 + 8 * word + 4) .uncorrectable) 4 word (fabOf s (word * 32)) s) ∧
  (∀ (unit : Nat) (p : Point) (s : State), p ∈ s.mem.points → p.owner.isSome = true → p.line / 2 = unit →
    UnitPoisoned (.hbmPatrolRead (2 ^ 40 + 8 * unit + 5) .uncorrectable) unit s) ∧
  (∀ (unit : Nat) (s : State),
    ((∀ r ∈ s.mem.rebuilds, r.unit ≠ unit) → Idle (.unitRebuildComplete unit) s) ∧
    (∀ stripe, s.mem.rebuilds.find? (fun r => r.unit == unit) = some ⟨unit, stripe⟩ →
      let mine := s.mem.rebuilds.filter (fun x => x.stripe == stripe)
      (stripeBusy s stripe = true → Idle (.unitRebuildComplete unit) s) ∧
      (stripeBusy s stripe = false → memoriesWf s = true → s.failure.logBase % 64 = 0 →
        (mine = [⟨unit, stripe⟩] →
          (s.mem.rebuildTicks.filter (fun p => p.1 == unitChannel unit
            && decide (s.tick.toNat < p.2.toNat + 1000000000))).length < 15 →
          ∃ t, exec (.unitRebuildComplete unit) s = .next t ∧
            t.mem.rebuilds = s.mem.rebuilds.filter (fun x => x.stripe != stripe) ∧ t.me = s.me ∧
            (unit < 2 ^ 32 → clearOfLog s (unit * 256) 256 →
              Logged 2 (stackOf false (unit * 256)) (fabOf s (unit * 256)) 0 s t ∧
              (∀ k, k < 256 → memByte t.mem.bytes (unit * 256 + k) =
                unitsXor s (siblings stripe unit) k (memByte s.mem.parity (stripe * 256 + k))) ∧
              ∀ y, clearOfLog s y 1 → (y < unit * 256 ∨ unit * 256 + 256 ≤ y) →
                memByte t.mem.bytes y = memByte s.mem.bytes y) ∧
            (2 ^ 32 ≤ unit → stripe < 2 ^ 28 → clearOfLog s (stripe * 3840) 3840 → ReportFrame s t ∧
              ∀ k, k < 256 → memByte t.mem.parity (stripe * 256 + k) = unitsXor s (siblings stripe unit) k 0)) ∧
        (2 ≤ mine.length →
          ∃ t, exec (.unitRebuildComplete unit) s = .next t ∧ ReportFrame s t ∧
            t.mem.rebuilds = s.mem.rebuilds.filter (fun x => x.stripe != stripe) ∧
            (∀ x ∈ mine, x.unit ∈ t.mem.poisoned) ∧
            ∀ k, k < 256 → memByte t.mem.parity (stripe * 256 + k) =
              unitsXor t ((List.range 15).map (fun i => stripe * 15 + i)) k 0)))) ∧
  (∀ s : State,
    (s.failure.logHeld = [] → s.failure.logLater = [] → Idle .errorLogFlush s) ∧
    (s.failure.logHeld ≠ [] → logRoom s = false → Idle .errorLogFlush s) ∧
    (∀ r rest, s.failure.logHeld = [] → s.failure.logLater = r :: rest →
      let q := { r with seq := s.failure.logSeq % 2 ^ 32 }
      ∃ t, exec .errorLogFlush s = .next t ∧ t.failure.logLater = rest ∧ t.failure.logSeq = s.failure.logSeq + 1 ∧
        t.outbox = s.outbox ++ [.logCopy q] ∧ (logRoom s = false → t.failure.logHeld = [q])) ∧
    (∀ r rest, s.failure.logHeld = r :: rest → logRoom s = true → s.failure.logLater = [] → memoriesWf s = true →
      let at_ := s.failure.logBase + 64 + 32 * (s.failure.logWp.toNat % 2 ^ s.failure.logSize)
      ∃ t, exec .errorLogFlush s = .next t ∧ t.failure.logHeld = rest ∧ t.failure.logWp = s.failure.logWp + 1 ∧
        memNat t.mem.bytes (at_ + 24) 8 = r.tick.toNat ∧ memNat t.mem.bytes (at_ + 16) 8 = r.whereD.toNat ∧
        memNat t.mem.bytes (at_ + 8) 8 = r.arg.toNat ∧ memNat t.mem.bytes (at_ + 4) 4 = r.seq % 2 ^ 32 ∧
        memNat t.mem.bytes (at_ + 2) 2 = r.unit % 2 ^ 16 ∧ memNat t.mem.bytes at_ 2 = r.event % 2 ^ 16 ∧
        memNat t.mem.bytes s.failure.logBase 8 = (s.failure.logWp + 1).toNat ∧ ReportFrame s t)) ∧
  (∀ (stack : Nat) (s : State),
    ((16 ≤ stack ∨ s.mem.mode = .fenced ∨ s.mem.mode = .degraded stack) → Idle (.stackBaseDieSilent stack) s) ∧
    (stack < 16 →
      (s.mem.mode = .parity → s.mem.rebuilds = [] →
        ∃ t, exec (.stackBaseDieSilent stack) s = .next t ∧ t.mem.mode = .degraded stack ∧
          t.mem.lostAt = some s.tick ∧ t.mem.settled = false ∧ t.mem.poisoned = s.mem.poisoned ∧ Logged 4 stack 0 0 s t ∧
          ∀ y, clearOfLog s y 1 → memByte t.mem.bytes y = memByte s.mem.bytes y) ∧
      (s.mem.mode = .plain → ∃ t, exec (.stackBaseDieSilent stack) s = .next t ∧ Logged 4 stack 0 0 s t ∧
        PackageFenced 1 s t) ∧
      (∀ m, s.mem.mode = .degraded m → m ≠ stack → ∃ t, exec (.stackBaseDieSilent stack) s = .next t ∧
        Logged 4 stack 0 0 s t ∧ PackageFenced 0 s t))) ∧
  (∀ s : State,
    ((∀ l, s.mem.mode ≠ .degraded l) → Idle .settlePoint s) ∧
    (∀ l since, s.mem.mode = .degraded l → s.mem.lostAt = some since →
      ((s.mem.settled = true ∨ s.tick.toNat < since.toNat + 2000) → Idle .settlePoint s) ∧
      (s.mem.settled = false → since.toNat + 2000 ≤ s.tick.toNat →
        (∃ t, exec .settlePoint s = .next t ∧ t.mem.settled = true ∧ t.mem.mode = .degraded l ∧
          (∀ c ∈ t.mem.copies, isLocal s (c.line * 128) = true → zoneOf (isPlain s) (fabLocal (c.line * 128)) = .hbm →
            stackOf (isPlain s) (fabLocal (c.line * 128)) ≠ l) ∧
          (opsDiffer s → ∀ o ∈ t.mem.ops, ∀ a ∈ o.accs, a.state = .applied → onStack s l a = false)) ∧
        (∀ o a st, s.mem.ops = [o] → o.accs = [a] → s.engines.nears = [] → a.state = .applied → onStack s l a = true →
          o.what = .store → findStrand s o.owner = some st → st.all ≠ [] → memoriesWf s = true →
          ∃ t, exec .settlePoint s = .next t ∧ findStrand t o.owner = some (recordPsf .remoteFault (BitVec.ofNat 64 a.fab) a.index st) ∧
            (∀ k, k < a.delta.length → memByte t.mem.bytes (fabLocal a.fab + k) =
              memByte s.mem.bytes (fabLocal a.fab + k) ^^^ a.delta.getD k 0) ∧
            ∀ y, (y < fabLocal a.fab ∨ fabLocal a.fab + a.delta.length ≤ y) →
              memByte t.mem.bytes y = memByte s.mem.bytes y)))) ∧
  (∀ (die reason : Nat) (s : State),
    ((16 ≤ die ∨ die ∈ s.failure.fencedDies ∨ 2 < reason) → Idle (.dieFence die reason) s) ∧
    (die < 16 → die ∉ s.failure.fencedDies → reason ≤ 2 → idsDiffer s →
      s.work.launches.Pairwise (fun a b => a.handle ≠ b.handle) →
      ∃ t, exec (.dieFence die reason) s = .next t ∧ t.failure.fencedDies = s.failure.fencedDies ++ [die] ∧
        Logged 5 die 0 (BitVec.ofNat 64 reason) s t ∧ (∀ st ∈ strandsOf t, st.place.die ≠ die) ∧
        (∀ b ∈ t.work.blocks, b.core / 16 ≠ die) ∧ (∀ l ∈ t.work.launches, ∀ r ∈ l.runs, r.die ≠ die) ∧
        (∀ c ∈ t.mem.copies, c.die ≠ die) ∧ (∀ e ∈ t.mem.tlb, agentDie e.agent ≠ die) ∧
        (s.mem.mode = .parity → t.mem.mode = .degraded die ∧ t.mem.lostAt = some s.tick) ∧
        (s.mem.mode = .plain → t.mem.mode = .fenced) ∧
        (s.work.master ≠ die → t.work.master = s.work.master) ∧
        (s.work.master = die → s.work.deputy < 16 → s.work.deputy ≠ die → s.work.deputy ∉ s.failure.fencedDies →
          t.work.master = s.work.deputy) ∧
        (s.mem.ops = [] → s.engines.copies = [] → s.engines.nears = [] →
          (∀ st ∈ strandsOf s, st.place.isCtl = false → st.place.die = die →
            ∃ b ∈ s.work.blocks, b.handle = st.who.id.handle ∧ b.idx = st.who.blockIdx ∧ b.core / 16 = die) →
          ∀ l ∈ s.work.launches,
          ∃ l' ∈ t.work.launches, l'.handle = l.handle ∧ l'.ended = l.ended ∧
            (∀ r ∈ l.runs, r.die = die → ∀ n, r.lo ≤ n → n < r.hi → ∃ p ∈ l'.free, p.1 ≤ n ∧ n < p.2) ∧
            ∀ b ∈ s.work.blocks, b.handle = l.handle → b.core / 16 = die →
              (l.record.idem = true → ∃ p ∈ l'.free, p.1 ≤ b.idx ∧ b.idx < p.2) ∧
              (l.record.idem = false → ∃ p ∈ l'.lost, p.1 = die ∧ p.2.1 ≤ b.idx ∧ b.idx < p.2.2 ∧
                RangesReported die (BitVec.ofNat 64 ((p.2.2 - p.2.1) * 2 ^ 32 + p.2.1)) (BitVec.ofNat 64 l.handle) s t)))) ∧
  (∀ (pkg : Nat) (s : State), tablesRise s = true →
    ((pkg = pkgNo s ∨ pkg ∈ s.links.lostPeers) → Idle (.fencedNotice pkg) s ∧ Idle (.noRouteTimeout pkg) s) ∧
    ((∀ since, (pkg, since) ∈ s.links.noRoute → s.tick.toNat < since.toNat + 1000000) → Idle (.noRouteTimeout pkg) s) ∧
    (pkg ≠ pkgNo s → pkg ∉ s.links.lostPeers →
      (∃ t, exec (.fencedNotice pkg) s = .next t ∧ PeerLost pkg 1 s t) ∧
      ∀ since, (pkg, since) ∈ s.links.noRoute → since.toNat + 1000000 ≤ s.tick.toNat →
        ∃ t, exec (.noRouteTimeout pkg) s = .next t ∧ PeerLost pkg 0 s t) ∧
    ((pkg = pkgNo s ∨ 512 ≤ pkg) → ∀ v, Idle (.attestationReport pkg v) s) ∧
    (pkg ≠ pkgNo s → pkg < 512 →
      (pkg ∈ s.links.unfit → Idle (.attestationReport pkg true) s) ∧
      (pkg ∉ s.links.unfit → (s.boot.stage ≠ 6 ∨ s.lending.cobbler ≠ none ∨ s.lending.electing ≠ none) →
        ∃ t, exec (.attestationReport pkg true) s = .next t ∧
        (∀ q, q ∈ t.links.admitted ↔ q = pkg ∨ q ∈ s.links.admitted) ∧
        (∀ q, q ∈ t.links.lostPeers ↔ q ≠ pkg ∧ q ∈ s.links.lostPeers) ∧
        t = { s with links := { s.links with
          admitted := t.links.admitted
          lostPeers := t.links.lostPeers
          noRoute := t.links.noRoute } }) ∧
      (pkg ∉ s.links.admitted → pkg ∉ s.links.lostPeers → Idle (.attestationReport pkg false) s) ∧
      ((pkg ∈ s.links.admitted ∨ pkg ∈ s.links.lostPeers) →
        ∃ t arg, exec (.attestationReport pkg false) s = .next t ∧ PeerLost pkg arg s t))) ∧
  (∀ (port : Nat) (same : Bool) (s : State),
    let p := portAt s port
    let recent := p.replays.filter (fun t => decide (s.tick.toNat < t.toNat + 1000000)) ++ [s.tick]
    let n := if same then p.attempts + 1 else 1
    ((18 ≤ port ∨ p.up = false ∨ p.retraining = true) → Idle (.linkReplay port same) s) ∧
    (port < 18 → p.up = true → p.retraining = false →
      (recent.length < 64 → n ≤ 4 → ∃ t, exec (.linkReplay port same) s = .next t ∧
        PortBecomes port { p with replays := recent, attempts := n } s t ∧
        t = { s with links := { s.links with ports := t.links.ports } }) ∧
      ((64 ≤ recent.length ∨ 4 < n) → ∃ t, exec (.linkReplay port same) s = .next t ∧
        PortBecomes port { p with
          retraining := true
          replays := []
          attempts := 0 } s t ∧
        t = { s with links := { s.links with ports := t.links.ports } }))) ∧
  (∀ (port : Nat) (s : State),
    let p := portAt s port
    let q := { p with retraining := false }
    (∀ asked, (18 ≤ port ∨ p.retraining = false) → Idle (.retrainComplete ⟨port, asked⟩) s) ∧
    (∀ rate, rate ≠ 128 → rate ≠ 64 → rate ≠ 32 → Idle (.retrainComplete ⟨port, some rate⟩) s) ∧
    (port < 18 → p.retraining = true →
      (p.rate ≤ 32 → ∃ t, exec (.retrainComplete ⟨port, none⟩) s = .next t ∧
        PortBecomes port (portOut { p with fixed := false }) s t ∧ ReportFrame s t ∧ Logged 8 port 0 0 s t) ∧
      (32 < p.rate → ∃ t, exec (.retrainComplete ⟨port, none⟩) s = .next t ∧
        PortBecomes port { q with
          fixed := false
          rate := p.rate / 2
          retried := false } s t ∧ ReportFrame s t ∧
        (logRoom s = true → Logged 7 port 0 (BitVec.ofNat 64 (p.rate / 2)) s t)) ∧
      (∀ rate, rate = 128 ∨ rate = 64 ∨ rate = 32 →
        (p.fixed = true → p.rate = rate → p.retried = false → ∃ t, exec (.retrainComplete ⟨port, some rate⟩) s = .next t ∧
          PortBecomes port { q with retried := true } s t ∧ t = { s with links := { s.links with ports := t.links.ports } }) ∧
        (p.fixed = true → p.rate = rate → p.retried = true → ∃ t, exec (.retrainComplete ⟨port, some rate⟩) s = .next t ∧
          PortBecomes port (portOut p) s t ∧ ReportFrame s t ∧ Logged 8 port 0 0 s t) ∧
        (p.fixed = false ∨ p.rate ≠ rate → ∃ t, exec (.retrainComplete ⟨port, some rate⟩) s = .next t ∧
          PortBecomes port { q with
            fixed := true
            rate := rate
            retried := false } s t ∧ t = { s with links := { s.links with ports := t.links.ports } }))) ∧
    ((18 ≤ port ∨ p.up = true ∨ p.endpoint = true) → Idle (.routeRecompute port) s) ∧
    (port < 18 → p.up = false → p.endpoint = false → ∃ t ms, exec (.routeRecompute port) s = .next t ∧
      t = { s with
        links := { s.links with
          noRoute := t.links.noRoute
          ports := t.links.ports }
        outbox := s.outbox ++ ms } ∧
      (∀ q, (q ∈ s.links.admitted ∨ q ∈ s.lending.anchors) → q ≠ s.boot.pkg.getD (s.boot.slot % 512) →
        q ∉ s.links.lostPeers → hasRoute s q = false → ∃ since, (q, since) ∈ t.links.noRoute) ∧
      (∀ m ∈ ms, ∃ q, (q, m) ∈ p.buffer ∧ m.isRequest = true) ∧
      (∀ m ∈ p.buffer, m.2.isRequest = true → m.2 ∈ ms ∨ m ∈ (portAt t port).buffer) ∧
      ((∀ i, i < 18 → (portAt s i).up = true → (portAt s i).buffer.length + p.buffer.length ≤ 256) →
        ∀ m ∈ p.buffer, m.2.isRequest = true → reaches t m.1 = true → hasRoute s m.1 = true → m.2 ∈ ms)) ∧
    let own := fun (partner : Partner) => ∃ n, partner = .package n ∧ s.boot.pkg = some n
    (∀ partner, (18 ≤ port ∨ p.up = true ∨ own partner ∨ partner = .endpoint ∧ port < 14) →
      Idle (.linkTraining port partner) s) ∧
    (∀ partner, port < 18 → p.up = false → ¬ own partner → (partner = .endpoint → 14 ≤ port) → p.buffer = [] →
      ∃ s1 t, exec (.linkTraining port partner) s = .next t ∧
        PortBecomes port { portOut p with
          up := true
          peer := partnerNo partner
          endpoint := decide (partner = .endpoint) } s s1 ∧
        s1 = { s with links := { s.links with ports := s1.links.ports } } ∧
        (partner = .switch → Sends (512 + port) (.fenceMsg (fenceBytes ⟨port, 0, pkgNo s, 2, 0⟩)) s1 t ∧
          (port, s.tick) ∈ t.links.probed) ∧
        (partner ≠ .switch → t.outbox = s.outbox ∧ t.links.ports = s1.links.ports ∧ t.links.queued = s.links.queued) ∧
        (partner = .unfit none → port ∈ t.links.refusedSwitches) ∧
        (∀ n, partner = .unfit (some n) → n ∈ t.links.unfit) ∧
        t = { s with
          links := { s.links with
            ports := t.links.ports
            queued := t.links.queued
            probed := t.links.probed
            refusedSwitches := t.links.refusedSwitches
            unfit := t.links.unfit
            noRoute := t.links.noRoute }
          outbox := t.outbox })) ∧
  (∀ s : State,
    (s.mem.mode = .fenced → Idle .hubFirmwareFailure s) ∧
    (s.mem.mode ≠ .fenced → ∃ t, exec .hubFirmwareFailure s = .next t ∧ PackageFenced 2 s t))

namespace Sys2Proof.Claims

open Sys2Proof Sys2Proof.Machine

/-- An instruction changes only the state of the shank. -/
def OnlyPower (i : Instr) (p : Power) (s : State) : Prop := exec i s = .next { s with power := p }

/-- A write of a register does what another instruction does. -/
def WriteIs (addr size : Nat) (v : DWord) (i : Instr) (s : State) : Prop := exec (.registerWrite addr size v) s = exec i s

/-- The fields of a strand's image before its registers, as bytes of the image (02 R51). -/
def imageFields (f : Nat → Word) (x : Strand) : Prop :=
  (∀ i : Fin 7, x.preds[i] = f (0x20 + 4 * i.val)) ∧ x.fcr = f 0x40 ∧ x.fflags = f 0x44 ∧ x.ftrapen = f 0x48 ∧
    x.psf = f 0x4C ∧ x.trap.tcause = f 0x50 ∧ x.lr = f 0x54 ∧ x.trap.tvec = f 0x5C ∧ x.trap.tvech = f 0x60 ∧
    x.wdl = f 0x64 ∧ x.wdlh = f 0x68 ∧ x.trap.taddr = f 0x6C ∧ x.trap.taddrh = f 0x70 ∧ x.trap.tepc = f 0x74 ∧
    x.trap.tepch = f 0x78 ∧ x.qstatus = f 0xE0 ∧ x.trap.emimm = f 0xE8 ∧ x.trap.emclause = f 0xEC

/-- The bits of a word of an image that a register holds; the others are reserved and read as zero (00 R4). -/
def heldBits (off : Nat) : Word :=
  match off with
  | 0x40 => 7
  | 0x44 | 0x48 => 0x3F
  | 0x4C => 0xC0FFFFFF
  | 0x50 => 0x8007FFFF
  | 0x60 | 0x78 => 0xFFFFFF
  | 0xE0 => 0xFFF0
  | _ => 0xFFFFFFFF

/-- The word at an offset of a list of bytes. -/
def imageWord (bs : List Byte) (off : Nat) : Word := BitVec.ofNat 32 (leNat ((bs.drop off).take 4))

/-- The budget and the clock of a profile (01 R16). -/
def ofProfile (p : Nat) : Nat × Nat := if p = 1 then (9600, 2400) else if p = 2 then (5500, 1400) else (8400, 2000)

/-- A local address of the home memory in HBM. -/
def inHbm (s : State) (y : Nat) : Prop := zoneOf (isPlain s) y = .hbm

end Sys2Proof.Claims

/-- 01 R16, R17; 03 R66; 11 R315–R318, R329, R330; 13 R339–R345; 14 R370, R371: reset and the stages of start-up, attestation,
power, the debugger, and writes of the MMIO ranges. Model's choices: the digest function, the sharing of a budget, ignored
writes, the coolant's cuts and a second STEP (log 12, 22, 23, 72, 89). -/
def Obligations.StartPowerDebug : Prop :=
  (∀ (cfg : BootConfig) (s : State), exec (.reset cfg) s = .next { State.reset with
    agenda := s.agenda
    outbox := s.outbox
    fresh := s.fresh
    boot := { State.reset.boot with config := cfg } }) ∧
  (∀ (res : StageResult) (s : State),
    let n := s.boot.stage
    let measured := fun (t : State) => vget t.boot.measures n 0 = BitVec.ofNat 512 (leNat (shake256
        (leBytes 64 (vget s.boot.measures n 0).toNat ++ leBytes 64 res.digest.toNat) 64)) ∧
      (∀ k, k ≠ n → vget t.boot.measures k 0 = vget s.boot.measures k 0) ∧ t.boot.stage = n + 1 ∧
      t.boot.config = s.boot.config ∧ t.boot.failed = none
    ((s.boot.failed.isSome = true ∨ 6 ≤ n) → Idle (.bootStage res) s) ∧
    (s.boot.failed = none → n < 5 → res.verified = false → exec (.bootStage res) s = .next { s with
      boot := { s.boot with failed := some n }
      outbox := s.outbox ++ [.bootFailure n 1] }) ∧
    (s.boot.failed = none → res.verified = true →
      ((n = 0 ∨ n = 4) → ∃ t, exec (.bootStage res) s = .next t ∧ measured t ∧ t = { s with boot := t.boot }) ∧
      (n = 1 → ∃ t, exec (.bootStage res) s = .next t ∧ measured t ∧
        t.mem = { s.mem with mode := if s.boot.config.plain then .plain else .parity } ∧
        t.lending = { s.lending with
          anchors := s.boot.config.anchors
          electCell := s.boot.config.electCell } ∧
        t.boot.slot = s.boot.config.slot ∧ t.me = s.me) ∧
      (n = 2 → memoriesWf s = true → ∃ t, exec (.bootStage res) s = .next t ∧ measured t ∧ t.tick = 0 ∧
        t.failure.logBase = res.logBase ∧ t.failure.logSize = res.logSize ∧ t.failure.imageBase = res.imageBase ∧
        t.failure.imageSize = res.imageSize ∧ (∀ d ∈ res.badDies, d < 16 → d ∈ t.failure.fencedDies) ∧
        (res.badDies = [] → (∀ y, inHbm s y → clearOfLog t y 1 → memByte t.mem.bytes y = 0) ∧
          (∀ y, ¬ inHbm s y → clearOfLog t y 1 → memByte t.mem.bytes y = memByte s.mem.bytes y) ∧ t.me = s.me)) ∧
      (n = 3 → (∀ x ∈ res.ports, (portAt s x.1).buffer = []) → ∃ t, exec (.bootStage res) s = .next t ∧ measured t ∧ t.mem = s.mem ∧ t.me = s.me ∧
        (∀ i, (∀ x ∈ res.ports, x.1 ≠ i) → portAt t i = portAt s i) ∧
        (res.ports.Pairwise (fun x y => x.1 ≠ y.1) → ∀ x ∈ res.ports, x.1 < 18 → (portAt s x.1).up = false →
          (∀ k, x.2 = .package k → s.boot.pkg ≠ some k) → (x.2 = .endpoint → 14 ≤ x.1) →
          ∃ probes, portAt t x.1 = { portOut (portAt s x.1) with
              up := true
              peer := partnerNo x.2
              endpoint := decide (x.2 = .endpoint)
              buffer := probes } ∧ (x.2 ≠ .switch → probes = []) ∧
            ∀ m ∈ probes, m = (512 + x.1, .fenceMsg (fenceBytes ⟨x.1, 0, pkgNo s, 2, 0⟩))))) ∧
    (s.boot.failed = none → n = 5 → ∃ t, exec (.bootStage res) s = .next t ∧ t.boot.stage = 6 ∧
      t.boot.pkg = some (s.boot.slot % 512) ∧ t.boot.measures = s.boot.measures ∧ t.me = s.me ∧
      ∀ c, s.lending.cobbler = some c → t.work.opened = (s.work.opened || s.lending.synced) ∧
        t.lending = s.lending ∧ t.mem = s.mem)) ∧
  (∀ (nonce : DWord) (s : State), ∃ bs sig,
    exec (.attestationRequest nonce) s = .next { s with outbox := s.outbox ++ [.attestation bs sig] } ∧
      bs.length = 344 ∧ sig.length ≤ 1280 ∧ leNat (bs.take 4) = 1 ∧
      (s.boot.pkg = none → leNat ((bs.drop 4).take 4) = 0xFFFFFFFF) ∧
      (∀ p, s.boot.pkg = some p → p < 512 → leNat ((bs.drop 4).take 4) = p) ∧
      leNat ((bs.drop 8).take 8) = nonce.toNat ∧ leNat ((bs.drop 16).take 8) = s.tick.toNat ∧
      ∀ i : Fin 5, leNat ((bs.drop (24 + 64 * i.val)).take 64) = s.boot.measures[i].toNat) ∧
  (∀ (demand : List Nat) (s : State),
    (s.tick.toNat / 8000 ≤ s.power.lastGrant.toNat / 8000 → Idle (.grantInterval demand) s) ∧
    (s.power.lastGrant.toNat / 8000 < s.tick.toNat / 8000 → ∃ t, exec (.grantInterval demand) s = .next t ∧
      (s.power.profile ≠ 1 → t.power.active = s.power.profile.toNat) ∧
      (s.power.profile = 1 →
        (s.power.coolantSince = none → s.power.burstBarred = false → 0 < burstTicksLeft s → t.power.active = 1) ∧
        ((s.power.coolantSince.isSome = true ∨ s.power.burstBarred = true ∨ burstTicksLeft s = 0) →
          t.power.active = 0)) ∧
      (let b := (ofProfile t.power.active).1
       let budget := max (b - b * s.power.budgetCut / 10) (min b 5500)
       let asked := (liveDies s).foldl (fun n d => n + demand.getD d 0) 0
       t.power.dieGrants.toList.foldl (fun n x => n + x) 0 ≤ budget ∧
       t.power.grant.toNat = t.power.dieGrants.toList.foldl (fun n x => n + x) 0 ∧
       ∀ d : Fin 16, (d.val ∉ liveDies s → t.power.dieGrants[d] = 0) ∧
         (d.val ∈ liveDies s → asked ≤ budget → t.power.dieGrants[d] = demand.getD d.val 0) ∧
         t.power.dieClocks[d] ≤ (ofProfile t.power.active).2 ∧ t.power.dieClocks[d] % 100 = 0 ∧
         (d.val ∈ liveDies s → lowestClock t ≤ t.power.dieClocks[d])) ∧
      t.power.throttled = [] ∧ t.power.lastGrant = s.tick ∧ t.power.profile = s.power.profile ∧
      t.power.therm = s.power.therm ∧
      t = { s with
        fresh := s.fresh + 1
        power := t.power })) ∧
  (∀ (die : Nat) (s : State),
    (die ∉ liveDies s → Idle (.overCurrentAlarm die) s) ∧
    (die ∈ liveDies s → ∃ t, exec (.overCurrentAlarm die) s = .next t ∧
      (∀ e, e ∈ t.power.throttled ↔ e = die ∨ e ∈ s.power.throttled) ∧
      t = { s with power := { s.power with
        throttled := t.power.throttled
        therm := s.power.therm ||| 4 } })) ∧
  (∀ s : State,
    Idle (.coolantOutOfLimits false false) s ∧
    (∀ hot slow, (hot || slow) = true → OnlyPower (.coolantOutOfLimits hot slow) { s.power with
      therm := s.power.therm ||| (if hot then 1 else 0) ||| (if slow then 2 else 0)
      coolantSince := some (s.power.coolantSince.getD s.tick) } s) ∧
    OnlyPower .coolantWithinLimits { s.power with
      coolantSince := none
      budgetCut := 0 } s ∧
    (s.power.coolantSince = none → Idle .coolantBudgetStep s) ∧
    (∀ since, s.power.coolantSince = some since →
      (since.toNat + 1000000 * (s.power.budgetCut + 2) ≤ s.tick.toNat →
        OnlyPower .coolantBudgetStep { s.power with budgetCut := s.power.budgetCut + 1 } s) ∧
      (s.tick.toNat < since.toNat + 1000000 * (s.power.budgetCut + 2) → Idle .coolantBudgetStep s)) ∧
    (s.power.active = 1 → burstTicksLeft s = 0 →
      OnlyPower .burstExhausted { s.power with burstBarred := true } s) ∧
    ((s.power.active ≠ 1 ∨ burstTicksLeft s ≠ 0) → Idle .burstExhausted s)) ∧
  (∀ (v : Word) (s : State),
    (v.toNat % 4 = 3 → Idle (.profile v) s) ∧
    (v.toNat % 4 ≠ 3 → OnlyPower (.profile v) { s.power with profile := v &&& 3 } s) ∧
    OnlyPower (.thermClear v) { s.power with therm := s.power.therm &&& ~~~v } s) ∧
  (∀ (lane : LaneId) (s : State),
    (∃ t, exec (.arm lane) s = .next t ∧ (∀ l, l ∈ t.boot.armed ↔ l = lane ∨ l ∈ s.boot.armed) ∧
      t = { s with boot := { s.boot with armed := t.boot.armed } }) ∧
    ∃ t, exec (.disarm lane) s = .next t ∧ (∀ l, l ∈ t.boot.armed ↔ l ≠ lane ∧ l ∈ s.boot.armed) ∧
      t = { s with boot := { s.boot with armed := t.boot.armed } }) ∧
  (∀ (st : StrandId) (s : State),
    (findStrand s st = none → Idle (.halt st) s ∧ Idle (.debugResume st) s ∧ Idle (.debugRead st) s ∧
      (∀ f, Idle (.step st f) s) ∧ ∀ bs, Idle (.debugWrite st bs) s) ∧
    (∀ x, findStrand s st = some x →
      (∃ t, exec (.halt st) s = .next t ∧ StrandBecomes st { x with
        halted := true
        cur := { x.cur with slot := false }
        frags := x.frags.map (fun f => { f with slot := false }) } s t) ∧
      (x.halted = false → Idle (.debugResume st) s ∧ Idle (.debugRead st) s ∧ (∀ f, Idle (.step st f) s) ∧
        ∀ bs, Idle (.debugWrite st bs) s) ∧
      (x.halted = true →
        (x.reports = [] → ∃ t, exec (.debugResume st) s = .next t ∧ StrandBecomes st { x with
          halted := false
          stepping := none } s t) ∧
        (∀ r, x.reports = [r] → (x.frag? r.frag).isSome = true → toHandler r.cause = true → handlerActive x = false →
          posAddr (tvecOf x) ≠ 0 → idsDiffer s →
          ∃ t, exec (.debugResume st) s = .next t ∧ t.me.who = x.who ∧ t.me.halted = false ∧ t.me.stepping = none ∧
            t.me.reports = [] ∧ t.me.cur.id = r.frag ∧ t.me.handler = some r.frag ∧ t.me.cur.hdr = posAddr (tvecOf x) ∧
            pair t.me.trap.tepc t.me.trap.tepch = r.epc ∧ pair t.me.trap.taddr t.me.trap.taddrh = r.addr ∧
            t.me.trap.tcause.toNat % 256 = causeCode r.cause ∧ t.me.regs = x.regs ∧ t.mem = s.mem) ∧
        (∀ n g, x.stepping = some n → x.frag? n = some g → g.wait = .ready → ∀ f, Idle (.step st f) s) ∧
        (∀ f g, x.frag? f = some g →
          (x.stepping = none ∨ ∃ n, x.stepping = some n ∧ ∀ h, x.frag? n = some h → h.wait ≠ .ready) →
          (g.wait ≠ .ready ∨ (∃ r ∈ x.reports, r.frag = f) → Idle (.step st f) s) ∧
          (g.wait = .ready → (∀ r ∈ x.reports, r.frag ≠ f) → idsDiffer s → ∃ t, exec (.step st f) s = .next t ∧ t.me.who = x.who ∧ t.me.cur = g ∧
            t.me.stepping = some f ∧ t.me.halted = true ∧ t.me.regs = x.regs ∧
            (∀ id, id ≠ st → findStrand t id = findStrand s id) ∧
            t = { s with
              me := t.me
              others := t.others })) ∧
        (∃ bs, exec (.debugRead st) s = .next { s with
            failure := { s.failure with drowsy := s.failure.drowsy.filter (fun d => d.1 != x.place.lane) }
            outbox := s.outbox ++ [.debugImage st bs x.reports] } ∧
          imageFields (imageWord bs) x ∧ leNat (bs.take 2) = 1 ∧
          ∀ i f, x.all[i]? = some f → imageWord bs (0x100 + 48 * i + 8) = f.mask) ∧
        (∀ bs, imageBad x.place.isCtl bs = true → Idle (.debugWrite st bs) s) ∧
        (∀ bs, imageBad x.place.isCtl bs = false → 0x100 ≤ bs.length → ∃ t y, exec (.debugWrite st bs) s = .next t ∧
          findStrand t st = some y ∧ imageFields (fun off => imageWord bs off &&& heldBits off) y ∧ y.who = x.who ∧ y.place = x.place ∧
          y.halted = true ∧ y.allotV = leNat ((bs.drop 8).take 4) % 2 ^ 7 ∧
          (∀ i : Fin 64, i.val < y.allotV →
            y.regs[i] = bodyOf (tagOf (numAt bs 16 16) i.val) (slice bs (bodyAt bs i.val) 128)) ∧
          (∀ id, id ≠ st → findStrand t id = findStrand s id) ∧
          t = { s with
            me := t.me
            others := t.others
            engines := { s.engines with controls := t.engines.controls }
            opLog := t.opLog
            fresh := s.fresh + 1 } ∧
          (x.place.isCtl = false → t.engines.controls = s.engines.controls))))) ∧
  (∀ (addr size : Nat) (v : DWord) (s : State), (size ≠ 4 ∧ size ≠ 8 ∨ addr % size ≠ 0 ∨ isMmio s addr = false) →
    Idle (.registerWrite addr size v) s) ∧
  (∀ (q : Nat) (v : DWord) (s : State), q < 16 →
    let at_ := 0x7F000000000 + 4096 * q
    (∃ t, exec (.registerWrite at_ 8 v) s = .next t ∧
      QueueBecomes q { queueAt s q with base := v &&& 0xFFFFFFFFFFFC0 } s t ∧
      t = { s with work := { s.work with queues := t.work.queues } }) ∧
    (∃ t, exec (.registerWrite (at_ + 8) 4 v) s = .next t ∧
      QueueBecomes q { queueAt s q with size := v.setWidth 32 &&& 31 } s t ∧
      t = { s with work := { s.work with queues := t.work.queues } }) ∧
    WriteIs (at_ + 0x10) 4 v (.launchDoorbell (BitVec.ofNat 4 q) (v.setWidth 32)) s ∧
    Idle (.registerWrite (at_ + 0x18) 4 v) s ∧
    (v.setWidth 32 = (0 : Word) → WriteIs (at_ + 0x20) 4 v (.qerrClear (BitVec.ofNat 4 q)) s) ∧
    (v.setWidth 32 ≠ (0 : Word) → Idle (.registerWrite (at_ + 0x20) 4 v) s)) ∧
  (∀ (i : Nat) (v : DWord) (s : State), i < 2048 → tablesRise s = true →
    let at_ := 0x7F000010000 + 32 * i
    let x := leaseAt s i
    (x.state = .offered → v.toNat % 8 = 0 → WriteIs at_ 8 v (.leaseWithdraw i) s) ∧
    (x.state = .granted → v.toNat % 8 = 3 → WriteIs at_ 8 v (.leaseRecall i) s) ∧
    (x.state = .free →
      let y := { x with
        extent := v.toNat / 2 ^ 16 % 2 ^ 11
        borrower := v.toNat / 2 ^ 32 % 2 ^ 9 }
      (v.toNat % 8 = 0 → LeaseBecomes (.registerWrite at_ 8 v) i y none s) ∧
      (v.toNat % 8 = 1 → y.extent < 1536 → extentNamed s y.extent = false → s.lending.synced = true →
        LeaseBecomes (.registerWrite at_ 8 v) i { y with state := .offered }
          (some (cobblerPkg s, .offer i y.extent)) s) ∧
      (v.toNat % 8 = 1 → (1536 ≤ y.extent ∨ extentNamed s y.extent = true ∨ s.lending.synced = false) →
        Idle (.registerWrite at_ 8 v) s)) ∧
    (x.state ≠ .free → ∀ k, k ∈ [8, 16, 24] → Idle (.registerWrite (at_ + k) 8 v) s)) ∧
  (∀ (i : Nat) (v : DWord) (s : State), i < 4096 → tablesRise s = true →
    let at_ := 0x7F000020000 + 32 * i
    let x := borrowAt s i
    (x.state = .requested → v.toNat % 16 = 0 → WriteIs at_ 8 v (.requestCancel i) s) ∧
    (x.state = .active → v.toNat % 16 = 5 → WriteIs at_ 8 v (.borrowRelease i) s) ∧
    (x.state = .expired → v.toNat % 16 = 2 → WriteIs at_ 8 v (.borrowReactivate i) s) ∧
    ((x.state = .expired ∨ x.state = .lost) → v.toNat % 16 = 0 → WriteIs at_ 8 v (.borrowFree i) s) ∧
    (x.state = .free → v.toNat % 16 = 0 → BorrowBecomes (.registerWrite at_ 8 v) i { x with
      staged := v.getLsbD 4
      lender := v.toNat / 2 ^ 16 % 2 ^ 9
      extent := v.toNat / 2 ^ 32 % 2 ^ 11 } false none s) ∧
    (x.state = .free → v.toNat % 16 = 1 → s.lending.synced = true → BorrowBecomes (.registerWrite at_ 8 v) i { x with
      state := .requested
      staged := v.getLsbD 4
      lender := v.toNat / 2 ^ 16 % 2 ^ 9
      extent := v.toNat / 2 ^ 32 % 2 ^ 11 } false (some (cobblerPkg s, .request i)) s) ∧
    (x.state = .free → v.toNat % 16 = 1 → s.lending.synced = false → Idle (.registerWrite at_ 8 v) s) ∧
    (x.state ≠ .free → ∀ k, k ∈ [8, 16, 24] → Idle (.registerWrite (at_ + k) 8 v) s)) ∧
  (∀ (die hart : Nat) (v : DWord) (s : State), die < 16 → hart < 64 →
    let at_ := 0x7F000040000 + 8192 * die
    (∃ t, exec (.registerWrite at_ 4 v) s = .next t ∧ vget t.mem.wsel die 0 = v.setWidth 32 &&& 0xFFF ∧
      t = { s with mem := { s.mem with wsel := t.mem.wsel } }) ∧
    WriteIs (at_ + 0x818 + 32 * hart) 8 v (.hubWatchArm die hart v) s ∧
    (v = 0 → WriteIs (at_ + 0x1000 + 32 * hart) 8 v (.hubReplyClear die hart) s) ∧
    (v ≠ 0 → Idle (.registerWrite (at_ + 0x1000 + 32 * hart) 8 v) s) ∧
    (tablesRise s = true →
      let becomes := fun (off size : Nat) (h : HubSlot) => ∃ t, exec (.registerWrite (at_ + off + 32 * hart) size v) s = .next t ∧
        hubSlot t die hart = h ∧ (∀ d k, hubKey d k ≠ hubKey die hart → hubSlot t d k = hubSlot s d k) ∧
        t = { s with mem := { s.mem with hub := t.mem.hub } }
      let h := hubSlot s die hart
      becomes 0x800 8 { h with hcmp := v } ∧ becomes 0x808 8 { h with hdl := v } ∧
        becomes 0x810 4 { h with hctl := v.setWidth 32 &&& 15 } ∧ becomes 0x1008 8 { h with hmsia := v } ∧
        becomes 0x1010 4 { h with hmsid := v.setWidth 32 })) ∧
  (∀ (v : DWord) (s : State),
    WriteIs 0x7F000100000 4 v (.profile (v.setWidth 32)) s ∧ WriteIs 0x7F000100020 4 v (.thermClear (v.setWidth 32)) s ∧
    ∀ k, k ∈ [8, 0x10, 0x18] → Idle (.registerWrite (0x7F000100000 + k) 4 v) s)

/-! ### The machine after reset, encodings, and what a step does -/

/-- 02 R23; 06 R162; 08 R238; 09 R254, R292; 11 R315, R317; 13 R339, R340, R345: what is there after reset as far as the
spec gives it, what a strand, a context and a table entry start with, and the canonical form of what State lists. Model's
choices: the zeros of scratchpads, slices and the pool (log 4). -/
def Obligations.ResetState : Prop :=
  (∀ (who : Identity) (place : Place) (v g : Nat) (at_ : BitVec 52),
    let x := Strand.entry who place v g at_
    (∀ i : Fin 64, x.regs[i] = .u 0) ∧ (∀ i : Fin 7, x.preds[i] = 0) ∧ (∀ i : Fin 12, x.binds[i] = none) ∧
    (∀ i : Fin 4, ∀ th, (x.cur.latches[i]).at th = 0) ∧ x.cur.mask = BitVec.allOnes 32 ∧ x.cur.hdr = at_ ∧ x.cur.widx = 0 ∧
    x.cur.parent = none ∧ x.cur.wait = .ready ∧ x.frags = [] ∧ x.serials = [] ∧ x.handler = none ∧
    x.fcr = 0 ∧ x.fflags = 0 ∧ x.ftrapen = 0 ∧ x.lr = 0 ∧ x.qstatus = 0 ∧ x.wdl = 0 ∧ x.wdlh = 0 ∧ x.psf = 0 ∧
    x.trap.tvec = 0 ∧ x.trap.tvech = 0 ∧ x.trap.tcause = 0 ∧ x.trap.taddr = 0 ∧ x.trap.taddrh = 0 ∧ x.trap.tepc = 0 ∧
    x.trap.tepch = 0 ∧ x.trap.emword = 0 ∧ x.trap.emop = 0 ∧ x.trap.emfn = 0 ∧ x.trap.emd = 0 ∧ x.trap.emimm = 0 ∧
    x.trap.emclause = 0) ∧
  (∀ k, tget? State.reset.mem.watches k = none) ∧
  State.reset.boot.stage = 0 ∧ State.reset.boot.failed = none ∧ State.reset.boot.pkg = none ∧ State.reset.tick = 0 ∧
  (∀ i : Fin 5, State.reset.boot.measures[i] = 0) ∧
  State.reset.power.profile = 0 ∧ State.reset.power.grant = 0 ∧ lowestClock State.reset = 0 ∧
  burstLeft State.reset = 30000000 ∧ State.reset.power.therm = 0 ∧
  strandsOf State.reset = [] ∧ State.reset.work.opened = false ∧ State.reset.work.launches = [] ∧
  (∀ n, n < 256 → contextAt State.reset n = AddrContext.start n ∧
    (contextAt State.reset n).kctx = if n = 0 then 1 else 0) ∧
  State.reset.kernel.pksel = 0 ∧ State.reset.kernel.fqprod = 0 ∧ State.reset.kernel.fqcons = 0 ∧
  State.reset.kernel.fqsize = 0 ∧
  (∀ i, (leaseAt State.reset i).state = .free ∧ (leaseAt State.reset i).scrubbing = false) ∧
  (∀ i, (borrowAt State.reset i).state = .free) ∧
  (∀ key, ∀ i : Fin 32, (controlAt State.reset key).tiles[i].desc = 0) ∧
  (∀ a, memByte State.reset.mem.bytes a = 0 ∧ memByte State.reset.mem.scratch a = 0) ∧
  memoriesWf State.reset = true ∧ tablesRise State.reset = true

/-- 06 R151, R153, R158–R161: words written out field by field, highest bits first, and the instructions they stand for. -/
def Obligations.WordsDecode : Prop :=
  decodeWords ((0x01 : BitVec 6) ++ (1 : BitVec 6) ++ (0 : BitVec 1) ++ (0x02 : BitVec 7) ++ (0x44 : BitVec 7)
    ++ (0 : BitVec 5)) none = .ok (.iadd 1 false (.reg 2) (.queue 4)) ∧
  decodeWords ((0x03 : BitVec 6) ++ (9 : BitVec 6) ++ (1 : BitVec 1) ++ (0x50 : BitVec 7) ++ (0x6F : BitVec 7)
    ++ (29 : BitVec 5)) none = .ok (.imad 9 true .tid (.int 15) (.latch 1)) ∧
  decodeWords ((0x06 : BitVec 6) ++ (5 : BitVec 6) ++ (0 : BitVec 1) ++ (0x41 : BitVec 7) ++ (0xFFF : BitVec 12)) none =
    .ok (.iaddi 5 false (.latch 1) 0xFFF) ∧
  decodeWords ((0x0B : BitVec 6) ++ (7 : BitVec 6) ++ (0 : BitVec 1) ++ (0 : BitVec 19)) (some 0x12345678) =
    .ok (.lit 7 false 0x12345678) ∧
  decodeWords ((0x0D : BitVec 6) ++ (3 : BitVec 3) ++ (1 : BitVec 2) ++ (0 : BitVec 2) ++ (0x01 : BitVec 7)
    ++ (0x70 : BitVec 7) ++ (0x12 : BitVec 5)) none = .ok (.ncmp 3 .and (.reg 1) (.neg 0) .lt) ∧
  decodeWords ((0x20 : BitVec 6) ++ (2 : BitVec 3) ++ (1 : BitVec 1) ++ (0x3FFF : BitVec 14) ++ (0x80 : BitVec 8)) none =
    .ok (.brAll 2 true 0x3FFF) ∧
  decodeWords ((0x28 : BitVec 6) ++ (6 : BitVec 6) ++ (0 : BitVec 1) ++ (0x0A : BitVec 7) ++ (4 : BitVec 3)
    ++ (0 : BitVec 3) ++ (33 : BitVec 6)) none = .ok (.ld 6 (.glob 10) .w 33) ∧
  decodeWords ((0x2E : BitVec 6) ++ (8 : BitVec 6) ++ (0x0C : BitVec 7) ++ (0x61 : BitVec 7) ++ (6 : BitVec 3)
    ++ (0 : BitVec 3)) none = .ok (.aadd 8 12 (.int 1) .sys) ∧
  decodeWords ((0x35 : BitVec 6) ++ (0 : BitVec 6) ++ (0 : BitVec 1) ++ (0x03 : BitVec 7) ++ (0x25 : BitVec 7)
    ++ (2 : BitVec 5)) none = .ok (.qbind 5 (.reg 3) false true) ∧
  decodeWords ((0x37 : BitVec 6) ++ (3 : BitVec 4) ++ (17 : BitVec 5) ++ (4 : BitVec 5) ++ (8 : BitVec 4) ++ (9 : BitVec 4)
    ++ (2 : BitVec 2) ++ (1 : BitVec 1) ++ (0 : BitVec 1))
    (some ((11 : BitVec 6) ++ (2 : BitVec 2) ++ (12 : BitVec 6) ++ (3 : BitVec 2) ++ (0 : BitVec 1) ++ (0x7F : BitVec 7)
      ++ (1 : BitVec 2) ++ (2 : BitVec 4) ++ (0 : BitVec 2))) =
    .ok (.mmat ⟨3, 17, 4, .f16, .bf16, true, 11, 2, 12, 3, false⟩ 0x7F true 2) ∧
  (∀ l, decodeWords 0 l = .error .reservedMajor) ∧
  decodeWords ((0x24 : BitVec 6) ++ (0 : BitVec 6) ++ (0 : BitVec 1) ++ (1 : BitVec 7) ++ (0 : BitVec 7) ++ (0 : BitVec 5)) none =
    .error .unusedField

/-- 06 R151–R163: every well-formed instruction with an encoding is what the decoder reads from its words, in words and in
bytes, with every operand at every value that the encoding admits. -/
def Obligations.DecodeEncode : Prop :=
  ∀ i : Instr, wellFormed i = true → hasEncoding i = true →
    decodeWords ((encodeWords i).headD 0) (encodeWords i)[1]? = .ok i ∧
    (∀ rest, decode (encode i ++ rest) = .ok (i, rest)) ∧
    (encodeWords i).length = if isTwoWord ((encodeWords i).headD 0) then 2 else 1

namespace Sys2Proof.Claims

open Sys2Proof Sys2Proof.Machine

/-- The code word at a virtual address is `w`: the fetch is translated, without a wait for a home, and allowed, and the bytes stand in this package's
memory, outside staging frames, with no store to them on its way. -/
def WordAt (s : State) (va : BitVec 52) (w : Word) : Prop :=
  translates s (va.setWidth 64) = true ∧
  ∃ fab x kind, resolve s s.me.place.agent s.me.who.context .fetch 4 (va.setWidth 64) = .ok fab x kind ∧
    isLocal s fab = true ∧ peekRefused s fab 4 = false ∧ homeHeld s (fabLocal fab) 4 = false ∧ leafKind x ≠ 4 ∧ poisonedAt s (fabLocal fab) 4 = false ∧
    (∀ o ∈ s.mem.ops, o.what.isStore = true → ∀ a ∈ o.accs, a.accepted = true → meets a.fab a.size fab 4 = false) ∧
    memNat s.mem.bytes (fabLocal fab) 4 = w.toNat

/-- The words at the pc decode to `r`; the clause must hold the second word of a two-word instruction (06 R143). -/
def Decodes (s : State) (ws : List Word) (r : Except Reject Instr) : Prop :=
  ∃ w, WordAt s s.me.cur.wordAddr w ∧
    ((isTwoWord w = false ∨ clauseLen s.me.cur.head ≤ s.me.cur.widx) ∧ ws = [w] ∧ decodeWords w none = r ∨
      isTwoWord w = true ∧ s.me.cur.widx < clauseLen s.me.cur.head ∧
        ∃ l, WordAt s (s.me.cur.wordAddr + 4) l ∧ ws = [w, l] ∧ decodeWords w (some l) = r)

end Sys2Proof.Claims

/-- 06 R142, R143, R157; 14 R346, R370: a step runs the instruction that stands at the pc of the fragment in the issue slot,
or raises ILLEGAL_ENCODING for its words, and then time passes. Whether the fragment comes first is the agenda's choice; with
nothing chosen it goes first while it moves. That agenda and the passing of time are the model's (log 1, 2). Model's choices:
room in the hidden queues, acknowledged flits, messages that wait for room on a link (15 R391), what a tick brings about, when a
STEP is over, and that a fragment which has made a refused instruction once more takes up again where it had come to (log 61,
82, 90, 89, 35). -/
def Obligations.StepRunsDecoded : Prop :=
  (∀ (s : State) (ws : List Word) (i : Instr), atInstr s = true → s.me.cur.redo = [] → Decodes s ws (.ok i) →
    (∀ rest t, s.agenda = none :: rest → exec i { s with agenda := rest } = .next t → step s = .next (elapse (endStep { s with agenda := rest } t))) ∧
    (∀ t, s.agenda = [] → exec i s = .next t → moved s (endStep s t) = true → step s = .next (elapse (endStep s t)))) ∧
  (∀ (s : State) (ws : List Word) (r : Reject) (rest : List (Option Instr)), atInstr s = true → s.me.cur.redo = [] → Decodes s ws (.error r) →
    s.agenda = none :: rest →
    step s = .next (elapse (endStep { s with agenda := rest } (raiseBefore ws
      { cause := .illegalEncoding, threads := s.me.cur.mask } { s with agenda := rest })))) ∧
  (∀ (s : State) (rest : List (Option Instr)), s.agenda = none :: rest → atInstr s = false → s.me.cur.redo = [] →
    step s = .next (elapse (endStep { s with agenda := rest } (beginClause { s with agenda := rest })))) ∧
  (∀ (s : State) (r : Redo) (l : List Redo) (rest : List (Option Instr)), s.agenda = none :: rest → s.me.cur.redo = r :: l →
    s.me.here = true → s.me.cur.wait = .ready → s.me.cur.begun = .no → s.me.mayGo s.me.cur.id = true →
    ((s.me.cur.hdr, s.me.cur.widx) ≠ r.at_ → (s.me.cur.hdr, s.me.cur.widx) = r.next →
      ∃ t, step s = .next (elapse t) ∧ t.me.cur.hdr = r.back.1 ∧ t.me.cur.widx = r.back.2 ∧ t.me.cur.redo = l ∧
        t.me.regs = s.me.regs ∧ t.mem = s.mem)) ∧
  (∀ (s t : State) (i : Instr) (rest : List (Option Instr)), s.agenda = some i :: rest →
    (hasEncoding i = false → exec i { s with agenda := rest } = .next t → step s = .next (elapse t)) ∧
    (hasEncoding i = true → step s = .next (elapse { s with agenda := rest }))) ∧
  (∀ s t : State,
    (t.me.halted = false → endStep s t = t) ∧
    (t.me.halted = true → atInstr s = true → moved s t = true → endStep s t = { t with me := { t.me with
      stepping := none
      cur := { t.me.cur with slot := false } } }) ∧
    (t.me.halted = true → t.me.stepping ≠ none → (atInstr s = false ∨ moved s t = false) → endStep s t = t)) ∧
  (∀ s : State,
    (s.lending.heldUntil = none → elapse s = dueNow { s with
      tick := s.tick + BitVec.ofNat 64 (Config.elapsed s.fresh)
      fresh := s.fresh + 1
      links := (flushQueued (ackLinks s)).links
      outbox := (flushQueued (ackLinks s)).outbox
      engines := { s.engines with noRoom := Config.noRoom s.fresh } }) ∧
    (∀ h, s.lending.heldUntil = some h → h.toNat + Config.elapsed s.fresh < s.tick.toNat → elapse s = dueNow { s with
      fresh := s.fresh + 1
      links := (flushQueued (ackLinks s)).links
      outbox := (flushQueued (ackLinks s)).outbox
      engines := { s.engines with noRoom := Config.noRoom s.fresh }
      lending := { s.lending with heldUntil := some (BitVec.ofNat 64 (h.toNat + Config.elapsed s.fresh)) } }) ∧
    (∀ i : Fin 18, (portAt (ackLinks s) i.val).buffer <:+ (portAt s i.val).buffer) ∧
    (s.links.queued = [] → flushQueued s = s) ∧
    (∀ l m, s.links.queued = l ++ [m] →
      let s1 := { s with links := { s.links with queued := l } }
      Sends m.1 m.2 (flushQueued s1) (flushQueued s) ∧ SendFrame (flushQueued s1) (flushQueued s)))

/-- Every step keeps the four memories in canonical form and the numbered tables in order (log 4). -/
def Obligations.StepKeepsForms : Prop :=
  ∀ s t : State, step s = .next t →
    (memoriesWf s = true → memoriesWf t = true) ∧ (tablesRise s = true → tablesRise t = true)
end

