-- ==== Sys2Proof/Laws/Tables.lean ====
section
/-! SUPPORT. Tables, memory and vectors: a read after a write, and the canonical form kept. -/

namespace Sys2Proof.Laws

open Sys2Proof Sys2Proof.Machine

variable {α : Type}

/-! ### Vectors -/

theorem vget_vset_same {n : Nat} (v : Vector α n) (i : Nat) (x d : α) (h : i < n) : vget (vset v i x) i d = x := by
  simp [vget, vset, h]

theorem vget_vset_other {n : Nat} (v : Vector α n) (i j : Nat) (x d : α) (h : i ≠ j) :
    vget (vset v i x) j d = vget v j d := by
  unfold vget vset
  split
  · split
    · simp [h]
    · rfl
  · rfl

/-! ### Tables -/

theorem tget?_tset_other (t : Tbl α) (n m : Nat) (x : Option α) (h : n ≠ m) : tget? (tset t n x) m = tget? t m := by
  induction t with
  | nil => cases x <;> simp [tset, tget?, h]
  | cons p r ih =>
    obtain ⟨k, v⟩ := p
    simp only [tset]
    split
    · cases x <;> simp [tget?, h]
    · split
      · subst_vars; cases x <;> simp [tget?, h]
      · simp [tget?, ih]

theorem tget_tset_other (t : Tbl α) (d : α) (n m : Nat) (x : Option α) (h : n ≠ m) :
    tget (tset t n x) d m = tget t d m := by
  simp [tget, tget?_tset_other t n m x h]

theorem tget_tput_other [DecidableEq α] (t : Tbl α) (d e v : α) (n m : Nat) (h : n ≠ m) :
    tget (tput t d n v) e m = tget t e m := tget_tset_other t e n m _ h

theorem tget?_tset_some (t : Tbl α) (n : Nat) (y : α) : tget? (tset t n (some y)) n = some y := by
  induction t with
  | nil => simp [tset, tget?]
  | cons p r ih =>
    obtain ⟨k, v⟩ := p
    simp only [tset]
    split
    · simp [tget?]
    · split
      · simp [tget?]
      · rename_i h1 h2
        simp [tget?, ih, Ne.symm h2]

variable [DecidableEq α]

/-- A lower bound below every key of a table keeps a key at or under it unlisted. -/
theorem tget?_none_of_wfFrom (d : α) (t : Tbl α) (m n : Nat) (h : tblWfFrom d (some m) t = true) (hn : n ≤ m) :
    tget? t n = none := by
  induction t generalizing m with
  | nil => rfl
  | cons p r ih =>
    obtain ⟨k, v⟩ := p
    simp only [tblWfFrom, Bool.and_eq_true, decide_eq_true_eq] at h
    obtain ⟨⟨h1, -⟩, h3⟩ := h
    simp only [tget?]
    rw [if_neg (by omega)]
    exact ih k h3 (by omega)

theorem tblWfFrom_weaken (d : α) (t : Tbl α) (m n : Nat) (h : tblWfFrom d (some m) t = true) (hn : n ≤ m) :
    tblWfFrom d (some n) t = true := by
  cases t with
  | nil => rfl
  | cons p r =>
    obtain ⟨k, v⟩ := p
    simp only [tblWfFrom, Bool.and_eq_true, decide_eq_true_eq] at h ⊢
    exact ⟨⟨by omega, h.1.2⟩, h.2⟩

/-- Setting an entry above a lower bound keeps the form above that bound. -/
theorem tset_wfFrom (d : α) (t : Tbl α) (lo : Option Nat) (n : Nat) (x : Option α) (hx : x ≠ some d)
    (hlo : ∀ m, lo = some m → m < n) (h : tblWfFrom d lo t = true) : tblWfFrom d lo (tset t n x) = true := by
  induction t generalizing lo with
  | nil =>
    cases x with
    | none => rfl
    | some y =>
      have hy : y ≠ d := fun e => hx (by rw [e])
      cases lo with
      | none => simp [tset, tblWfFrom, hy]
      | some m => simp [tset, tblWfFrom, hy, hlo m rfl]
  | cons p r ih =>
    obtain ⟨k, v⟩ := p
    simp only [tblWfFrom, Bool.and_eq_true] at h
    obtain ⟨⟨h1, h2⟩, h3⟩ := h
    simp only [tset]
    split
    · rename_i hk
      cases x with
      | none => simp [tblWfFrom, h1, h2, h3]
      | some y =>
        have hy : y ≠ d := fun e => hx (by rw [e])
        have h2' : v ≠ d := by simpa using h2
        cases lo with
        | none => simp [tblWfFrom, hy, h2', h3, hk]
        | some m => simp [tblWfFrom, hy, h2', h3, hk, hlo m rfl]
    · split
      · subst_vars
        cases x with
        | none =>
          cases lo with
          | none =>
            cases r with
            | nil => rfl
            | cons q r' =>
              obtain ⟨k', v'⟩ := q
              simp only [tblWfFrom, Bool.and_eq_true] at h3 ⊢
              exact ⟨⟨trivial, h3.1.2⟩, h3.2⟩
          | some m => exact tblWfFrom_weaken d r _ m h3 (by have := hlo m rfl; omega)
        | some y =>
          have hy : y ≠ d := fun e => hx (by rw [e])
          simp [tblWfFrom, h1, hy, h3]
      · rename_i hk hne
        simp only [tblWfFrom, h1, h2, Bool.true_and, Bool.and_self]
        exact ih (some k) (by intro m hm; cases hm; omega) h3

/-- Writing a table keeps its canonical form. -/
theorem tput_wf (d : α) (t : Tbl α) (n : Nat) (v : α) (h : tblWf d t = true) : tblWf d (tput t d n v) = true := by
  apply tset_wfFrom d t none n _ _ _ h
  · split
    · simp
    · rename_i hv; simpa using hv
  · simp

/-- A read after a write of a canonical table gives what was written. -/
theorem tget_tput_same (d : α) (t : Tbl α) (n : Nat) (v : α) (h : tblWf d t = true) : tget (tput t d n v) d n = v := by
  unfold tput
  split
  · subst_vars
    unfold tget
    have key : ∀ (lo : Option Nat) (t : Tbl α), tblWfFrom v lo t = true → tget? (tset t n none) n = none := by
      intro lo t
      induction t generalizing lo with
      | nil => intro _; rfl
      | cons p r ih =>
        obtain ⟨k, w⟩ := p
        intro h
        simp only [tblWfFrom, Bool.and_eq_true] at h
        simp only [tset]
        split
        · rename_i hk
          simp only [tget?]
          rw [if_neg (by omega)]
          exact tget?_none_of_wfFrom v r k n h.2 (by omega)
        · split
          · subst_vars
            exact tget?_none_of_wfFrom v r _ _ h.2 (Nat.le_refl _)
          · rename_i hk hne
            simp only [tget?]
            rw [if_neg (by omega)]
            exact ih (some k) h.2
    rw [key none t h]
    rfl
  · simp [tget, tget?_tset_some]

/-! ### Memory -/

theorem memByte_memSet_other (m : Memory) (a b : Nat) (x : Byte) (h : a ≠ b) : memByte (memSet m a x) b = memByte m b :=
  tget_tput_other m 0 0 x a b h

theorem memByte_memSet_same (m : Memory) (a : Nat) (x : Byte) (h : m.wf = true) : memByte (memSet m a x) a = x :=
  tget_tput_same 0 m a x h

theorem memSet_wf (m : Memory) (a : Nat) (x : Byte) (h : m.wf = true) : (memSet m a x).wf = true := tput_wf 0 m a x h

/-- A write leaves every byte outside it as it was. -/
theorem memByte_memWrite_other (m : Memory) (a : Nat) (l : List Byte) (b : Nat) (h : b < a ∨ a + l.length ≤ b) :
    memByte (memWrite m a l) b = memByte m b := by
  induction l generalizing m a with
  | nil => rfl
  | cons x r ih =>
    simp only [List.length_cons] at h
    rw [memWrite, ih _ _ (by omega), memByte_memSet_other _ _ _ _ (by omega)]

/-- A write keeps the canonical form. -/
theorem memWrite_wf (m : Memory) (a : Nat) (l : List Byte) (h : m.wf = true) : (memWrite m a l).wf = true := by
  induction l generalizing m a with
  | nil => exact h
  | cons x r ih => exact ih _ _ (memSet_wf m a x h)

/-- A read after a write to the same place gives what was written. -/
theorem memRead_memWrite_same (m : Memory) (a : Nat) (l : List Byte) (h : m.wf = true) :
    memRead (memWrite m a l) a l.length = l := by
  induction l generalizing m a with
  | nil => rfl
  | cons x r ih =>
    simp only [List.length_cons, memWrite, memRead]
    rw [ih _ _ (memSet_wf m a x h), memByte_memWrite_other _ _ _ _ (by omega), memByte_memSet_same m a x h]

theorem leBytes_length (n x : Nat) : (leBytes n x).length = n := by
  induction n generalizing x with
  | zero => rfl
  | succ n ih => simp [leBytes, ih]

end Sys2Proof.Laws
end

