-- ==== Sys2Proof/Laws/Issue.lean ====
section
/-! SUPPORT. What the shared operations of issue and retirement do: one lemma for each, cited instead of unfolding it. -/

namespace Sys2Proof.Laws

open Sys2Proof Sys2Proof.Machine

/-! ### Issue -/

/-- The state in which an instruction that executes has its own effect. -/
def issued (n : Need) (s : State) : State := (n.uses ++ selRegs n.sels).foldl (fun s r => useReg r s) s

/-- An instruction that executes has its own effect on the values of its selectors. -/
theorem issue_executes (n : Need) (s : State) (k : List RegVal → State → State) (h : executes n s = true) :
    issue n s k = k (selVals s [] n.sels) (issued n s) := by
  simp only [executes, Bool.and_eq_true, Bool.not_eq_true', beq_iff_eq, bne_iff_ne, Option.isNone_iff_eq_none] at h
  obtain ⟨⟨⟨⟨⟨⟨⟨⟨h1, h2⟩, h3⟩, h4⟩, h5⟩, h6⟩, h7⟩, h8⟩, h9⟩ := h
  have h4' : ¬ s.me.cur.mask = 0#32 := h4
  have h6' : ¬ (n.releasing = true ∧ s.me.psf[31] = true) := by
    intro hh; simp [hh.1, BitVec.getLsbD_eq_getElem, hh.2] at h6
  simp [issue, h1, h2, h3, h4', h5, h6', h7, h8, h9, issued]

/-- Uses of registers bring them into the general store and do nothing else. -/
theorem useRegs_eq (l : List Reg) (s : State) :
    ∃ r, l.foldl (fun s r => useReg r s) s = { s with me := { s.me with resident := r } } := by
  induction l generalizing s with
  | nil => exact ⟨s.me.resident, rfl⟩
  | cons x l ih =>
    obtain ⟨r, h⟩ := ih (useReg x s)
    exact ⟨r, by rw [List.foldl_cons, h]; rfl⟩

/-- What issue does before the instruction's own effect. -/
theorem issued_eq (n : Need) (s : State) : ∃ r, issued n s = { s with me := { s.me with resident := r } } :=
  useRegs_eq (n.uses ++ selRegs n.sels) s

/-! ### Pops -/

theorem twoPow_getLsbD (n k : Nat) (h : n < 32) : (BitVec.ofNat 32 (2 ^ n)).getLsbD k = decide (n = k) := by
  rw [BitVec.getLsbD_ofNat, Nat.testBit_two_pow]
  by_cases hk : n = k
  · subst hk; simp [h]
  · simp [hk]

/-- One pop changes HEAD of its queue or its AB bit. -/
theorem commitPop_eq (x : QNo) (s : State) :
    ∃ q m, commitPop x s = { s with me := { s.me with qstatus := q }, mem := { s.mem with scratch := m } } ∧
      (∀ a, (∀ b, binding s.me x = some b → ∀ h, scratchAddr s s.me b.quadSpace b.offset.toNat = some h →
        a < h ∨ h + 4 ≤ a) → memByte m a = memByte s.mem.scratch a) ∧
      (∀ k, x.toNat ≠ k → q.getLsbD k = s.me.qstatus.getLsbD k) := by
  have hx : x.toNat < 32 := by have := x.isLt; omega
  unfold commitPop
  split
  · rename_i b hb
    split
    · refine ⟨s.me.qstatus ||| BitVec.ofNat 32 (2 ^ x.toNat), s.mem.scratch, rfl, fun _ _ => rfl, fun k hk => ?_⟩
      rw [BitVec.getLsbD_or, twoPow_getLsbD _ _ hx]; simp [hk]
    · unfold setQField setScratchWord
      split
      · rename_i h ha
        refine ⟨s.me.qstatus, _, rfl, fun a hd => ?_, fun _ _ => rfl⟩
        exact memByte_memWrite_other _ _ _ _ (by rw [leBytes_length]; exact hd b hb h ha)
      · exact ⟨_, _, rfl, fun _ _ => rfl, fun _ _ => rfl⟩
  · exact ⟨_, _, rfl, fun _ _ => rfl, fun _ _ => rfl⟩

/-- All pops of an instruction. -/
theorem pops_eq (l : List QNo) (s : State) :
    ∃ q m, l.foldl (fun s x => commitPop x s) s =
        { s with me := { s.me with qstatus := q }, mem := { s.mem with scratch := m } } ∧
      (∀ a, (∀ x ∈ l, ∀ b, binding s.me x = some b → ∀ h, scratchAddr s s.me b.quadSpace b.offset.toNat = some h →
        a < h ∨ h + 4 ≤ a) → memByte m a = memByte s.mem.scratch a) ∧
      (∀ k, (∀ x ∈ l, x.toNat ≠ k) → q.getLsbD k = s.me.qstatus.getLsbD k) := by
  induction l generalizing s with
  | nil => exact ⟨_, _, rfl, fun _ _ => rfl, fun _ _ => rfl⟩
  | cons x l ih =>
    obtain ⟨q, m, h, hm, hq⟩ := commitPop_eq x s
    obtain ⟨q', m', h', hm', hq'⟩ := ih (commitPop x s)
    refine ⟨q', m', by rw [List.foldl_cons, h', h], fun a ha => ?_, fun k hk => ?_⟩
    · rw [h] at hm'
      rw [hm' a (fun y hy => ha y (List.mem_cons_of_mem _ hy)), hm a (ha x List.mem_cons_self)]
    · rw [h] at hq'
      rw [hq' k (fun y hy => hk y (List.mem_cons_of_mem _ hy)), hq k (hk x List.mem_cons_self)]

/-! ### Retirement -/

/-- The fragment past an instruction. -/
theorem past_frag (ws : List Word) (f : Fragment) (_hr : f.wait = .ready) :
    pastPc ws.length f (f.past ws) ∧ (f.past ws).id = f.id ∧ (f.past ws).mask = f.mask ∧ (f.past ws).parent = f.parent
      ∧ (f.past ws).reconv = f.reconv ∧ (f.past ws).head = f.head ∧ (f.past ws).wait = .ready := by
  unfold pastPc Fragment.past Fragment.pastEnd
  by_cases h1 : clauseLen f.head < f.widx + ws.length <;> by_cases h2 : tfOf f.head <;>
    simp [h1, h2, Fragment.goto, Fragment.nextHeader]

/-- The latches of the fragment past an instruction. -/
theorem past_latches (ws : List Word) (f : Fragment) : (f.past ws).latches =
    if clauseLen f.head < f.widx + ws.length then Vector.replicate 4 (RegVal.u 0) else f.latches := by
  unfold Fragment.past Fragment.pastEnd
  by_cases h : clauseLen f.head < f.widx + ws.length <;> by_cases h2 : tfOf f.head <;> simp [h, h2, Fragment.goto]

/-- The fragment past an instruction that has retired. -/
theorem after_frag (n : Need) (f : Fragment) (hr : f.wait = .ready) :
    pastPc n.words.length f (f.after n) ∧ (f.after n).id = f.id ∧ (f.after n).mask = f.mask ∧ (f.after n).parent = f.parent
      ∧ (f.after n).reconv = f.reconv ∧ (f.after n).head = f.head ∧ (f.after n).wait = .ready := by
  unfold Fragment.after
  split
  · exact past_frag n.words f hr
  · exact past_frag n.words (f.endWindow _) hr

/-- The latches past an instruction that has retired: all zero at the clause's end; where the window ends, all but its own. -/
theorem after_latches (n : Need) (f : Fragment) (k : Nat) (hk : k < 4) (th : Fin 32) :
    (vget (f.after n).latches k (.u 0)).at th =
      if clauseLen f.head < f.widx + n.words.length then 0
      else if endsWindow n && !(n.dst.isSome && f.k % 4 == k) then 0
      else (vget f.latches k (.u 0)).at th := by
  have hz : ∀ j, (vget (Vector.replicate 4 (RegVal.u 0)) j (RegVal.u 0)).at th = 0 := by
    intro j; unfold vget; split <;> simp [RegVal.at]
  have he : endsWindow n = !((selPops n.sels).isEmpty && !n.blocking) := by
    unfold endsWindow; cases (selPops n.sels).isEmpty <;> cases n.blocking <;> rfl
  unfold Fragment.after
  rw [past_latches, he]
  by_cases hp : ((selPops n.sels).isEmpty && !n.blocking) = true
  · rw [if_pos hp, hp]
    split
    · exact hz k
    · simp
  · rw [if_neg hp]
    simp only [Bool.not_eq_true] at hp
    rw [hp]
    show RegVal.at (vget (if clauseLen f.head < f.widx + n.words.length then _ else _) k _) th = _
    split
    · exact hz k
    · cases hd : n.dst with
      | none => simp [Fragment.endWindow, vget, hk, RegVal.at]
      | some d =>
        by_cases hj : f.k % 4 = k
        · simp [Fragment.endWindow, vget, hk, hj]
        · simp [Fragment.endWindow, vget, hk, hj, RegVal.at]

/-- What the latches hold once an instruction has retired that wrote its result `v`, if it has one. -/
theorem latchesPast_of (n : Need) (v : Option (Fin 32 → Word)) (s t : State) (m : Vector RegVal 4) (o : List (Nat × Nat))
    (ht : t.me.cur.latches = (Fragment.after n { s.me.cur with latches := m, owed := o }).latches)
    (hm : match v with
      | some f => n.dst.isSome = true ∧ ∃ r : RegVal, m = vset s.me.cur.latches (s.me.cur.k % 4) r ∧ ∀ th, r.at th = f th
      | none => n.dst = none ∧ m = s.me.cur.latches) : LatchesPast n v s t := by
  intro k hk th
  rw [ht, after_latches _ _ _ hk]
  show (if _ then _ else if _ then _ else (vget m k (RegVal.u 0)).at th) = _
  by_cases hc : clauseLen s.me.cur.head < s.me.cur.widx + n.words.length
  · rw [if_pos hc, if_pos hc]
  · rw [if_neg hc, if_neg hc]
    show (if (endsWindow n && !(n.dst.isSome && s.me.cur.k % 4 == k)) = true then _ else _) = _
    cases v with
    | none =>
      obtain ⟨hd, rfl⟩ := hm
      cases hw : endsWindow n <;> simp [hd]
    | some f =>
      obtain ⟨hd, r, rfl, hr⟩ := hm
      by_cases he : k = s.me.cur.k % 4
      · subst he
        simp only [hd, BEq.rfl, Bool.and_true, Bool.not_true, Bool.and_false, Bool.false_eq_true, if_false, if_true]
        rw [vget_vset_same _ _ _ _ hk]
        exact hr th
      · simp only [he, if_false]
        rw [vget_vset_other _ _ _ _ _ (Ne.symm he)]
        have : (s.me.cur.k % 4 == k) = false := by simpa using Ne.symm he
        cases hw : endsWindow n <;> simp [this]

/-- Retirement: the pops, then the pc. -/
theorem retire_eq (n : Need) (s : State) :
    ∃ q m, retire n s = { s with
        me := { s.me with qstatus := q, cur := s.me.cur.after n }
        mem := { s.mem with scratch := m } } ∧
      (∀ a, (∀ x ∈ selPops n.sels, ∀ b, binding s.me x = some b → ∀ h,
        scratchAddr s s.me b.quadSpace b.offset.toNat = some h → a < h ∨ h + 4 ≤ a) →
        memByte m a = memByte s.mem.scratch a) ∧
      (∀ k, (∀ x ∈ selPops n.sels, x.toNat ≠ k) → q.getLsbD k = s.me.qstatus.getLsbD k) := by
  obtain ⟨q, m, h, hm, hq⟩ := pops_eq (selPops n.sels) s
  exact ⟨q, m, by unfold retire; rw [h]; rfl, hm, hq⟩

theorem otherLogs_tput (s : State) (l : Tbl (List LogEntry)) (v : List LogEntry)
    (hl : ∀ k, k ≠ s.me.place.laneKey → tget l [] k = tget s.opLog [] k) :
    ∀ k, k ≠ s.me.place.laneKey → tget (tput l [] s.me.place.laneKey v) [] k = tget s.opLog [] k := by
  intro k hk
  rw [tget_tput_other _ _ _ _ _ _ (Ne.symm hk), hl k hk]

/-- A value merged under a mask, in a thread. -/
theorem merged_at (m : Mask) (old new : RegVal) (th : Fin 32) :
    (merged m old new).at th = if m.getLsbD th.val then new.at th else old.at th := by
  unfold merged
  split
  · subst_vars
    rw [BitVec.getLsbD_allOnes]
    simp [th.isLt]
  · simp [gOf, RegVal.at]

/-- A mayIssue fragment is ready. -/
theorem executes_ready (n : Need) (s : State) (h : executes n s = true) : s.me.cur.wait = .ready := by
  simp only [executes, mayIssue, Bool.and_eq_true, beq_iff_eq] at h
  exact h.1.1.1.1.1.1.1.1.1.1.1.1.2

end Sys2Proof.Laws
end

