-- ==== Sys2Proof/Laws/Effects.lean ====
section
/-! SUPPORT. What the shared meanings of register instructions do: the effect of `vecOp`, `pairOp` and `predOp`, once. -/

namespace Sys2Proof.Laws

open Sys2Proof Sys2Proof.Machine

/-! ### A vector result written -/

/-- A vector result: the register, the latch and the operand log. -/
theorem writeVec_eq (d : Reg) (nw : Bool) (v : RegVal) (s : State) :
    ∃ rs res l o lg, writeVec d nw v s = { s with
        me := { s.me with regs := rs, resident := res, cur := { s.me.cur with latches := l, owed := o } }
        opLog := lg } ∧
      (∀ r, vget rs r.toNat (.u 0) = if !nw && r == d then merged s.me.cur.mask (reg s d) v else reg s r) ∧
      (∀ k, k ≠ s.me.place.laneKey → tget lg [] k = tget s.opLog [] k) ∧
      l = vset s.me.cur.latches (s.me.cur.k % 4) (merged s.me.cur.mask (reg s d) v) := by
  have h1 := fun e : LogEntry => otherLogs_tput s s.opLog ((e :: tget s.opLog [] s.me.place.laneKey).take 32)
    (fun _ _ => rfl)
  cases nw with
  | true => exact ⟨_, _, _, _, _, rfl, fun r => by simp [reg], h1 _, rfl⟩
  | false =>
    refine ⟨_, _, _, _, _, rfl, fun r => ?_, otherLogs_tput s _ _ (h1 _), rfl⟩
    by_cases hr : r = d
    · subst hr
      simpa using vget_vset_same _ _ _ _ r.isLt
    · have hne : d.toNat ≠ r.toNat := fun e => hr (BitVec.eq_of_toNat_eq e.symm)
      simp only [hr, beq_iff_eq, Bool.not_false, Bool.true_and, if_false, reg]
      exact vget_vset_other _ _ _ _ _ hne

/-- `vecOp`: its value, its flags and its frame. -/
theorem vecOp_effect (i : Instr) (d : Reg) (nw : Bool) (sels : List Sel)
    (res : State → List RegVal → RegVal × FlagSet) (s : State) (h : executes (vecNeed i d sels) s = true) :
    VecEffect (vecNeed i d sels) d nw (fun th => (res (issued (vecNeed i d sels) s) (selVals s [] sels)).1.at th)
      (res (issued (vecNeed i d sels) s) (selVals s [] sels)).2.word s (vecOp i d nw sels res s) := by
  have hw := executes_ready _ _ h
  have he : vecOp i d nw sels res s = retire (vecNeed i d sels)
      (raiseFlags (res (issued (vecNeed i d sels) s) (selVals s [] sels)).2
        (writeVec d nw (res (issued (vecNeed i d sels) s) (selVals s [] sels)).1 (issued (vecNeed i d sels) s))) :=
    issue_executes (vecNeed i d sels) s (fun vals s => retire (vecNeed i d sels)
      (raiseFlags (res s vals).2 (writeVec d nw (res s vals).1 s))) h
  rw [he]
  generalize hR : res (issued (vecNeed i d sels) s) (selVals s [] sels) = R
  obtain ⟨r0, hi⟩ := issued_eq (vecNeed i d sels) s
  obtain ⟨rs, r1, l1, o1, lg, hv, hreg, hlog, hl1⟩ := writeVec_eq d nw R.1 (issued (vecNeed i d sels) s)
  obtain ⟨q, m, hr, hm, hq⟩ := retire_eq (vecNeed i d sels)
    (raiseFlags R.2 (writeVec d nw R.1 (issued (vecNeed i d sels) s)))
  rw [hr]
  rw [hv, hi] at hm hq ⊢
  rw [hi] at hreg hlog hl1
  have hp := after_frag (vecNeed i d sels) { s.me.cur with latches := l1, owed := o1 } hw
  refine ⟨fun th => ?_, latchesPast_of _ _ s _ l1 o1 rfl
      ⟨rfl, _, hl1, fun th => (merged_at s.me.cur.mask (reg s d) R.1 th).trans (by simp [activeIn])⟩,
    rfl, rfl, ⟨rfl, fun r hrd => ?_, ⟨hm, hq⟩, ⟨?_, hp.2⟩, hlog⟩⟩
  · have := hreg d
    show (vget rs d.toNat (.u 0)).at th = _
    rw [this]
    cases nw with
    | true => rfl
    | false =>
      rw [if_pos (by simp)]
      exact (merged_at s.me.cur.mask (reg s d) R.1 th).trans (by simp [activeIn])
  · show vget rs r.toNat (.u 0) = reg s r
    rw [hreg r]
    cases nw with
    | true => rfl
    | false =>
      have : (r == d) = false := by simpa using hrd
      simp [this]; rfl
  · exact hp.1

/-! ### A pair result -/

/-- The low word of a pair. -/
theorem loW_pair (lo hi : Word) : loW (pair lo hi) = lo := by
  unfold loW pair
  apply BitVec.eq_of_getLsbD_eq
  intro i hi
  rw [BitVec.getLsbD_setWidth, BitVec.getLsbD_append]
  simp [hi]

theorem nextReg_ne (d : Reg) : nextReg d 1 ≠ d := by
  unfold nextReg
  intro h
  have := congrArg BitVec.toNat h
  simp [BitVec.toNat_add] at this
  omega

/-- A pair result: both registers, the latch and the operand log. -/
theorem writePair_eq (d : Reg) (nw : Bool) (lo hi : RegVal) (s : State) :
    ∃ rs res l o lg, writePair d nw lo hi s = { s with
        me := { s.me with regs := rs, resident := res, cur := { s.me.cur with latches := l, owed := o } }
        opLog := lg } ∧
      (∀ r, vget rs r.toNat (.u 0) =
        if !nw && r == d then merged s.me.cur.mask (reg s d) lo
        else if !nw && r == nextReg d 1 then merged s.me.cur.mask (reg s (nextReg d 1)) hi else reg s r) ∧
      (∀ k, k ≠ s.me.place.laneKey → tget lg [] k = tget s.opLog [] k) ∧
      l = vset s.me.cur.latches (s.me.cur.k % 4) (merged s.me.cur.mask (reg s d) lo) := by
  have h1 := fun e : LogEntry => otherLogs_tput s s.opLog ((e :: tget s.opLog [] s.me.place.laneKey).take 32)
    (fun _ _ => rfl)
  cases nw with
  | true => exact ⟨_, _, _, _, _, rfl, fun r => by simp [reg], h1 _, rfl⟩
  | false =>
    refine ⟨_, _, _, _, _, rfl, fun r => ?_, otherLogs_tput s _ _ (otherLogs_tput s _ _ (h1 _)), rfl⟩
    have hd := nextReg_ne d
    have hdn : d.toNat ≠ (nextReg d 1).toNat := fun e => hd (BitVec.eq_of_toNat_eq e.symm)
    by_cases hn : r = nextReg d 1
    · subst hn
      simp only [hd, beq_iff_eq, Bool.not_false, Bool.true_and, if_false, BEq.rfl, if_true]
      exact vget_vset_same _ _ _ _ (nextReg d 1).isLt
    · have hne : (nextReg d 1).toNat ≠ r.toNat := fun e => hn (BitVec.eq_of_toNat_eq e.symm)
      by_cases hr : r = d
      · subst hr
        simp only [BEq.rfl, Bool.not_false, Bool.true_and, if_true]
        exact (vget_vset_other _ _ _ _ _ hne).trans (vget_vset_same _ _ _ _ r.isLt)
      · have hne2 : d.toNat ≠ r.toNat := fun e => hr (BitVec.eq_of_toNat_eq e.symm)
        simp only [hr, hn, beq_iff_eq, Bool.not_false, Bool.true_and, if_false, reg]
        exact (vget_vset_other _ _ _ _ _ hne).trans (vget_vset_other _ _ _ _ _ hne2)

/-- `pairOp`: its value, its flags and its frame. -/
theorem pairOp_effect (i : Instr) (d : Reg) (nw : Bool) (regs : List Reg) (sels : List Sel)
    (res : State → List RegVal → RegVal × RegVal × FlagSet) (s : State)
    (h : executes (pairNeed i d regs sels) s = true) :
    ∃ r, PairEffect (pairNeed i d regs sels) d nw
      (fun th => pair ((res { s with me := { s.me with resident := r } }
            (selVals s [] sels)).1.at th)
          ((res { s with me := { s.me with resident := r } }
            (selVals s [] sels)).2.1.at th))
      (res { s with me := { s.me with resident := r } }
        (selVals s [] sels)).2.2.word s (pairOp i d nw regs sels res s) := by
  have hw := executes_ready _ _ h
  obtain ⟨r1, hi⟩ := issued_eq (pairNeed i d regs sels) s
  refine ⟨r1, ?_⟩
  have he : pairOp i d nw regs sels res s = _ := issue_executes (pairNeed i d regs sels) s (fun vals s =>
    let r := res s vals
    retire (pairNeed i d regs sels) (raiseFlags r.2.2 (writePair d nw r.1 r.2.1 s))) h
  rw [he, hi]
  simp only [show (pairNeed i d regs sels).sels = sels from rfl]
  generalize hR : res _ _ = R
  generalize hB : ({ s with me := { s.me with resident := r1 } } :
    State) = B
  obtain ⟨rs, r2, l1, o1, lg, hv, hreg, hlog, hl1⟩ := writePair_eq d nw R.1 R.2.1 B
  obtain ⟨q, m, hr, hm, hq⟩ := retire_eq (pairNeed i d regs sels) (raiseFlags R.2.2 (writePair d nw R.1 R.2.1 B))
  change PairEffect _ _ _ _ _ _ (retire (pairNeed i d regs sels) _)
  rw [hr]
  rw [hv] at hm hq ⊢
  subst hB
  have hp := after_frag (pairNeed i d regs sels) { s.me.cur with latches := l1, owed := o1 } hw
  have hd := nextReg_ne d
  refine ⟨fun th => ?_, latchesPast_of _ _ s _ l1 o1 rfl
      ⟨rfl, _, hl1, fun th => (merged_at s.me.cur.mask (reg s d) R.1 th).trans (by simp [activeIn, loW_pair])⟩,
    rfl, rfl, ⟨rfl, fun r hrd => ?_, ⟨hm, hq⟩, ⟨?_, hp.2⟩, hlog⟩⟩
  · have h1 := hreg d
    have h2 := hreg (nextReg d 1)
    show pair ((vget rs d.toNat (.u 0)).at th) ((vget rs (nextReg d 1).toNat (.u 0)).at th) = _
    rw [h1, h2]
    cases nw with
    | true => rfl
    | false =>
      simp only [hd, beq_iff_eq, Bool.not_false, Bool.true_and, if_false, BEq.rfl, if_true, merged_at,
        activeIn]
      split <;> rfl
  · show vget rs r.toNat (.u 0) = reg s r
    rw [hreg r]
    cases nw with
    | true => rfl
    | false =>
      simp only [Bool.false_eq_true, if_false, List.mem_cons, List.not_mem_nil, or_false, not_or] at hrd
      simp [hrd.1, hrd.2]; rfl
  · exact hp.1

/-! ### A predicate result -/

theorem maskOf_getLsbD (p : Fin 32 → Bool) (th : Fin 32) : (maskOf p).getLsbD th.val = p th := by
  have key : ∀ (l : List (Fin 32)) (m : Mask),
      (l.foldl (fun m t => if p t then m ||| (BitVec.ofNat 32 (2 ^ t.val)) else m) m).getLsbD th.val =
        (m.getLsbD th.val || (decide (th ∈ l) && p th)) := by
    intro l
    induction l with
    | nil => simp
    | cons t l ih =>
      intro m
      rw [List.foldl_cons, ih]
      by_cases ht : t = th
      · subst ht
        by_cases hp : p t
        · rw [if_pos hp, BitVec.getLsbD_or, twoPow_getLsbD _ _ t.isLt]
          simp [hp]
        · simp [hp]
      · have hv : ¬ t.val = th.val := fun e => ht (Fin.ext e)
        by_cases hp : p t
        · rw [if_pos hp, BitVec.getLsbD_or, twoPow_getLsbD _ _ t.isLt]
          simp [hv, Ne.symm ht]
        · simp [hp, Ne.symm ht]
  rw [maskOf, key]
  simp

/-- A predicate written: the active threads' bits, the operand log. -/
theorem writePred_eq (pd : PredNo) (m : Mask) (s : State) :
    ∃ ps lg, writePred pd m s = { s with me := { s.me with preds := ps }, opLog := lg } ∧
      (∀ p : PredNo, p ≠ pd → vget ps p.toNat 0 = vget s.me.preds p.toNat 0) ∧
      (pd ≠ 7 → vget ps pd.toNat 0 = (m &&& s.me.cur.mask) ||| (predMask s pd &&& ~~~s.me.cur.mask)) ∧
      (∀ k, k ≠ s.me.place.laneKey → tget lg [] k = tget s.opLog [] k) := by
  unfold writePred
  by_cases h : pd.toNat < 7
  · rw [dif_pos h]
    refine ⟨_, _, rfl, fun p hp => ?_, fun _ => ?_, otherLogs_tput s _ _ (fun _ _ => rfl)⟩
    · exact vget_vset_other _ _ _ _ _ (fun e => hp (BitVec.eq_of_toNat_eq e.symm))
    · exact vget_vset_same _ _ _ _ h
  · rw [dif_neg h]
    refine ⟨_, _, rfl, fun _ _ => rfl, fun hp => absurd (BitVec.eq_of_toNat_eq ?_) hp, fun _ _ => rfl⟩
    have := pd.isLt
    show pd.toNat = 7
    omega

/-- `predOp`: its bits and its frame. -/
theorem predOp_effect (i : Instr) (pd : PredNo) (regs : List Reg) (sels : List Sel)
    (res : State → List RegVal → Fin 32 → Bool) (s : State) (h : executes (predNeed i regs sels) s = true) :
    ∃ r, PredEffect (predNeed i regs sels) pd
      (res { s with me := { s.me with resident := r } }
        (selVals s [] sels)) s (predOp i pd regs sels res s) := by
  have hw := executes_ready _ _ h
  obtain ⟨r1, hi⟩ := issued_eq (predNeed i regs sels) s
  refine ⟨r1, ?_⟩
  have he : predOp i pd regs sels res s = _ := issue_executes (predNeed i regs sels) s (fun vals s =>
    retire (predNeed i regs sels) (writePred pd (maskOf (res s vals)) s)) h
  rw [he, hi]
  simp only [show (predNeed i regs sels).sels = sels from rfl]
  generalize hR : res _ _ = R
  generalize hB : ({ s with me := { s.me with resident := r1 } } :
    State) = B
  obtain ⟨ps, lg, hv, hoth, hpd, hlog⟩ := writePred_eq pd (maskOf R) B
  obtain ⟨q, m, hr, hm, hq⟩ := retire_eq (predNeed i regs sels) (writePred pd (maskOf R) B)
  change PredEffect _ _ _ _ (retire (predNeed i regs sels) _)
  rw [hr]
  rw [hv] at hm hq ⊢
  subst hB
  have hp := after_frag (predNeed i regs sels) s.me.cur hw
  refine ⟨fun th => ?_, fun p hne => ?_,
    latchesPast_of _ none s _ s.me.cur.latches s.me.cur.owed rfl ⟨rfl, rfl⟩, rfl, ⟨rfl, fun _ _ => rfl, ⟨hm, hq⟩, ⟨hp.1, hp.2⟩, hlog⟩⟩
  · by_cases h7 : pd = 7
    · subst h7; rfl
    · have h7' : (pd != 7) = true := by simpa using h7
      show (if pd = 7 then BitVec.allOnes 32 else vget ps pd.toNat 0).getLsbD th.val = _
      rw [if_neg h7, hpd h7]
      simp only [BitVec.getLsbD_or, BitVec.getLsbD_and, maskOf_getLsbD, BitVec.getLsbD_not, th.isLt, decide_true,
        Bool.true_and, h7', activeIn]
      show _ = if _ then _ else (predMask s pd).getLsbD th.val
      have hs : predMask { s with me := { s.me with resident := r1 } } pd
        = predMask s pd := rfl
      rw [hs]
      cases s.me.cur.mask.getLsbD th.val <;> simp
  · show (if p = 7 then BitVec.allOnes 32 else vget ps p.toNat 0) = _
    rw [hoth p hne]; rfl

end Sys2Proof.Laws
end

