-- ==== Sys2Proof/Laws/Homes.lean ====
section
/-! SUPPORT. What a write at a home does to the memories: the bytes it names, and the parity bytes that cover them. -/

namespace Sys2Proof.Laws

open Sys2Proof Sys2Proof.Machine

/-- The four memories of a package stay. -/
def SameMemories (s t : State) : Prop :=
  t.mem.bytes = s.mem.bytes ∧ t.mem.parity = s.mem.parity ∧ t.mem.scratch = s.mem.scratch ∧ t.mem.slices = s.mem.slices

theorem SameMemories.trans {s t u : State} (h : SameMemories s t) (k : SameMemories t u) : SameMemories s u :=
  ⟨k.1.trans h.1, k.2.1.trans h.2.1, k.2.2.1.trans h.2.2.1, k.2.2.2.trans h.2.2.2⟩

/-- An answer to a hub core writes no byte. -/
theorem hubAnswer_memories (d h status : Nat) (s : State) : SameMemories s (hubAnswer d h status s) := by
  unfold hubAnswer
  dsimp only
  split <;> exact ⟨rfl, rfl, rfl, rfl⟩

/-- A message over a port changes no memory. -/
theorem sendFlit_mem (dest : Nat) (m : OutMsg) (s : State) : (sendFlit dest m s).mem = s.mem := by
  unfold sendFlit
  split <;> rfl

/-- Nor does a message that leaves or waits its turn. -/
theorem sendTo_mem (dest : Nat) (m : OutMsg) (s : State) : (sendTo dest m s).mem = s.mem := by
  unfold sendTo
  split
  · rfl
  · split
    · rfl
    · exact sendFlit_mem dest m s

/-- Nor does a reply to a request of another package. -/
theorem replyPeer_mem (tag : ReqTag) (home : Nat) (value : BitVec 128) (fault : Option Cause) (s : State) :
    (replyPeer tag home value fault s).mem = s.mem := sendTo_mem _ _ s

/-- An answer of a watch writes no byte. -/
theorem answerWatch_memories (key status : Nat) (s : State) : SameMemories s (answerWatch key status s) := by
  unfold answerWatch
  split
  · exact ⟨rfl, rfl, rfl, rfl⟩
  · split
    · dsimp only
      split
      · exact ⟨rfl, rfl, rfl, rfl⟩
      · exact hubAnswer_memories _ _ _ { s with mem := { s.mem with watches := tset s.mem.watches key none } }
    · dsimp only
      split
      · exact ⟨rfl, rfl, rfl, rfl⟩
      · unfold SameMemories
        rw [replyPeer_mem]
        exact ⟨rfl, rfl, rfl, rfl⟩
    · split <;> exact ⟨rfl, rfl, rfl, rfl⟩

/-- Nor does the evaluation of the watches on written lines. -/
theorem reevalWatches_memories (x n : Nat) (s : State) : SameMemories s (reevalWatches x n s) := by
  unfold reevalWatches
  generalize s.mem.watches = l
  induction l generalizing s with
  | nil => exact ⟨rfl, rfl, rfl, rfl⟩
  | cons p l ih =>
    rw [List.foldl_cons]
    refine SameMemories.trans ?_ (ih _)
    dsimp only
    split
    · exact answerWatch_memories _ _ _
    · exact ⟨rfl, rfl, rfl, rfl⟩

/-- A write at a home: its bytes, and no other memory. -/
theorem writeHome_memories (x : Nat) (bs : List Byte) (s : State) :
    (writeHome x bs s).mem.bytes = memWrite s.mem.bytes x bs ∧ (writeHome x bs s).mem.parity = s.mem.parity ∧
    (writeHome x bs s).mem.scratch = s.mem.scratch ∧ (writeHome x bs s).mem.slices = s.mem.slices :=
  reevalWatches_memories x bs.length { s with mem := { s.mem with
    bytes := memWrite s.mem.bytes x bs
    reserved := dropReserved x bs.length s.mem.reserved } }

/-- A parity delta changes the parity bytes alone and keeps their form. -/
theorem applyDelta_memories (s : State) (x : Nat) (d : List Byte) :
    (applyDelta s x d).mem.bytes = s.mem.bytes ∧ (applyDelta s x d).mem.scratch = s.mem.scratch ∧
    (applyDelta s x d).mem.slices = s.mem.slices ∧
    (s.mem.parity.wf = true → (applyDelta s x d).mem.parity.wf = true) := by
  unfold applyDelta
  split
  · exact ⟨rfl, rfl, rfl, fun h => memWrite_wf _ _ _ h⟩
  · exact ⟨rfl, rfl, rfl, id⟩

/-- A delta that arrives at its parity home changes the parity bytes alone and keeps their form. -/
theorem deltaArrives_memories (d : Nat × Nat) (s : State) :
    (deltaArrives d s).mem.bytes = s.mem.bytes ∧ (deltaArrives d s).mem.scratch = s.mem.scratch ∧
    (deltaArrives d s).mem.slices = s.mem.slices ∧
    (s.mem.parity.wf = true → (deltaArrives d s).mem.parity.wf = true) := by
  unfold deltaArrives
  split
  · exact applyDelta_memories s _ _
  · split
    · exact ⟨rfl, rfl, rfl, id⟩
    · exact applyDelta_memories s _ _

/-- Nor do all those of a unit change more. -/
theorem drainUnit_memories (u : Nat) (s : State) :
    (drainUnit u s).mem.bytes = s.mem.bytes ∧ (drainUnit u s).mem.scratch = s.mem.scratch ∧
    (drainUnit u s).mem.slices = s.mem.slices ∧ (s.mem.parity.wf = true → (drainUnit u s).mem.parity.wf = true) := by
  unfold drainUnit
  generalize s.mem.deltas = l
  induction l generalizing s with
  | nil => exact ⟨rfl, rfl, rfl, id⟩
  | cons d l ih =>
    rw [List.foldl_cons]
    split
    · obtain ⟨k1, k2, k3, k4⟩ := ih (deltaArrives d s)
      obtain ⟨m1, m2, m3, m4⟩ := deltaArrives_memories d s
      exact ⟨k1.trans m1, k2.trans m2, k3.trans m3, fun h => k4 (m4 h)⟩
    · exact ih s

/-- A write performed at once: its bytes, and no scratchpad. -/
theorem poke_memories (x : Nat) (bs : List Byte) (s : State) :
    (poke x bs s).mem.bytes = memWrite s.mem.bytes x bs ∧ (poke x bs s).mem.scratch = s.mem.scratch ∧
    (poke x bs s).mem.slices = s.mem.slices ∧ (s.mem.parity.wf = true → (poke x bs s).mem.parity.wf = true) := by
  unfold poke
  obtain ⟨h1, h2, h3, h4⟩ := writeHome_memories x bs s
  generalize unitPieces x (deltaOf s x bs) = l
  rw [← h1, ← h2, ← h3, ← h4]
  generalize writeHome x bs s = u
  induction l generalizing u with
  | nil => exact ⟨rfl, rfl, rfl, id⟩
  | cons p l ih =>
    rw [List.foldl_cons]
    obtain ⟨k1, k2, k3, k4⟩ := ih (applyDelta (drainUnit (p.1 / 256) u) p.1 p.2)
    obtain ⟨m1, m2, m3, m4⟩ := applyDelta_memories (drainUnit (p.1 / 256) u) p.1 p.2
    obtain ⟨n1, n2, n3, n4⟩ := drainUnit_memories (p.1 / 256) u
    exact ⟨k1.trans (m1.trans n1), k2.trans (m2.trans n2), k3.trans (m3.trans n3), fun h => k4 (m4 (n4 h))⟩

/-- Every byte outside a write reads as before. -/
theorem poke_other (x : Nat) (bs : List Byte) (s : State) (a : Nat) (h : a < x ∨ x + bs.length ≤ a) :
    memByte (poke x bs s).mem.bytes a = memByte s.mem.bytes a := by
  rw [(poke_memories x bs s).1]
  exact memByte_memWrite_other _ _ _ _ h

/-- The bytes written are the bytes read. -/
theorem poke_same (x : Nat) (bs : List Byte) (s : State) (h : s.mem.bytes.wf = true) :
    memRead (poke x bs s).mem.bytes x bs.length = bs := by
  rw [(poke_memories x bs s).1]
  exact memRead_memWrite_same _ _ _ h

/-- A write keeps the canonical form of all four memories. -/
theorem poke_wf (x : Nat) (bs : List Byte) (s : State) (hb : s.mem.bytes.wf = true) (hp : s.mem.parity.wf = true)
    (hs : s.mem.scratch.wf = true) (hl : s.mem.slices.wf = true) :
    (poke x bs s).mem.bytes.wf = true ∧ (poke x bs s).mem.parity.wf = true ∧ (poke x bs s).mem.scratch.wf = true ∧
      (poke x bs s).mem.slices.wf = true := by
  obtain ⟨h1, h2, h3, h4⟩ := poke_memories x bs s
  exact ⟨by rw [h1]; exact memWrite_wf _ _ _ hb, h4 hp, by rw [h2]; exact hs, by rw [h3]; exact hl⟩

end Sys2Proof.Laws
end

