-- ==== Sys2Proof/Laws/State.lean ====
section
/-! SUPPORT. What each small update of the state leaves as it is, field by field. -/

namespace Sys2Proof.Laws

open Sys2Proof Sys2Proof.Machine

/-! ### Updates of the executing strand, the memory system, the engines, the lending tables and the queues -/

@[simp] theorem modMe_others (f : Strand → Strand) (s : State) : (modMe f s).others = s.others := rfl
@[simp] theorem modMe_tick (f : Strand → Strand) (s : State) : (modMe f s).tick = s.tick := rfl
@[simp] theorem modMe_work (f : Strand → Strand) (s : State) : (modMe f s).work = s.work := rfl
@[simp] theorem modMe_kernel (f : Strand → Strand) (s : State) : (modMe f s).kernel = s.kernel := rfl
@[simp] theorem modMe_engines (f : Strand → Strand) (s : State) : (modMe f s).engines = s.engines := rfl
@[simp] theorem modMe_mem (f : Strand → Strand) (s : State) : (modMe f s).mem = s.mem := rfl
@[simp] theorem modMe_services (f : Strand → Strand) (s : State) : (modMe f s).services = s.services := rfl
@[simp] theorem modMe_nextSvc (f : Strand → Strand) (s : State) : (modMe f s).nextSvc = s.nextSvc := rfl
@[simp] theorem modMe_lending (f : Strand → Strand) (s : State) : (modMe f s).lending = s.lending := rfl
@[simp] theorem modMe_links (f : Strand → Strand) (s : State) : (modMe f s).links = s.links := rfl
@[simp] theorem modMe_failure (f : Strand → Strand) (s : State) : (modMe f s).failure = s.failure := rfl
@[simp] theorem modMe_power (f : Strand → Strand) (s : State) : (modMe f s).power = s.power := rfl
@[simp] theorem modMe_boot (f : Strand → Strand) (s : State) : (modMe f s).boot = s.boot := rfl
@[simp] theorem modMe_opLog (f : Strand → Strand) (s : State) : (modMe f s).opLog = s.opLog := rfl
@[simp] theorem modMe_agenda (f : Strand → Strand) (s : State) : (modMe f s).agenda = s.agenda := rfl
@[simp] theorem modMe_outbox (f : Strand → Strand) (s : State) : (modMe f s).outbox = s.outbox := rfl
@[simp] theorem modMe_fresh (f : Strand → Strand) (s : State) : (modMe f s).fresh = s.fresh := rfl
@[simp] theorem modMe_me (f : Strand → Strand) (s : State) : (modMe f s).me = f s.me := rfl

@[simp] theorem modCur_others (f : Fragment → Fragment) (s : State) : (modCur f s).others = s.others := rfl
@[simp] theorem modCur_tick (f : Fragment → Fragment) (s : State) : (modCur f s).tick = s.tick := rfl
@[simp] theorem modCur_work (f : Fragment → Fragment) (s : State) : (modCur f s).work = s.work := rfl
@[simp] theorem modCur_kernel (f : Fragment → Fragment) (s : State) : (modCur f s).kernel = s.kernel := rfl
@[simp] theorem modCur_engines (f : Fragment → Fragment) (s : State) : (modCur f s).engines = s.engines := rfl
@[simp] theorem modCur_mem (f : Fragment → Fragment) (s : State) : (modCur f s).mem = s.mem := rfl
@[simp] theorem modCur_services (f : Fragment → Fragment) (s : State) : (modCur f s).services = s.services := rfl
@[simp] theorem modCur_nextSvc (f : Fragment → Fragment) (s : State) : (modCur f s).nextSvc = s.nextSvc := rfl
@[simp] theorem modCur_lending (f : Fragment → Fragment) (s : State) : (modCur f s).lending = s.lending := rfl
@[simp] theorem modCur_links (f : Fragment → Fragment) (s : State) : (modCur f s).links = s.links := rfl
@[simp] theorem modCur_failure (f : Fragment → Fragment) (s : State) : (modCur f s).failure = s.failure := rfl
@[simp] theorem modCur_power (f : Fragment → Fragment) (s : State) : (modCur f s).power = s.power := rfl
@[simp] theorem modCur_boot (f : Fragment → Fragment) (s : State) : (modCur f s).boot = s.boot := rfl
@[simp] theorem modCur_opLog (f : Fragment → Fragment) (s : State) : (modCur f s).opLog = s.opLog := rfl
@[simp] theorem modCur_agenda (f : Fragment → Fragment) (s : State) : (modCur f s).agenda = s.agenda := rfl
@[simp] theorem modCur_outbox (f : Fragment → Fragment) (s : State) : (modCur f s).outbox = s.outbox := rfl
@[simp] theorem modCur_fresh (f : Fragment → Fragment) (s : State) : (modCur f s).fresh = s.fresh := rfl
@[simp] theorem modCur_me_who (f : Fragment → Fragment) (s : State) : (modCur f s).me.who = s.me.who := rfl
@[simp] theorem modCur_me_place (f : Fragment → Fragment) (s : State) : (modCur f s).me.place = s.me.place := rfl
@[simp] theorem modCur_me_age (f : Fragment → Fragment) (s : State) : (modCur f s).me.age = s.me.age := rfl
@[simp] theorem modCur_me_skip (f : Fragment → Fragment) (s : State) : (modCur f s).me.skip = s.me.skip := rfl
@[simp] theorem modCur_me_regs (f : Fragment → Fragment) (s : State) : (modCur f s).me.regs = s.me.regs := rfl
@[simp] theorem modCur_me_preds (f : Fragment → Fragment) (s : State) : (modCur f s).me.preds = s.me.preds := rfl
@[simp] theorem modCur_me_fcr (f : Fragment → Fragment) (s : State) : (modCur f s).me.fcr = s.me.fcr := rfl
@[simp] theorem modCur_me_fflags (f : Fragment → Fragment) (s : State) : (modCur f s).me.fflags = s.me.fflags := rfl
@[simp] theorem modCur_me_ftrapen (f : Fragment → Fragment) (s : State) : (modCur f s).me.ftrapen = s.me.ftrapen := rfl
@[simp] theorem modCur_me_lr (f : Fragment → Fragment) (s : State) : (modCur f s).me.lr = s.me.lr := rfl
@[simp] theorem modCur_me_role (f : Fragment → Fragment) (s : State) : (modCur f s).me.role = s.me.role := rfl
@[simp] theorem modCur_me_prio (f : Fragment → Fragment) (s : State) : (modCur f s).me.prio = s.me.prio := rfl
@[simp] theorem modCur_me_allotV (f : Fragment → Fragment) (s : State) : (modCur f s).me.allotV = s.me.allotV := rfl
@[simp] theorem modCur_me_allotG (f : Fragment → Fragment) (s : State) : (modCur f s).me.allotG = s.me.allotG := rfl
@[simp] theorem modCur_me_qstatus (f : Fragment → Fragment) (s : State) : (modCur f s).me.qstatus = s.me.qstatus := rfl
@[simp] theorem modCur_me_wdl (f : Fragment → Fragment) (s : State) : (modCur f s).me.wdl = s.me.wdl := rfl
@[simp] theorem modCur_me_wdlh (f : Fragment → Fragment) (s : State) : (modCur f s).me.wdlh = s.me.wdlh := rfl
@[simp] theorem modCur_me_psf (f : Fragment → Fragment) (s : State) : (modCur f s).me.psf = s.me.psf := rfl
@[simp] theorem modCur_me_psfAddr (f : Fragment → Fragment) (s : State) : (modCur f s).me.psfAddr = s.me.psfAddr := rfl
@[simp] theorem modCur_me_psfArg (f : Fragment → Fragment) (s : State) : (modCur f s).me.psfArg = s.me.psfArg := rfl
@[simp] theorem modCur_me_trap (f : Fragment → Fragment) (s : State) : (modCur f s).me.trap = s.me.trap := rfl
@[simp] theorem modCur_me_handler (f : Fragment → Fragment) (s : State) : (modCur f s).me.handler = s.me.handler := rfl
@[simp] theorem modCur_me_binds (f : Fragment → Fragment) (s : State) : (modCur f s).me.binds = s.me.binds := rfl
@[simp] theorem modCur_me_promises (f : Fragment → Fragment) (s : State) : (modCur f s).me.promises = s.me.promises := rfl
@[simp] theorem modCur_me_completions (f : Fragment → Fragment) (s : State) : (modCur f s).me.completions = s.me.completions := rfl
@[simp] theorem modCur_me_acks (f : Fragment → Fragment) (s : State) : (modCur f s).me.acks = s.me.acks := rfl
@[simp] theorem modCur_me_events (f : Fragment → Fragment) (s : State) : (modCur f s).me.events = s.me.events := rfl
@[simp] theorem modCur_me_pushed0 (f : Fragment → Fragment) (s : State) : (modCur f s).me.pushed0 = s.me.pushed0 := rfl
@[simp] theorem modCur_me_pushed1 (f : Fragment → Fragment) (s : State) : (modCur f s).me.pushed1 = s.me.pushed1 := rfl
@[simp] theorem modCur_me_pushed2 (f : Fragment → Fragment) (s : State) : (modCur f s).me.pushed2 = s.me.pushed2 := rfl
@[simp] theorem modCur_me_frags (f : Fragment → Fragment) (s : State) : (modCur f s).me.frags = s.me.frags := rfl
@[simp] theorem modCur_me_nextFrag (f : Fragment → Fragment) (s : State) : (modCur f s).me.nextFrag = s.me.nextFrag := rfl
@[simp] theorem modCur_me_serials (f : Fragment → Fragment) (s : State) : (modCur f s).me.serials = s.me.serials := rfl
@[simp] theorem modCur_me_resident (f : Fragment → Fragment) (s : State) : (modCur f s).me.resident = s.me.resident := rfl
@[simp] theorem modCur_me_pendingBars (f : Fragment → Fragment) (s : State) : (modCur f s).me.pendingBars = s.me.pendingBars := rfl
@[simp] theorem modCur_me_laneSize (f : Fragment → Fragment) (s : State) : (modCur f s).me.laneSize = s.me.laneSize := rfl
@[simp] theorem modCur_me_timeSlice (f : Fragment → Fragment) (s : State) : (modCur f s).me.timeSlice = s.me.timeSlice := rfl
@[simp] theorem modCur_me_evicting (f : Fragment → Fragment) (s : State) : (modCur f s).me.evicting = s.me.evicting := rfl
@[simp] theorem modCur_me_checkpointing (f : Fragment → Fragment) (s : State) : (modCur f s).me.checkpointing = s.me.checkpointing := rfl
@[simp] theorem modCur_me_killing (f : Fragment → Fragment) (s : State) : (modCur f s).me.killing = s.me.killing := rfl
@[simp] theorem modCur_me_halted (f : Fragment → Fragment) (s : State) : (modCur f s).me.halted = s.me.halted := rfl
@[simp] theorem modCur_me_reports (f : Fragment → Fragment) (s : State) : (modCur f s).me.reports = s.me.reports := rfl
@[simp] theorem modCur_me_stepping (f : Fragment → Fragment) (s : State) : (modCur f s).me.stepping = s.me.stepping := rfl
@[simp] theorem modCur_me_window (f : Fragment → Fragment) (s : State) : (modCur f s).me.window = s.me.window := rfl
@[simp] theorem modCur_me_windowSig (f : Fragment → Fragment) (s : State) : (modCur f s).me.windowSig = s.me.windowSig := rfl
@[simp] theorem modCur_me_windowAt (f : Fragment → Fragment) (s : State) : (modCur f s).me.windowAt = s.me.windowAt := rfl
@[simp] theorem modCur_me_windowEnd (f : Fragment → Fragment) (s : State) : (modCur f s).me.windowEnd = s.me.windowEnd := rfl
@[simp] theorem modCur_me_sharedSeq (f : Fragment → Fragment) (s : State) : (modCur f s).me.sharedSeq = s.me.sharedSeq := rfl
@[simp] theorem modCur_me_writeBack (f : Fragment → Fragment) (s : State) : (modCur f s).me.writeBack = s.me.writeBack := rfl
@[simp] theorem modCur_me_cur (f : Fragment → Fragment) (s : State) : (modCur f s).me.cur = f s.me.cur := rfl


@[simp] theorem useReg_others (r : Reg) (s : State) : (useReg r s).others = s.others := rfl
@[simp] theorem useReg_tick (r : Reg) (s : State) : (useReg r s).tick = s.tick := rfl
@[simp] theorem useReg_work (r : Reg) (s : State) : (useReg r s).work = s.work := rfl
@[simp] theorem useReg_kernel (r : Reg) (s : State) : (useReg r s).kernel = s.kernel := rfl
@[simp] theorem useReg_engines (r : Reg) (s : State) : (useReg r s).engines = s.engines := rfl
@[simp] theorem useReg_mem (r : Reg) (s : State) : (useReg r s).mem = s.mem := rfl
@[simp] theorem useReg_services (r : Reg) (s : State) : (useReg r s).services = s.services := rfl
@[simp] theorem useReg_nextSvc (r : Reg) (s : State) : (useReg r s).nextSvc = s.nextSvc := rfl
@[simp] theorem useReg_lending (r : Reg) (s : State) : (useReg r s).lending = s.lending := rfl
@[simp] theorem useReg_links (r : Reg) (s : State) : (useReg r s).links = s.links := rfl
@[simp] theorem useReg_failure (r : Reg) (s : State) : (useReg r s).failure = s.failure := rfl
@[simp] theorem useReg_power (r : Reg) (s : State) : (useReg r s).power = s.power := rfl
@[simp] theorem useReg_boot (r : Reg) (s : State) : (useReg r s).boot = s.boot := rfl
@[simp] theorem useReg_opLog (r : Reg) (s : State) : (useReg r s).opLog = s.opLog := rfl
@[simp] theorem useReg_agenda (r : Reg) (s : State) : (useReg r s).agenda = s.agenda := rfl
@[simp] theorem useReg_outbox (r : Reg) (s : State) : (useReg r s).outbox = s.outbox := rfl
@[simp] theorem useReg_fresh (r : Reg) (s : State) : (useReg r s).fresh = s.fresh := rfl
@[simp] theorem useReg_me_who (r : Reg) (s : State) : (useReg r s).me.who = s.me.who := rfl
@[simp] theorem useReg_me_place (r : Reg) (s : State) : (useReg r s).me.place = s.me.place := rfl
@[simp] theorem useReg_me_age (r : Reg) (s : State) : (useReg r s).me.age = s.me.age := rfl
@[simp] theorem useReg_me_skip (r : Reg) (s : State) : (useReg r s).me.skip = s.me.skip := rfl
@[simp] theorem useReg_me_regs (r : Reg) (s : State) : (useReg r s).me.regs = s.me.regs := rfl
@[simp] theorem useReg_me_preds (r : Reg) (s : State) : (useReg r s).me.preds = s.me.preds := rfl
@[simp] theorem useReg_me_fcr (r : Reg) (s : State) : (useReg r s).me.fcr = s.me.fcr := rfl
@[simp] theorem useReg_me_fflags (r : Reg) (s : State) : (useReg r s).me.fflags = s.me.fflags := rfl
@[simp] theorem useReg_me_ftrapen (r : Reg) (s : State) : (useReg r s).me.ftrapen = s.me.ftrapen := rfl
@[simp] theorem useReg_me_lr (r : Reg) (s : State) : (useReg r s).me.lr = s.me.lr := rfl
@[simp] theorem useReg_me_role (r : Reg) (s : State) : (useReg r s).me.role = s.me.role := rfl
@[simp] theorem useReg_me_prio (r : Reg) (s : State) : (useReg r s).me.prio = s.me.prio := rfl
@[simp] theorem useReg_me_allotV (r : Reg) (s : State) : (useReg r s).me.allotV = s.me.allotV := rfl
@[simp] theorem useReg_me_allotG (r : Reg) (s : State) : (useReg r s).me.allotG = s.me.allotG := rfl
@[simp] theorem useReg_me_qstatus (r : Reg) (s : State) : (useReg r s).me.qstatus = s.me.qstatus := rfl
@[simp] theorem useReg_me_wdl (r : Reg) (s : State) : (useReg r s).me.wdl = s.me.wdl := rfl
@[simp] theorem useReg_me_wdlh (r : Reg) (s : State) : (useReg r s).me.wdlh = s.me.wdlh := rfl
@[simp] theorem useReg_me_psf (r : Reg) (s : State) : (useReg r s).me.psf = s.me.psf := rfl
@[simp] theorem useReg_me_psfAddr (r : Reg) (s : State) : (useReg r s).me.psfAddr = s.me.psfAddr := rfl
@[simp] theorem useReg_me_psfArg (r : Reg) (s : State) : (useReg r s).me.psfArg = s.me.psfArg := rfl
@[simp] theorem useReg_me_trap (r : Reg) (s : State) : (useReg r s).me.trap = s.me.trap := rfl
@[simp] theorem useReg_me_handler (r : Reg) (s : State) : (useReg r s).me.handler = s.me.handler := rfl
@[simp] theorem useReg_me_binds (r : Reg) (s : State) : (useReg r s).me.binds = s.me.binds := rfl
@[simp] theorem useReg_me_promises (r : Reg) (s : State) : (useReg r s).me.promises = s.me.promises := rfl
@[simp] theorem useReg_me_completions (r : Reg) (s : State) : (useReg r s).me.completions = s.me.completions := rfl
@[simp] theorem useReg_me_acks (r : Reg) (s : State) : (useReg r s).me.acks = s.me.acks := rfl
@[simp] theorem useReg_me_events (r : Reg) (s : State) : (useReg r s).me.events = s.me.events := rfl
@[simp] theorem useReg_me_pushed0 (r : Reg) (s : State) : (useReg r s).me.pushed0 = s.me.pushed0 := rfl
@[simp] theorem useReg_me_pushed1 (r : Reg) (s : State) : (useReg r s).me.pushed1 = s.me.pushed1 := rfl
@[simp] theorem useReg_me_pushed2 (r : Reg) (s : State) : (useReg r s).me.pushed2 = s.me.pushed2 := rfl
@[simp] theorem useReg_me_cur (r : Reg) (s : State) : (useReg r s).me.cur = s.me.cur := rfl
@[simp] theorem useReg_me_frags (r : Reg) (s : State) : (useReg r s).me.frags = s.me.frags := rfl
@[simp] theorem useReg_me_nextFrag (r : Reg) (s : State) : (useReg r s).me.nextFrag = s.me.nextFrag := rfl
@[simp] theorem useReg_me_serials (r : Reg) (s : State) : (useReg r s).me.serials = s.me.serials := rfl
@[simp] theorem useReg_me_pendingBars (r : Reg) (s : State) : (useReg r s).me.pendingBars = s.me.pendingBars := rfl
@[simp] theorem useReg_me_laneSize (r : Reg) (s : State) : (useReg r s).me.laneSize = s.me.laneSize := rfl
@[simp] theorem useReg_me_timeSlice (r : Reg) (s : State) : (useReg r s).me.timeSlice = s.me.timeSlice := rfl
@[simp] theorem useReg_me_evicting (r : Reg) (s : State) : (useReg r s).me.evicting = s.me.evicting := rfl
@[simp] theorem useReg_me_checkpointing (r : Reg) (s : State) : (useReg r s).me.checkpointing = s.me.checkpointing := rfl
@[simp] theorem useReg_me_killing (r : Reg) (s : State) : (useReg r s).me.killing = s.me.killing := rfl
@[simp] theorem useReg_me_halted (r : Reg) (s : State) : (useReg r s).me.halted = s.me.halted := rfl
@[simp] theorem useReg_me_reports (r : Reg) (s : State) : (useReg r s).me.reports = s.me.reports := rfl
@[simp] theorem useReg_me_stepping (r : Reg) (s : State) : (useReg r s).me.stepping = s.me.stepping := rfl
@[simp] theorem useReg_me_window (r : Reg) (s : State) : (useReg r s).me.window = s.me.window := rfl
@[simp] theorem useReg_me_windowSig (r : Reg) (s : State) : (useReg r s).me.windowSig = s.me.windowSig := rfl
@[simp] theorem useReg_me_windowAt (r : Reg) (s : State) : (useReg r s).me.windowAt = s.me.windowAt := rfl
@[simp] theorem useReg_me_windowEnd (r : Reg) (s : State) : (useReg r s).me.windowEnd = s.me.windowEnd := rfl
@[simp] theorem useReg_me_sharedSeq (r : Reg) (s : State) : (useReg r s).me.sharedSeq = s.me.sharedSeq := rfl
@[simp] theorem useReg_me_writeBack (r : Reg) (s : State) : (useReg r s).me.writeBack = s.me.writeBack := rfl

@[simp] theorem logWrite_me (x : RegSite) (s : State) : (logWrite x s).me = s.me := rfl
@[simp] theorem logWrite_others (x : RegSite) (s : State) : (logWrite x s).others = s.others := rfl
@[simp] theorem logWrite_tick (x : RegSite) (s : State) : (logWrite x s).tick = s.tick := rfl
@[simp] theorem logWrite_work (x : RegSite) (s : State) : (logWrite x s).work = s.work := rfl
@[simp] theorem logWrite_kernel (x : RegSite) (s : State) : (logWrite x s).kernel = s.kernel := rfl
@[simp] theorem logWrite_engines (x : RegSite) (s : State) : (logWrite x s).engines = s.engines := rfl
@[simp] theorem logWrite_mem (x : RegSite) (s : State) : (logWrite x s).mem = s.mem := rfl
@[simp] theorem logWrite_services (x : RegSite) (s : State) : (logWrite x s).services = s.services := rfl
@[simp] theorem logWrite_nextSvc (x : RegSite) (s : State) : (logWrite x s).nextSvc = s.nextSvc := rfl
@[simp] theorem logWrite_lending (x : RegSite) (s : State) : (logWrite x s).lending = s.lending := rfl
@[simp] theorem logWrite_links (x : RegSite) (s : State) : (logWrite x s).links = s.links := rfl
@[simp] theorem logWrite_failure (x : RegSite) (s : State) : (logWrite x s).failure = s.failure := rfl
@[simp] theorem logWrite_power (x : RegSite) (s : State) : (logWrite x s).power = s.power := rfl
@[simp] theorem logWrite_boot (x : RegSite) (s : State) : (logWrite x s).boot = s.boot := rfl
@[simp] theorem logWrite_agenda (x : RegSite) (s : State) : (logWrite x s).agenda = s.agenda := rfl
@[simp] theorem logWrite_outbox (x : RegSite) (s : State) : (logWrite x s).outbox = s.outbox := rfl
@[simp] theorem logWrite_fresh (x : RegSite) (s : State) : (logWrite x s).fresh = s.fresh := rfl

@[simp] theorem writeLatch_others (v : RegVal) (s : State) : (writeLatch v s).others = s.others := rfl
@[simp] theorem writeLatch_tick (v : RegVal) (s : State) : (writeLatch v s).tick = s.tick := rfl
@[simp] theorem writeLatch_work (v : RegVal) (s : State) : (writeLatch v s).work = s.work := rfl
@[simp] theorem writeLatch_kernel (v : RegVal) (s : State) : (writeLatch v s).kernel = s.kernel := rfl
@[simp] theorem writeLatch_engines (v : RegVal) (s : State) : (writeLatch v s).engines = s.engines := rfl
@[simp] theorem writeLatch_mem (v : RegVal) (s : State) : (writeLatch v s).mem = s.mem := rfl
@[simp] theorem writeLatch_services (v : RegVal) (s : State) : (writeLatch v s).services = s.services := rfl
@[simp] theorem writeLatch_nextSvc (v : RegVal) (s : State) : (writeLatch v s).nextSvc = s.nextSvc := rfl
@[simp] theorem writeLatch_lending (v : RegVal) (s : State) : (writeLatch v s).lending = s.lending := rfl
@[simp] theorem writeLatch_links (v : RegVal) (s : State) : (writeLatch v s).links = s.links := rfl
@[simp] theorem writeLatch_failure (v : RegVal) (s : State) : (writeLatch v s).failure = s.failure := rfl
@[simp] theorem writeLatch_power (v : RegVal) (s : State) : (writeLatch v s).power = s.power := rfl
@[simp] theorem writeLatch_boot (v : RegVal) (s : State) : (writeLatch v s).boot = s.boot := rfl
@[simp] theorem writeLatch_agenda (v : RegVal) (s : State) : (writeLatch v s).agenda = s.agenda := rfl
@[simp] theorem writeLatch_outbox (v : RegVal) (s : State) : (writeLatch v s).outbox = s.outbox := rfl
@[simp] theorem writeLatch_fresh (v : RegVal) (s : State) : (writeLatch v s).fresh = s.fresh := rfl
@[simp] theorem writeLatch_me_who (v : RegVal) (s : State) : (writeLatch v s).me.who = s.me.who := rfl
@[simp] theorem writeLatch_me_place (v : RegVal) (s : State) : (writeLatch v s).me.place = s.me.place := rfl
@[simp] theorem writeLatch_me_age (v : RegVal) (s : State) : (writeLatch v s).me.age = s.me.age := rfl
@[simp] theorem writeLatch_me_skip (v : RegVal) (s : State) : (writeLatch v s).me.skip = s.me.skip := rfl
@[simp] theorem writeLatch_me_regs (v : RegVal) (s : State) : (writeLatch v s).me.regs = s.me.regs := rfl
@[simp] theorem writeLatch_me_preds (v : RegVal) (s : State) : (writeLatch v s).me.preds = s.me.preds := rfl
@[simp] theorem writeLatch_me_fcr (v : RegVal) (s : State) : (writeLatch v s).me.fcr = s.me.fcr := rfl
@[simp] theorem writeLatch_me_fflags (v : RegVal) (s : State) : (writeLatch v s).me.fflags = s.me.fflags := rfl
@[simp] theorem writeLatch_me_ftrapen (v : RegVal) (s : State) : (writeLatch v s).me.ftrapen = s.me.ftrapen := rfl
@[simp] theorem writeLatch_me_lr (v : RegVal) (s : State) : (writeLatch v s).me.lr = s.me.lr := rfl
@[simp] theorem writeLatch_me_role (v : RegVal) (s : State) : (writeLatch v s).me.role = s.me.role := rfl
@[simp] theorem writeLatch_me_prio (v : RegVal) (s : State) : (writeLatch v s).me.prio = s.me.prio := rfl
@[simp] theorem writeLatch_me_allotV (v : RegVal) (s : State) : (writeLatch v s).me.allotV = s.me.allotV := rfl
@[simp] theorem writeLatch_me_allotG (v : RegVal) (s : State) : (writeLatch v s).me.allotG = s.me.allotG := rfl
@[simp] theorem writeLatch_me_qstatus (v : RegVal) (s : State) : (writeLatch v s).me.qstatus = s.me.qstatus := rfl
@[simp] theorem writeLatch_me_wdl (v : RegVal) (s : State) : (writeLatch v s).me.wdl = s.me.wdl := rfl
@[simp] theorem writeLatch_me_wdlh (v : RegVal) (s : State) : (writeLatch v s).me.wdlh = s.me.wdlh := rfl
@[simp] theorem writeLatch_me_psf (v : RegVal) (s : State) : (writeLatch v s).me.psf = s.me.psf := rfl
@[simp] theorem writeLatch_me_psfAddr (v : RegVal) (s : State) : (writeLatch v s).me.psfAddr = s.me.psfAddr := rfl
@[simp] theorem writeLatch_me_psfArg (v : RegVal) (s : State) : (writeLatch v s).me.psfArg = s.me.psfArg := rfl
@[simp] theorem writeLatch_me_trap (v : RegVal) (s : State) : (writeLatch v s).me.trap = s.me.trap := rfl
@[simp] theorem writeLatch_me_handler (v : RegVal) (s : State) : (writeLatch v s).me.handler = s.me.handler := rfl
@[simp] theorem writeLatch_me_binds (v : RegVal) (s : State) : (writeLatch v s).me.binds = s.me.binds := rfl
@[simp] theorem writeLatch_me_promises (v : RegVal) (s : State) : (writeLatch v s).me.promises = s.me.promises := rfl
@[simp] theorem writeLatch_me_completions (v : RegVal) (s : State) : (writeLatch v s).me.completions = s.me.completions := rfl
@[simp] theorem writeLatch_me_acks (v : RegVal) (s : State) : (writeLatch v s).me.acks = s.me.acks := rfl
@[simp] theorem writeLatch_me_events (v : RegVal) (s : State) : (writeLatch v s).me.events = s.me.events := rfl
@[simp] theorem writeLatch_me_pushed0 (v : RegVal) (s : State) : (writeLatch v s).me.pushed0 = s.me.pushed0 := rfl
@[simp] theorem writeLatch_me_pushed1 (v : RegVal) (s : State) : (writeLatch v s).me.pushed1 = s.me.pushed1 := rfl
@[simp] theorem writeLatch_me_pushed2 (v : RegVal) (s : State) : (writeLatch v s).me.pushed2 = s.me.pushed2 := rfl
@[simp] theorem writeLatch_me_frags (v : RegVal) (s : State) : (writeLatch v s).me.frags = s.me.frags := rfl
@[simp] theorem writeLatch_me_nextFrag (v : RegVal) (s : State) : (writeLatch v s).me.nextFrag = s.me.nextFrag := rfl
@[simp] theorem writeLatch_me_serials (v : RegVal) (s : State) : (writeLatch v s).me.serials = s.me.serials := rfl
@[simp] theorem writeLatch_me_resident (v : RegVal) (s : State) : (writeLatch v s).me.resident = s.me.resident := rfl
@[simp] theorem writeLatch_me_pendingBars (v : RegVal) (s : State) : (writeLatch v s).me.pendingBars = s.me.pendingBars := rfl
@[simp] theorem writeLatch_me_laneSize (v : RegVal) (s : State) : (writeLatch v s).me.laneSize = s.me.laneSize := rfl
@[simp] theorem writeLatch_me_timeSlice (v : RegVal) (s : State) : (writeLatch v s).me.timeSlice = s.me.timeSlice := rfl
@[simp] theorem writeLatch_me_evicting (v : RegVal) (s : State) : (writeLatch v s).me.evicting = s.me.evicting := rfl
@[simp] theorem writeLatch_me_checkpointing (v : RegVal) (s : State) : (writeLatch v s).me.checkpointing = s.me.checkpointing := rfl
@[simp] theorem writeLatch_me_killing (v : RegVal) (s : State) : (writeLatch v s).me.killing = s.me.killing := rfl
@[simp] theorem writeLatch_me_halted (v : RegVal) (s : State) : (writeLatch v s).me.halted = s.me.halted := rfl
@[simp] theorem writeLatch_me_reports (v : RegVal) (s : State) : (writeLatch v s).me.reports = s.me.reports := rfl
@[simp] theorem writeLatch_me_stepping (v : RegVal) (s : State) : (writeLatch v s).me.stepping = s.me.stepping := rfl
@[simp] theorem writeLatch_me_window (v : RegVal) (s : State) : (writeLatch v s).me.window = s.me.window := rfl
@[simp] theorem writeLatch_me_windowSig (v : RegVal) (s : State) : (writeLatch v s).me.windowSig = s.me.windowSig := rfl
@[simp] theorem writeLatch_me_windowAt (v : RegVal) (s : State) : (writeLatch v s).me.windowAt = s.me.windowAt := rfl
@[simp] theorem writeLatch_me_windowEnd (v : RegVal) (s : State) : (writeLatch v s).me.windowEnd = s.me.windowEnd := rfl
@[simp] theorem writeLatch_me_sharedSeq (v : RegVal) (s : State) : (writeLatch v s).me.sharedSeq = s.me.sharedSeq := rfl
@[simp] theorem writeLatch_me_writeBack (v : RegVal) (s : State) : (writeLatch v s).me.writeBack = s.me.writeBack := rfl

@[simp] theorem putReg_others (r : Reg) (v : RegVal) (s : State) : (putReg r v s).others = s.others := rfl
@[simp] theorem putReg_tick (r : Reg) (v : RegVal) (s : State) : (putReg r v s).tick = s.tick := rfl
@[simp] theorem putReg_work (r : Reg) (v : RegVal) (s : State) : (putReg r v s).work = s.work := rfl
@[simp] theorem putReg_kernel (r : Reg) (v : RegVal) (s : State) : (putReg r v s).kernel = s.kernel := rfl
@[simp] theorem putReg_engines (r : Reg) (v : RegVal) (s : State) : (putReg r v s).engines = s.engines := rfl
@[simp] theorem putReg_mem (r : Reg) (v : RegVal) (s : State) : (putReg r v s).mem = s.mem := rfl
@[simp] theorem putReg_services (r : Reg) (v : RegVal) (s : State) : (putReg r v s).services = s.services := rfl
@[simp] theorem putReg_nextSvc (r : Reg) (v : RegVal) (s : State) : (putReg r v s).nextSvc = s.nextSvc := rfl
@[simp] theorem putReg_lending (r : Reg) (v : RegVal) (s : State) : (putReg r v s).lending = s.lending := rfl
@[simp] theorem putReg_links (r : Reg) (v : RegVal) (s : State) : (putReg r v s).links = s.links := rfl
@[simp] theorem putReg_failure (r : Reg) (v : RegVal) (s : State) : (putReg r v s).failure = s.failure := rfl
@[simp] theorem putReg_power (r : Reg) (v : RegVal) (s : State) : (putReg r v s).power = s.power := rfl
@[simp] theorem putReg_boot (r : Reg) (v : RegVal) (s : State) : (putReg r v s).boot = s.boot := rfl
@[simp] theorem putReg_agenda (r : Reg) (v : RegVal) (s : State) : (putReg r v s).agenda = s.agenda := rfl
@[simp] theorem putReg_outbox (r : Reg) (v : RegVal) (s : State) : (putReg r v s).outbox = s.outbox := rfl
@[simp] theorem putReg_fresh (r : Reg) (v : RegVal) (s : State) : (putReg r v s).fresh = s.fresh := rfl
@[simp] theorem putReg_me_who (r : Reg) (v : RegVal) (s : State) : (putReg r v s).me.who = s.me.who := rfl
@[simp] theorem putReg_me_place (r : Reg) (v : RegVal) (s : State) : (putReg r v s).me.place = s.me.place := rfl
@[simp] theorem putReg_me_age (r : Reg) (v : RegVal) (s : State) : (putReg r v s).me.age = s.me.age := rfl
@[simp] theorem putReg_me_skip (r : Reg) (v : RegVal) (s : State) : (putReg r v s).me.skip = s.me.skip := rfl
@[simp] theorem putReg_me_preds (r : Reg) (v : RegVal) (s : State) : (putReg r v s).me.preds = s.me.preds := rfl
@[simp] theorem putReg_me_fcr (r : Reg) (v : RegVal) (s : State) : (putReg r v s).me.fcr = s.me.fcr := rfl
@[simp] theorem putReg_me_fflags (r : Reg) (v : RegVal) (s : State) : (putReg r v s).me.fflags = s.me.fflags := rfl
@[simp] theorem putReg_me_ftrapen (r : Reg) (v : RegVal) (s : State) : (putReg r v s).me.ftrapen = s.me.ftrapen := rfl
@[simp] theorem putReg_me_lr (r : Reg) (v : RegVal) (s : State) : (putReg r v s).me.lr = s.me.lr := rfl
@[simp] theorem putReg_me_role (r : Reg) (v : RegVal) (s : State) : (putReg r v s).me.role = s.me.role := rfl
@[simp] theorem putReg_me_prio (r : Reg) (v : RegVal) (s : State) : (putReg r v s).me.prio = s.me.prio := rfl
@[simp] theorem putReg_me_allotV (r : Reg) (v : RegVal) (s : State) : (putReg r v s).me.allotV = s.me.allotV := rfl
@[simp] theorem putReg_me_allotG (r : Reg) (v : RegVal) (s : State) : (putReg r v s).me.allotG = s.me.allotG := rfl
@[simp] theorem putReg_me_qstatus (r : Reg) (v : RegVal) (s : State) : (putReg r v s).me.qstatus = s.me.qstatus := rfl
@[simp] theorem putReg_me_wdl (r : Reg) (v : RegVal) (s : State) : (putReg r v s).me.wdl = s.me.wdl := rfl
@[simp] theorem putReg_me_wdlh (r : Reg) (v : RegVal) (s : State) : (putReg r v s).me.wdlh = s.me.wdlh := rfl
@[simp] theorem putReg_me_psf (r : Reg) (v : RegVal) (s : State) : (putReg r v s).me.psf = s.me.psf := rfl
@[simp] theorem putReg_me_psfAddr (r : Reg) (v : RegVal) (s : State) : (putReg r v s).me.psfAddr = s.me.psfAddr := rfl
@[simp] theorem putReg_me_psfArg (r : Reg) (v : RegVal) (s : State) : (putReg r v s).me.psfArg = s.me.psfArg := rfl
@[simp] theorem putReg_me_trap (r : Reg) (v : RegVal) (s : State) : (putReg r v s).me.trap = s.me.trap := rfl
@[simp] theorem putReg_me_handler (r : Reg) (v : RegVal) (s : State) : (putReg r v s).me.handler = s.me.handler := rfl
@[simp] theorem putReg_me_binds (r : Reg) (v : RegVal) (s : State) : (putReg r v s).me.binds = s.me.binds := rfl
@[simp] theorem putReg_me_promises (r : Reg) (v : RegVal) (s : State) : (putReg r v s).me.promises = s.me.promises := rfl
@[simp] theorem putReg_me_completions (r : Reg) (v : RegVal) (s : State) : (putReg r v s).me.completions = s.me.completions := rfl
@[simp] theorem putReg_me_acks (r : Reg) (v : RegVal) (s : State) : (putReg r v s).me.acks = s.me.acks := rfl
@[simp] theorem putReg_me_events (r : Reg) (v : RegVal) (s : State) : (putReg r v s).me.events = s.me.events := rfl
@[simp] theorem putReg_me_pushed0 (r : Reg) (v : RegVal) (s : State) : (putReg r v s).me.pushed0 = s.me.pushed0 := rfl
@[simp] theorem putReg_me_pushed1 (r : Reg) (v : RegVal) (s : State) : (putReg r v s).me.pushed1 = s.me.pushed1 := rfl
@[simp] theorem putReg_me_pushed2 (r : Reg) (v : RegVal) (s : State) : (putReg r v s).me.pushed2 = s.me.pushed2 := rfl
@[simp] theorem putReg_me_cur (r : Reg) (v : RegVal) (s : State) : (putReg r v s).me.cur = s.me.cur := rfl
@[simp] theorem putReg_me_frags (r : Reg) (v : RegVal) (s : State) : (putReg r v s).me.frags = s.me.frags := rfl
@[simp] theorem putReg_me_nextFrag (r : Reg) (v : RegVal) (s : State) : (putReg r v s).me.nextFrag = s.me.nextFrag := rfl
@[simp] theorem putReg_me_serials (r : Reg) (v : RegVal) (s : State) : (putReg r v s).me.serials = s.me.serials := rfl
@[simp] theorem putReg_me_pendingBars (r : Reg) (v : RegVal) (s : State) : (putReg r v s).me.pendingBars = s.me.pendingBars := rfl
@[simp] theorem putReg_me_laneSize (r : Reg) (v : RegVal) (s : State) : (putReg r v s).me.laneSize = s.me.laneSize := rfl
@[simp] theorem putReg_me_timeSlice (r : Reg) (v : RegVal) (s : State) : (putReg r v s).me.timeSlice = s.me.timeSlice := rfl
@[simp] theorem putReg_me_evicting (r : Reg) (v : RegVal) (s : State) : (putReg r v s).me.evicting = s.me.evicting := rfl
@[simp] theorem putReg_me_checkpointing (r : Reg) (v : RegVal) (s : State) : (putReg r v s).me.checkpointing = s.me.checkpointing := rfl
@[simp] theorem putReg_me_killing (r : Reg) (v : RegVal) (s : State) : (putReg r v s).me.killing = s.me.killing := rfl
@[simp] theorem putReg_me_halted (r : Reg) (v : RegVal) (s : State) : (putReg r v s).me.halted = s.me.halted := rfl
@[simp] theorem putReg_me_reports (r : Reg) (v : RegVal) (s : State) : (putReg r v s).me.reports = s.me.reports := rfl
@[simp] theorem putReg_me_stepping (r : Reg) (v : RegVal) (s : State) : (putReg r v s).me.stepping = s.me.stepping := rfl
@[simp] theorem putReg_me_window (r : Reg) (v : RegVal) (s : State) : (putReg r v s).me.window = s.me.window := rfl
@[simp] theorem putReg_me_windowSig (r : Reg) (v : RegVal) (s : State) : (putReg r v s).me.windowSig = s.me.windowSig := rfl
@[simp] theorem putReg_me_windowAt (r : Reg) (v : RegVal) (s : State) : (putReg r v s).me.windowAt = s.me.windowAt := rfl
@[simp] theorem putReg_me_windowEnd (r : Reg) (v : RegVal) (s : State) : (putReg r v s).me.windowEnd = s.me.windowEnd := rfl
@[simp] theorem putReg_me_sharedSeq (r : Reg) (v : RegVal) (s : State) : (putReg r v s).me.sharedSeq = s.me.sharedSeq := rfl
@[simp] theorem putReg_me_writeBack (r : Reg) (v : RegVal) (s : State) : (putReg r v s).me.writeBack = s.me.writeBack := rfl

@[simp] theorem raiseFlags_others (f : FlagSet) (s : State) : (raiseFlags f s).others = s.others := rfl
@[simp] theorem raiseFlags_tick (f : FlagSet) (s : State) : (raiseFlags f s).tick = s.tick := rfl
@[simp] theorem raiseFlags_work (f : FlagSet) (s : State) : (raiseFlags f s).work = s.work := rfl
@[simp] theorem raiseFlags_kernel (f : FlagSet) (s : State) : (raiseFlags f s).kernel = s.kernel := rfl
@[simp] theorem raiseFlags_engines (f : FlagSet) (s : State) : (raiseFlags f s).engines = s.engines := rfl
@[simp] theorem raiseFlags_mem (f : FlagSet) (s : State) : (raiseFlags f s).mem = s.mem := rfl
@[simp] theorem raiseFlags_services (f : FlagSet) (s : State) : (raiseFlags f s).services = s.services := rfl
@[simp] theorem raiseFlags_nextSvc (f : FlagSet) (s : State) : (raiseFlags f s).nextSvc = s.nextSvc := rfl
@[simp] theorem raiseFlags_lending (f : FlagSet) (s : State) : (raiseFlags f s).lending = s.lending := rfl
@[simp] theorem raiseFlags_links (f : FlagSet) (s : State) : (raiseFlags f s).links = s.links := rfl
@[simp] theorem raiseFlags_failure (f : FlagSet) (s : State) : (raiseFlags f s).failure = s.failure := rfl
@[simp] theorem raiseFlags_power (f : FlagSet) (s : State) : (raiseFlags f s).power = s.power := rfl
@[simp] theorem raiseFlags_boot (f : FlagSet) (s : State) : (raiseFlags f s).boot = s.boot := rfl
@[simp] theorem raiseFlags_opLog (f : FlagSet) (s : State) : (raiseFlags f s).opLog = s.opLog := rfl
@[simp] theorem raiseFlags_agenda (f : FlagSet) (s : State) : (raiseFlags f s).agenda = s.agenda := rfl
@[simp] theorem raiseFlags_outbox (f : FlagSet) (s : State) : (raiseFlags f s).outbox = s.outbox := rfl
@[simp] theorem raiseFlags_fresh (f : FlagSet) (s : State) : (raiseFlags f s).fresh = s.fresh := rfl
@[simp] theorem raiseFlags_me_who (f : FlagSet) (s : State) : (raiseFlags f s).me.who = s.me.who := rfl
@[simp] theorem raiseFlags_me_place (f : FlagSet) (s : State) : (raiseFlags f s).me.place = s.me.place := rfl
@[simp] theorem raiseFlags_me_age (f : FlagSet) (s : State) : (raiseFlags f s).me.age = s.me.age := rfl
@[simp] theorem raiseFlags_me_skip (f : FlagSet) (s : State) : (raiseFlags f s).me.skip = s.me.skip := rfl
@[simp] theorem raiseFlags_me_regs (f : FlagSet) (s : State) : (raiseFlags f s).me.regs = s.me.regs := rfl
@[simp] theorem raiseFlags_me_preds (f : FlagSet) (s : State) : (raiseFlags f s).me.preds = s.me.preds := rfl
@[simp] theorem raiseFlags_me_fcr (f : FlagSet) (s : State) : (raiseFlags f s).me.fcr = s.me.fcr := rfl
@[simp] theorem raiseFlags_me_ftrapen (f : FlagSet) (s : State) : (raiseFlags f s).me.ftrapen = s.me.ftrapen := rfl
@[simp] theorem raiseFlags_me_lr (f : FlagSet) (s : State) : (raiseFlags f s).me.lr = s.me.lr := rfl
@[simp] theorem raiseFlags_me_role (f : FlagSet) (s : State) : (raiseFlags f s).me.role = s.me.role := rfl
@[simp] theorem raiseFlags_me_prio (f : FlagSet) (s : State) : (raiseFlags f s).me.prio = s.me.prio := rfl
@[simp] theorem raiseFlags_me_allotV (f : FlagSet) (s : State) : (raiseFlags f s).me.allotV = s.me.allotV := rfl
@[simp] theorem raiseFlags_me_allotG (f : FlagSet) (s : State) : (raiseFlags f s).me.allotG = s.me.allotG := rfl
@[simp] theorem raiseFlags_me_qstatus (f : FlagSet) (s : State) : (raiseFlags f s).me.qstatus = s.me.qstatus := rfl
@[simp] theorem raiseFlags_me_wdl (f : FlagSet) (s : State) : (raiseFlags f s).me.wdl = s.me.wdl := rfl
@[simp] theorem raiseFlags_me_wdlh (f : FlagSet) (s : State) : (raiseFlags f s).me.wdlh = s.me.wdlh := rfl
@[simp] theorem raiseFlags_me_psf (f : FlagSet) (s : State) : (raiseFlags f s).me.psf = s.me.psf := rfl
@[simp] theorem raiseFlags_me_psfAddr (f : FlagSet) (s : State) : (raiseFlags f s).me.psfAddr = s.me.psfAddr := rfl
@[simp] theorem raiseFlags_me_psfArg (f : FlagSet) (s : State) : (raiseFlags f s).me.psfArg = s.me.psfArg := rfl
@[simp] theorem raiseFlags_me_trap (f : FlagSet) (s : State) : (raiseFlags f s).me.trap = s.me.trap := rfl
@[simp] theorem raiseFlags_me_handler (f : FlagSet) (s : State) : (raiseFlags f s).me.handler = s.me.handler := rfl
@[simp] theorem raiseFlags_me_binds (f : FlagSet) (s : State) : (raiseFlags f s).me.binds = s.me.binds := rfl
@[simp] theorem raiseFlags_me_promises (f : FlagSet) (s : State) : (raiseFlags f s).me.promises = s.me.promises := rfl
@[simp] theorem raiseFlags_me_completions (f : FlagSet) (s : State) : (raiseFlags f s).me.completions = s.me.completions := rfl
@[simp] theorem raiseFlags_me_acks (f : FlagSet) (s : State) : (raiseFlags f s).me.acks = s.me.acks := rfl
@[simp] theorem raiseFlags_me_events (f : FlagSet) (s : State) : (raiseFlags f s).me.events = s.me.events := rfl
@[simp] theorem raiseFlags_me_pushed0 (f : FlagSet) (s : State) : (raiseFlags f s).me.pushed0 = s.me.pushed0 := rfl
@[simp] theorem raiseFlags_me_pushed1 (f : FlagSet) (s : State) : (raiseFlags f s).me.pushed1 = s.me.pushed1 := rfl
@[simp] theorem raiseFlags_me_pushed2 (f : FlagSet) (s : State) : (raiseFlags f s).me.pushed2 = s.me.pushed2 := rfl
@[simp] theorem raiseFlags_me_cur (f : FlagSet) (s : State) : (raiseFlags f s).me.cur = s.me.cur := rfl
@[simp] theorem raiseFlags_me_frags (f : FlagSet) (s : State) : (raiseFlags f s).me.frags = s.me.frags := rfl
@[simp] theorem raiseFlags_me_nextFrag (f : FlagSet) (s : State) : (raiseFlags f s).me.nextFrag = s.me.nextFrag := rfl
@[simp] theorem raiseFlags_me_serials (f : FlagSet) (s : State) : (raiseFlags f s).me.serials = s.me.serials := rfl
@[simp] theorem raiseFlags_me_resident (f : FlagSet) (s : State) : (raiseFlags f s).me.resident = s.me.resident := rfl
@[simp] theorem raiseFlags_me_pendingBars (f : FlagSet) (s : State) : (raiseFlags f s).me.pendingBars = s.me.pendingBars := rfl
@[simp] theorem raiseFlags_me_laneSize (f : FlagSet) (s : State) : (raiseFlags f s).me.laneSize = s.me.laneSize := rfl
@[simp] theorem raiseFlags_me_timeSlice (f : FlagSet) (s : State) : (raiseFlags f s).me.timeSlice = s.me.timeSlice := rfl
@[simp] theorem raiseFlags_me_evicting (f : FlagSet) (s : State) : (raiseFlags f s).me.evicting = s.me.evicting := rfl
@[simp] theorem raiseFlags_me_checkpointing (f : FlagSet) (s : State) : (raiseFlags f s).me.checkpointing = s.me.checkpointing := rfl
@[simp] theorem raiseFlags_me_killing (f : FlagSet) (s : State) : (raiseFlags f s).me.killing = s.me.killing := rfl
@[simp] theorem raiseFlags_me_halted (f : FlagSet) (s : State) : (raiseFlags f s).me.halted = s.me.halted := rfl
@[simp] theorem raiseFlags_me_reports (f : FlagSet) (s : State) : (raiseFlags f s).me.reports = s.me.reports := rfl
@[simp] theorem raiseFlags_me_stepping (f : FlagSet) (s : State) : (raiseFlags f s).me.stepping = s.me.stepping := rfl
@[simp] theorem raiseFlags_me_window (f : FlagSet) (s : State) : (raiseFlags f s).me.window = s.me.window := rfl
@[simp] theorem raiseFlags_me_windowSig (f : FlagSet) (s : State) : (raiseFlags f s).me.windowSig = s.me.windowSig := rfl
@[simp] theorem raiseFlags_me_windowAt (f : FlagSet) (s : State) : (raiseFlags f s).me.windowAt = s.me.windowAt := rfl
@[simp] theorem raiseFlags_me_windowEnd (f : FlagSet) (s : State) : (raiseFlags f s).me.windowEnd = s.me.windowEnd := rfl
@[simp] theorem raiseFlags_me_sharedSeq (f : FlagSet) (s : State) : (raiseFlags f s).me.sharedSeq = s.me.sharedSeq := rfl
@[simp] theorem raiseFlags_me_writeBack (f : FlagSet) (s : State) : (raiseFlags f s).me.writeBack = s.me.writeBack := rfl
@[simp] theorem raiseFlags_me_fflags (f : FlagSet) (s : State) : (raiseFlags f s).me.fflags = s.me.fflags ||| f.word := rfl

@[simp] theorem pushOp_me (o : Op) (s : State) : (pushOp o s).me = s.me := rfl
@[simp] theorem pushOp_others (o : Op) (s : State) : (pushOp o s).others = s.others := rfl
@[simp] theorem pushOp_tick (o : Op) (s : State) : (pushOp o s).tick = s.tick := rfl
@[simp] theorem pushOp_work (o : Op) (s : State) : (pushOp o s).work = s.work := rfl
@[simp] theorem pushOp_kernel (o : Op) (s : State) : (pushOp o s).kernel = s.kernel := rfl
@[simp] theorem pushOp_engines (o : Op) (s : State) : (pushOp o s).engines = s.engines := rfl
@[simp] theorem pushOp_services (o : Op) (s : State) : (pushOp o s).services = s.services := rfl
@[simp] theorem pushOp_nextSvc (o : Op) (s : State) : (pushOp o s).nextSvc = s.nextSvc := rfl
@[simp] theorem pushOp_lending (o : Op) (s : State) : (pushOp o s).lending = s.lending := rfl
@[simp] theorem pushOp_links (o : Op) (s : State) : (pushOp o s).links = s.links := rfl
@[simp] theorem pushOp_failure (o : Op) (s : State) : (pushOp o s).failure = s.failure := rfl
@[simp] theorem pushOp_power (o : Op) (s : State) : (pushOp o s).power = s.power := rfl
@[simp] theorem pushOp_boot (o : Op) (s : State) : (pushOp o s).boot = s.boot := rfl
@[simp] theorem pushOp_opLog (o : Op) (s : State) : (pushOp o s).opLog = s.opLog := rfl
@[simp] theorem pushOp_agenda (o : Op) (s : State) : (pushOp o s).agenda = s.agenda := rfl
@[simp] theorem pushOp_outbox (o : Op) (s : State) : (pushOp o s).outbox = s.outbox := rfl
@[simp] theorem pushOp_fresh (o : Op) (s : State) : (pushOp o s).fresh = s.fresh := rfl
@[simp] theorem pushOp_mem_bytes (o : Op) (s : State) : (pushOp o s).mem.bytes = s.mem.bytes := rfl
@[simp] theorem pushOp_mem_parity (o : Op) (s : State) : (pushOp o s).mem.parity = s.mem.parity := rfl
@[simp] theorem pushOp_mem_scratch (o : Op) (s : State) : (pushOp o s).mem.scratch = s.mem.scratch := rfl
@[simp] theorem pushOp_mem_slices (o : Op) (s : State) : (pushOp o s).mem.slices = s.mem.slices := rfl
@[simp] theorem pushOp_mem_mode (o : Op) (s : State) : (pushOp o s).mem.mode = s.mem.mode := rfl
@[simp] theorem pushOp_mem_copies (o : Op) (s : State) : (pushOp o s).mem.copies = s.mem.copies := rfl
@[simp] theorem pushOp_mem_modified (o : Op) (s : State) : (pushOp o s).mem.modified = s.mem.modified := rfl
@[simp] theorem pushOp_mem_points (o : Op) (s : State) : (pushOp o s).mem.points = s.mem.points := rfl
@[simp] theorem pushOp_mem_partials (o : Op) (s : State) : (pushOp o s).mem.partials = s.mem.partials := rfl
@[simp] theorem pushOp_mem_docs (o : Op) (s : State) : (pushOp o s).mem.docs = s.mem.docs := rfl
@[simp] theorem pushOp_mem_shared (o : Op) (s : State) : (pushOp o s).mem.shared = s.mem.shared := rfl
@[simp] theorem pushOp_mem_tlb (o : Op) (s : State) : (pushOp o s).mem.tlb = s.mem.tlb := rfl
@[simp] theorem pushOp_mem_watches (o : Op) (s : State) : (pushOp o s).mem.watches = s.mem.watches := rfl
@[simp] theorem pushOp_mem_wsel (o : Op) (s : State) : (pushOp o s).mem.wsel = s.mem.wsel := rfl
@[simp] theorem pushOp_mem_hub (o : Op) (s : State) : (pushOp o s).mem.hub = s.mem.hub := rfl
@[simp] theorem pushOp_mem_staged (o : Op) (s : State) : (pushOp o s).mem.staged = s.mem.staged := rfl
@[simp] theorem pushOp_mem_poisoned (o : Op) (s : State) : (pushOp o s).mem.poisoned = s.mem.poisoned := rfl
@[simp] theorem pushOp_mem_poisonedScratch (o : Op) (s : State) : (pushOp o s).mem.poisonedScratch = s.mem.poisonedScratch := rfl
@[simp] theorem pushOp_mem_rebuilds (o : Op) (s : State) : (pushOp o s).mem.rebuilds = s.mem.rebuilds := rfl
@[simp] theorem pushOp_mem_rebuildTicks (o : Op) (s : State) : (pushOp o s).mem.rebuildTicks = s.mem.rebuildTicks := rfl
@[simp] theorem pushOp_mem_lostAt (o : Op) (s : State) : (pushOp o s).mem.lostAt = s.mem.lostAt := rfl
@[simp] theorem pushOp_mem_settled (o : Op) (s : State) : (pushOp o s).mem.settled = s.mem.settled := rfl
@[simp] theorem pushOp_mem_reserved (o : Op) (s : State) : (pushOp o s).mem.reserved = s.mem.reserved := rfl
@[simp] theorem pushOp_mem_deltas (o : Op) (s : State) : (pushOp o s).mem.deltas = s.mem.deltas := rfl
@[simp] theorem pushOp_mem_late (o : Op) (s : State) : (pushOp o s).mem.late = s.mem.late := rfl
@[simp] theorem pushOp_mem_hubOwed (o : Op) (s : State) : (pushOp o s).mem.hubOwed = s.mem.hubOwed := rfl

@[simp] theorem modOp_me (f : Op → Op) (id : Nat) (s : State) : (modOp f id s).me = s.me := rfl
@[simp] theorem modOp_others (f : Op → Op) (id : Nat) (s : State) : (modOp f id s).others = s.others := rfl
@[simp] theorem modOp_tick (f : Op → Op) (id : Nat) (s : State) : (modOp f id s).tick = s.tick := rfl
@[simp] theorem modOp_work (f : Op → Op) (id : Nat) (s : State) : (modOp f id s).work = s.work := rfl
@[simp] theorem modOp_kernel (f : Op → Op) (id : Nat) (s : State) : (modOp f id s).kernel = s.kernel := rfl
@[simp] theorem modOp_engines (f : Op → Op) (id : Nat) (s : State) : (modOp f id s).engines = s.engines := rfl
@[simp] theorem modOp_services (f : Op → Op) (id : Nat) (s : State) : (modOp f id s).services = s.services := rfl
@[simp] theorem modOp_nextSvc (f : Op → Op) (id : Nat) (s : State) : (modOp f id s).nextSvc = s.nextSvc := rfl
@[simp] theorem modOp_lending (f : Op → Op) (id : Nat) (s : State) : (modOp f id s).lending = s.lending := rfl
@[simp] theorem modOp_links (f : Op → Op) (id : Nat) (s : State) : (modOp f id s).links = s.links := rfl
@[simp] theorem modOp_failure (f : Op → Op) (id : Nat) (s : State) : (modOp f id s).failure = s.failure := rfl
@[simp] theorem modOp_power (f : Op → Op) (id : Nat) (s : State) : (modOp f id s).power = s.power := rfl
@[simp] theorem modOp_boot (f : Op → Op) (id : Nat) (s : State) : (modOp f id s).boot = s.boot := rfl
@[simp] theorem modOp_opLog (f : Op → Op) (id : Nat) (s : State) : (modOp f id s).opLog = s.opLog := rfl
@[simp] theorem modOp_agenda (f : Op → Op) (id : Nat) (s : State) : (modOp f id s).agenda = s.agenda := rfl
@[simp] theorem modOp_outbox (f : Op → Op) (id : Nat) (s : State) : (modOp f id s).outbox = s.outbox := rfl
@[simp] theorem modOp_fresh (f : Op → Op) (id : Nat) (s : State) : (modOp f id s).fresh = s.fresh := rfl
@[simp] theorem modOp_mem_bytes (f : Op → Op) (id : Nat) (s : State) : (modOp f id s).mem.bytes = s.mem.bytes := rfl
@[simp] theorem modOp_mem_parity (f : Op → Op) (id : Nat) (s : State) : (modOp f id s).mem.parity = s.mem.parity := rfl
@[simp] theorem modOp_mem_scratch (f : Op → Op) (id : Nat) (s : State) : (modOp f id s).mem.scratch = s.mem.scratch := rfl
@[simp] theorem modOp_mem_slices (f : Op → Op) (id : Nat) (s : State) : (modOp f id s).mem.slices = s.mem.slices := rfl
@[simp] theorem modOp_mem_mode (f : Op → Op) (id : Nat) (s : State) : (modOp f id s).mem.mode = s.mem.mode := rfl
@[simp] theorem modOp_mem_nextOp (f : Op → Op) (id : Nat) (s : State) : (modOp f id s).mem.nextOp = s.mem.nextOp := rfl
@[simp] theorem modOp_mem_copies (f : Op → Op) (id : Nat) (s : State) : (modOp f id s).mem.copies = s.mem.copies := rfl
@[simp] theorem modOp_mem_modified (f : Op → Op) (id : Nat) (s : State) : (modOp f id s).mem.modified = s.mem.modified := rfl
@[simp] theorem modOp_mem_points (f : Op → Op) (id : Nat) (s : State) : (modOp f id s).mem.points = s.mem.points := rfl
@[simp] theorem modOp_mem_partials (f : Op → Op) (id : Nat) (s : State) : (modOp f id s).mem.partials = s.mem.partials := rfl
@[simp] theorem modOp_mem_docs (f : Op → Op) (id : Nat) (s : State) : (modOp f id s).mem.docs = s.mem.docs := rfl
@[simp] theorem modOp_mem_shared (f : Op → Op) (id : Nat) (s : State) : (modOp f id s).mem.shared = s.mem.shared := rfl
@[simp] theorem modOp_mem_tlb (f : Op → Op) (id : Nat) (s : State) : (modOp f id s).mem.tlb = s.mem.tlb := rfl
@[simp] theorem modOp_mem_watches (f : Op → Op) (id : Nat) (s : State) : (modOp f id s).mem.watches = s.mem.watches := rfl
@[simp] theorem modOp_mem_wsel (f : Op → Op) (id : Nat) (s : State) : (modOp f id s).mem.wsel = s.mem.wsel := rfl
@[simp] theorem modOp_mem_hub (f : Op → Op) (id : Nat) (s : State) : (modOp f id s).mem.hub = s.mem.hub := rfl
@[simp] theorem modOp_mem_staged (f : Op → Op) (id : Nat) (s : State) : (modOp f id s).mem.staged = s.mem.staged := rfl
@[simp] theorem modOp_mem_poisoned (f : Op → Op) (id : Nat) (s : State) : (modOp f id s).mem.poisoned = s.mem.poisoned := rfl
@[simp] theorem modOp_mem_poisonedScratch (f : Op → Op) (id : Nat) (s : State) : (modOp f id s).mem.poisonedScratch = s.mem.poisonedScratch := rfl
@[simp] theorem modOp_mem_rebuilds (f : Op → Op) (id : Nat) (s : State) : (modOp f id s).mem.rebuilds = s.mem.rebuilds := rfl
@[simp] theorem modOp_mem_rebuildTicks (f : Op → Op) (id : Nat) (s : State) : (modOp f id s).mem.rebuildTicks = s.mem.rebuildTicks := rfl
@[simp] theorem modOp_mem_lostAt (f : Op → Op) (id : Nat) (s : State) : (modOp f id s).mem.lostAt = s.mem.lostAt := rfl
@[simp] theorem modOp_mem_settled (f : Op → Op) (id : Nat) (s : State) : (modOp f id s).mem.settled = s.mem.settled := rfl
@[simp] theorem modOp_mem_reserved (f : Op → Op) (id : Nat) (s : State) : (modOp f id s).mem.reserved = s.mem.reserved := rfl
@[simp] theorem modOp_mem_deltas (f : Op → Op) (id : Nat) (s : State) : (modOp f id s).mem.deltas = s.mem.deltas := rfl
@[simp] theorem modOp_mem_late (f : Op → Op) (id : Nat) (s : State) : (modOp f id s).mem.late = s.mem.late := rfl
@[simp] theorem modOp_mem_hubOwed (f : Op → Op) (id : Nat) (s : State) : (modOp f id s).mem.hubOwed = s.mem.hubOwed := rfl

@[simp] theorem setStaged_me (b u : Nat) (x : Staged) (s : State) : (setStaged b u x s).me = s.me := rfl
@[simp] theorem setStaged_others (b u : Nat) (x : Staged) (s : State) : (setStaged b u x s).others = s.others := rfl
@[simp] theorem setStaged_tick (b u : Nat) (x : Staged) (s : State) : (setStaged b u x s).tick = s.tick := rfl
@[simp] theorem setStaged_work (b u : Nat) (x : Staged) (s : State) : (setStaged b u x s).work = s.work := rfl
@[simp] theorem setStaged_kernel (b u : Nat) (x : Staged) (s : State) : (setStaged b u x s).kernel = s.kernel := rfl
@[simp] theorem setStaged_engines (b u : Nat) (x : Staged) (s : State) : (setStaged b u x s).engines = s.engines := rfl
@[simp] theorem setStaged_services (b u : Nat) (x : Staged) (s : State) : (setStaged b u x s).services = s.services := rfl
@[simp] theorem setStaged_nextSvc (b u : Nat) (x : Staged) (s : State) : (setStaged b u x s).nextSvc = s.nextSvc := rfl
@[simp] theorem setStaged_lending (b u : Nat) (x : Staged) (s : State) : (setStaged b u x s).lending = s.lending := rfl
@[simp] theorem setStaged_links (b u : Nat) (x : Staged) (s : State) : (setStaged b u x s).links = s.links := rfl
@[simp] theorem setStaged_failure (b u : Nat) (x : Staged) (s : State) : (setStaged b u x s).failure = s.failure := rfl
@[simp] theorem setStaged_power (b u : Nat) (x : Staged) (s : State) : (setStaged b u x s).power = s.power := rfl
@[simp] theorem setStaged_boot (b u : Nat) (x : Staged) (s : State) : (setStaged b u x s).boot = s.boot := rfl
@[simp] theorem setStaged_opLog (b u : Nat) (x : Staged) (s : State) : (setStaged b u x s).opLog = s.opLog := rfl
@[simp] theorem setStaged_agenda (b u : Nat) (x : Staged) (s : State) : (setStaged b u x s).agenda = s.agenda := rfl
@[simp] theorem setStaged_outbox (b u : Nat) (x : Staged) (s : State) : (setStaged b u x s).outbox = s.outbox := rfl
@[simp] theorem setStaged_fresh (b u : Nat) (x : Staged) (s : State) : (setStaged b u x s).fresh = s.fresh := rfl
@[simp] theorem setStaged_mem_bytes (b u : Nat) (x : Staged) (s : State) : (setStaged b u x s).mem.bytes = s.mem.bytes := rfl
@[simp] theorem setStaged_mem_parity (b u : Nat) (x : Staged) (s : State) : (setStaged b u x s).mem.parity = s.mem.parity := rfl
@[simp] theorem setStaged_mem_scratch (b u : Nat) (x : Staged) (s : State) : (setStaged b u x s).mem.scratch = s.mem.scratch := rfl
@[simp] theorem setStaged_mem_slices (b u : Nat) (x : Staged) (s : State) : (setStaged b u x s).mem.slices = s.mem.slices := rfl
@[simp] theorem setStaged_mem_mode (b u : Nat) (x : Staged) (s : State) : (setStaged b u x s).mem.mode = s.mem.mode := rfl
@[simp] theorem setStaged_mem_ops (b u : Nat) (x : Staged) (s : State) : (setStaged b u x s).mem.ops = s.mem.ops := rfl
@[simp] theorem setStaged_mem_nextOp (b u : Nat) (x : Staged) (s : State) : (setStaged b u x s).mem.nextOp = s.mem.nextOp := rfl
@[simp] theorem setStaged_mem_copies (b u : Nat) (x : Staged) (s : State) : (setStaged b u x s).mem.copies = s.mem.copies := rfl
@[simp] theorem setStaged_mem_modified (b u : Nat) (x : Staged) (s : State) : (setStaged b u x s).mem.modified = s.mem.modified := rfl
@[simp] theorem setStaged_mem_points (b u : Nat) (x : Staged) (s : State) : (setStaged b u x s).mem.points = s.mem.points := rfl
@[simp] theorem setStaged_mem_partials (b u : Nat) (x : Staged) (s : State) : (setStaged b u x s).mem.partials = s.mem.partials := rfl
@[simp] theorem setStaged_mem_docs (b u : Nat) (x : Staged) (s : State) : (setStaged b u x s).mem.docs = s.mem.docs := rfl
@[simp] theorem setStaged_mem_shared (b u : Nat) (x : Staged) (s : State) : (setStaged b u x s).mem.shared = s.mem.shared := rfl
@[simp] theorem setStaged_mem_tlb (b u : Nat) (x : Staged) (s : State) : (setStaged b u x s).mem.tlb = s.mem.tlb := rfl
@[simp] theorem setStaged_mem_watches (b u : Nat) (x : Staged) (s : State) : (setStaged b u x s).mem.watches = s.mem.watches := rfl
@[simp] theorem setStaged_mem_wsel (b u : Nat) (x : Staged) (s : State) : (setStaged b u x s).mem.wsel = s.mem.wsel := rfl
@[simp] theorem setStaged_mem_hub (b u : Nat) (x : Staged) (s : State) : (setStaged b u x s).mem.hub = s.mem.hub := rfl
@[simp] theorem setStaged_mem_poisoned (b u : Nat) (x : Staged) (s : State) : (setStaged b u x s).mem.poisoned = s.mem.poisoned := rfl
@[simp] theorem setStaged_mem_poisonedScratch (b u : Nat) (x : Staged) (s : State) : (setStaged b u x s).mem.poisonedScratch = s.mem.poisonedScratch := rfl
@[simp] theorem setStaged_mem_rebuilds (b u : Nat) (x : Staged) (s : State) : (setStaged b u x s).mem.rebuilds = s.mem.rebuilds := rfl
@[simp] theorem setStaged_mem_rebuildTicks (b u : Nat) (x : Staged) (s : State) : (setStaged b u x s).mem.rebuildTicks = s.mem.rebuildTicks := rfl
@[simp] theorem setStaged_mem_lostAt (b u : Nat) (x : Staged) (s : State) : (setStaged b u x s).mem.lostAt = s.mem.lostAt := rfl
@[simp] theorem setStaged_mem_settled (b u : Nat) (x : Staged) (s : State) : (setStaged b u x s).mem.settled = s.mem.settled := rfl
@[simp] theorem setStaged_mem_reserved (b u : Nat) (x : Staged) (s : State) : (setStaged b u x s).mem.reserved = s.mem.reserved := rfl
@[simp] theorem setStaged_mem_deltas (b u : Nat) (x : Staged) (s : State) : (setStaged b u x s).mem.deltas = s.mem.deltas := rfl
@[simp] theorem setStaged_mem_late (b u : Nat) (x : Staged) (s : State) : (setStaged b u x s).mem.late = s.mem.late := rfl
@[simp] theorem setStaged_mem_hubOwed (b u : Nat) (x : Staged) (s : State) : (setStaged b u x s).mem.hubOwed = s.mem.hubOwed := rfl

@[simp] theorem modCopy_me (id : Nat) (f : CopyCmd → CopyCmd) (s : State) : (modCopy id f s).me = s.me := rfl
@[simp] theorem modCopy_others (id : Nat) (f : CopyCmd → CopyCmd) (s : State) : (modCopy id f s).others = s.others := rfl
@[simp] theorem modCopy_tick (id : Nat) (f : CopyCmd → CopyCmd) (s : State) : (modCopy id f s).tick = s.tick := rfl
@[simp] theorem modCopy_work (id : Nat) (f : CopyCmd → CopyCmd) (s : State) : (modCopy id f s).work = s.work := rfl
@[simp] theorem modCopy_kernel (id : Nat) (f : CopyCmd → CopyCmd) (s : State) : (modCopy id f s).kernel = s.kernel := rfl
@[simp] theorem modCopy_mem (id : Nat) (f : CopyCmd → CopyCmd) (s : State) : (modCopy id f s).mem = s.mem := rfl
@[simp] theorem modCopy_services (id : Nat) (f : CopyCmd → CopyCmd) (s : State) : (modCopy id f s).services = s.services := rfl
@[simp] theorem modCopy_nextSvc (id : Nat) (f : CopyCmd → CopyCmd) (s : State) : (modCopy id f s).nextSvc = s.nextSvc := rfl
@[simp] theorem modCopy_lending (id : Nat) (f : CopyCmd → CopyCmd) (s : State) : (modCopy id f s).lending = s.lending := rfl
@[simp] theorem modCopy_links (id : Nat) (f : CopyCmd → CopyCmd) (s : State) : (modCopy id f s).links = s.links := rfl
@[simp] theorem modCopy_failure (id : Nat) (f : CopyCmd → CopyCmd) (s : State) : (modCopy id f s).failure = s.failure := rfl
@[simp] theorem modCopy_power (id : Nat) (f : CopyCmd → CopyCmd) (s : State) : (modCopy id f s).power = s.power := rfl
@[simp] theorem modCopy_boot (id : Nat) (f : CopyCmd → CopyCmd) (s : State) : (modCopy id f s).boot = s.boot := rfl
@[simp] theorem modCopy_opLog (id : Nat) (f : CopyCmd → CopyCmd) (s : State) : (modCopy id f s).opLog = s.opLog := rfl
@[simp] theorem modCopy_agenda (id : Nat) (f : CopyCmd → CopyCmd) (s : State) : (modCopy id f s).agenda = s.agenda := rfl
@[simp] theorem modCopy_outbox (id : Nat) (f : CopyCmd → CopyCmd) (s : State) : (modCopy id f s).outbox = s.outbox := rfl
@[simp] theorem modCopy_fresh (id : Nat) (f : CopyCmd → CopyCmd) (s : State) : (modCopy id f s).fresh = s.fresh := rfl
@[simp] theorem modCopy_engines_controls (id : Nat) (f : CopyCmd → CopyCmd) (s : State) : (modCopy id f s).engines.controls = s.engines.controls := rfl
@[simp] theorem modCopy_engines_nears (id : Nat) (f : CopyCmd → CopyCmd) (s : State) : (modCopy id f s).engines.nears = s.engines.nears := rfl
@[simp] theorem modCopy_engines_missed (id : Nat) (f : CopyCmd → CopyCmd) (s : State) : (modCopy id f s).engines.missed = s.engines.missed := rfl
@[simp] theorem modCopy_engines_undecided (id : Nat) (f : CopyCmd → CopyCmd) (s : State) : (modCopy id f s).engines.undecided = s.engines.undecided := rfl
@[simp] theorem modCopy_engines_eventWait (id : Nat) (f : CopyCmd → CopyCmd) (s : State) : (modCopy id f s).engines.eventWait = s.engines.eventWait := rfl
@[simp] theorem modCopy_engines_rrQuad (id : Nat) (f : CopyCmd → CopyCmd) (s : State) : (modCopy id f s).engines.rrQuad = s.engines.rrQuad := rfl
@[simp] theorem modCopy_engines_noRoom (id : Nat) (f : CopyCmd → CopyCmd) (s : State) : (modCopy id f s).engines.noRoom = s.engines.noRoom := rfl

@[simp] theorem setLease_me (i : Nat) (x : Lease) (s : State) : (setLease i x s).me = s.me := rfl
@[simp] theorem setLease_others (i : Nat) (x : Lease) (s : State) : (setLease i x s).others = s.others := rfl
@[simp] theorem setLease_tick (i : Nat) (x : Lease) (s : State) : (setLease i x s).tick = s.tick := rfl
@[simp] theorem setLease_work (i : Nat) (x : Lease) (s : State) : (setLease i x s).work = s.work := rfl
@[simp] theorem setLease_kernel (i : Nat) (x : Lease) (s : State) : (setLease i x s).kernel = s.kernel := rfl
@[simp] theorem setLease_engines (i : Nat) (x : Lease) (s : State) : (setLease i x s).engines = s.engines := rfl
@[simp] theorem setLease_mem (i : Nat) (x : Lease) (s : State) : (setLease i x s).mem = s.mem := rfl
@[simp] theorem setLease_services (i : Nat) (x : Lease) (s : State) : (setLease i x s).services = s.services := rfl
@[simp] theorem setLease_nextSvc (i : Nat) (x : Lease) (s : State) : (setLease i x s).nextSvc = s.nextSvc := rfl
@[simp] theorem setLease_links (i : Nat) (x : Lease) (s : State) : (setLease i x s).links = s.links := rfl
@[simp] theorem setLease_failure (i : Nat) (x : Lease) (s : State) : (setLease i x s).failure = s.failure := rfl
@[simp] theorem setLease_power (i : Nat) (x : Lease) (s : State) : (setLease i x s).power = s.power := rfl
@[simp] theorem setLease_boot (i : Nat) (x : Lease) (s : State) : (setLease i x s).boot = s.boot := rfl
@[simp] theorem setLease_opLog (i : Nat) (x : Lease) (s : State) : (setLease i x s).opLog = s.opLog := rfl
@[simp] theorem setLease_agenda (i : Nat) (x : Lease) (s : State) : (setLease i x s).agenda = s.agenda := rfl
@[simp] theorem setLease_outbox (i : Nat) (x : Lease) (s : State) : (setLease i x s).outbox = s.outbox := rfl
@[simp] theorem setLease_fresh (i : Nat) (x : Lease) (s : State) : (setLease i x s).fresh = s.fresh := rfl
@[simp] theorem setLease_lending_borrows (i : Nat) (x : Lease) (s : State) : (setLease i x s).lending.borrows = s.lending.borrows := rfl
@[simp] theorem setLease_lending_leaseCount (i : Nat) (x : Lease) (s : State) : (setLease i x s).lending.leaseCount = s.lending.leaseCount := rfl
@[simp] theorem setLease_lending_term (i : Nat) (x : Lease) (s : State) : (setLease i x s).lending.term = s.lending.term := rfl
@[simp] theorem setLease_lending_cobbler (i : Nat) (x : Lease) (s : State) : (setLease i x s).lending.cobbler = s.lending.cobbler := rfl
@[simp] theorem setLease_lending_lastBeat (i : Nat) (x : Lease) (s : State) : (setLease i x s).lending.lastBeat = s.lending.lastBeat := rfl
@[simp] theorem setLease_lending_lastSent (i : Nat) (x : Lease) (s : State) : (setLease i x s).lending.lastSent = s.lending.lastSent := rfl
@[simp] theorem setLease_lending_offers (i : Nat) (x : Lease) (s : State) : (setLease i x s).lending.offers = s.lending.offers := rfl
@[simp] theorem setLease_lending_requests (i : Nat) (x : Lease) (s : State) : (setLease i x s).lending.requests = s.lending.requests := rfl
@[simp] theorem setLease_lending_synced (i : Nat) (x : Lease) (s : State) : (setLease i x s).lending.synced = s.lending.synced := rfl
@[simp] theorem setLease_lending_timeSet (i : Nat) (x : Lease) (s : State) : (setLease i x s).lending.timeSet = s.lending.timeSet := rfl
@[simp] theorem setLease_lending_heldUntil (i : Nat) (x : Lease) (s : State) : (setLease i x s).lending.heldUntil = s.lending.heldUntil := rfl
@[simp] theorem setLease_lending_anchors (i : Nat) (x : Lease) (s : State) : (setLease i x s).lending.anchors = s.lending.anchors := rfl
@[simp] theorem setLease_lending_electCell (i : Nat) (x : Lease) (s : State) : (setLease i x s).lending.electCell = s.lending.electCell := rfl
@[simp] theorem setLease_lending_deadAnchors (i : Nat) (x : Lease) (s : State) : (setLease i x s).lending.deadAnchors = s.lending.deadAnchors := rfl
@[simp] theorem setLease_lending_electing (i : Nat) (x : Lease) (s : State) : (setLease i x s).lending.electing = s.lending.electing := rfl

@[simp] theorem setBorrow_me (i : Nat) (x : Borrow) (s : State) : (setBorrow i x s).me = s.me := rfl
@[simp] theorem setBorrow_others (i : Nat) (x : Borrow) (s : State) : (setBorrow i x s).others = s.others := rfl
@[simp] theorem setBorrow_tick (i : Nat) (x : Borrow) (s : State) : (setBorrow i x s).tick = s.tick := rfl
@[simp] theorem setBorrow_work (i : Nat) (x : Borrow) (s : State) : (setBorrow i x s).work = s.work := rfl
@[simp] theorem setBorrow_kernel (i : Nat) (x : Borrow) (s : State) : (setBorrow i x s).kernel = s.kernel := rfl
@[simp] theorem setBorrow_engines (i : Nat) (x : Borrow) (s : State) : (setBorrow i x s).engines = s.engines := rfl
@[simp] theorem setBorrow_mem (i : Nat) (x : Borrow) (s : State) : (setBorrow i x s).mem = s.mem := rfl
@[simp] theorem setBorrow_services (i : Nat) (x : Borrow) (s : State) : (setBorrow i x s).services = s.services := rfl
@[simp] theorem setBorrow_nextSvc (i : Nat) (x : Borrow) (s : State) : (setBorrow i x s).nextSvc = s.nextSvc := rfl
@[simp] theorem setBorrow_links (i : Nat) (x : Borrow) (s : State) : (setBorrow i x s).links = s.links := rfl
@[simp] theorem setBorrow_failure (i : Nat) (x : Borrow) (s : State) : (setBorrow i x s).failure = s.failure := rfl
@[simp] theorem setBorrow_power (i : Nat) (x : Borrow) (s : State) : (setBorrow i x s).power = s.power := rfl
@[simp] theorem setBorrow_boot (i : Nat) (x : Borrow) (s : State) : (setBorrow i x s).boot = s.boot := rfl
@[simp] theorem setBorrow_opLog (i : Nat) (x : Borrow) (s : State) : (setBorrow i x s).opLog = s.opLog := rfl
@[simp] theorem setBorrow_agenda (i : Nat) (x : Borrow) (s : State) : (setBorrow i x s).agenda = s.agenda := rfl
@[simp] theorem setBorrow_outbox (i : Nat) (x : Borrow) (s : State) : (setBorrow i x s).outbox = s.outbox := rfl
@[simp] theorem setBorrow_fresh (i : Nat) (x : Borrow) (s : State) : (setBorrow i x s).fresh = s.fresh := rfl
@[simp] theorem setBorrow_lending_leases (i : Nat) (x : Borrow) (s : State) : (setBorrow i x s).lending.leases = s.lending.leases := rfl
@[simp] theorem setBorrow_lending_leaseCount (i : Nat) (x : Borrow) (s : State) : (setBorrow i x s).lending.leaseCount = s.lending.leaseCount := rfl
@[simp] theorem setBorrow_lending_term (i : Nat) (x : Borrow) (s : State) : (setBorrow i x s).lending.term = s.lending.term := rfl
@[simp] theorem setBorrow_lending_cobbler (i : Nat) (x : Borrow) (s : State) : (setBorrow i x s).lending.cobbler = s.lending.cobbler := rfl
@[simp] theorem setBorrow_lending_lastBeat (i : Nat) (x : Borrow) (s : State) : (setBorrow i x s).lending.lastBeat = s.lending.lastBeat := rfl
@[simp] theorem setBorrow_lending_lastSent (i : Nat) (x : Borrow) (s : State) : (setBorrow i x s).lending.lastSent = s.lending.lastSent := rfl
@[simp] theorem setBorrow_lending_offers (i : Nat) (x : Borrow) (s : State) : (setBorrow i x s).lending.offers = s.lending.offers := rfl
@[simp] theorem setBorrow_lending_requests (i : Nat) (x : Borrow) (s : State) : (setBorrow i x s).lending.requests = s.lending.requests := rfl
@[simp] theorem setBorrow_lending_synced (i : Nat) (x : Borrow) (s : State) : (setBorrow i x s).lending.synced = s.lending.synced := rfl
@[simp] theorem setBorrow_lending_timeSet (i : Nat) (x : Borrow) (s : State) : (setBorrow i x s).lending.timeSet = s.lending.timeSet := rfl
@[simp] theorem setBorrow_lending_heldUntil (i : Nat) (x : Borrow) (s : State) : (setBorrow i x s).lending.heldUntil = s.lending.heldUntil := rfl
@[simp] theorem setBorrow_lending_anchors (i : Nat) (x : Borrow) (s : State) : (setBorrow i x s).lending.anchors = s.lending.anchors := rfl
@[simp] theorem setBorrow_lending_electCell (i : Nat) (x : Borrow) (s : State) : (setBorrow i x s).lending.electCell = s.lending.electCell := rfl
@[simp] theorem setBorrow_lending_deadAnchors (i : Nat) (x : Borrow) (s : State) : (setBorrow i x s).lending.deadAnchors = s.lending.deadAnchors := rfl
@[simp] theorem setBorrow_lending_electing (i : Nat) (x : Borrow) (s : State) : (setBorrow i x s).lending.electing = s.lending.electing := rfl

@[simp] theorem setQueue_me (q : Nat) (x : LaunchQueue) (s : State) : (setQueue q x s).me = s.me := rfl
@[simp] theorem setQueue_others (q : Nat) (x : LaunchQueue) (s : State) : (setQueue q x s).others = s.others := rfl
@[simp] theorem setQueue_tick (q : Nat) (x : LaunchQueue) (s : State) : (setQueue q x s).tick = s.tick := rfl
@[simp] theorem setQueue_kernel (q : Nat) (x : LaunchQueue) (s : State) : (setQueue q x s).kernel = s.kernel := rfl
@[simp] theorem setQueue_engines (q : Nat) (x : LaunchQueue) (s : State) : (setQueue q x s).engines = s.engines := rfl
@[simp] theorem setQueue_mem (q : Nat) (x : LaunchQueue) (s : State) : (setQueue q x s).mem = s.mem := rfl
@[simp] theorem setQueue_services (q : Nat) (x : LaunchQueue) (s : State) : (setQueue q x s).services = s.services := rfl
@[simp] theorem setQueue_nextSvc (q : Nat) (x : LaunchQueue) (s : State) : (setQueue q x s).nextSvc = s.nextSvc := rfl
@[simp] theorem setQueue_lending (q : Nat) (x : LaunchQueue) (s : State) : (setQueue q x s).lending = s.lending := rfl
@[simp] theorem setQueue_links (q : Nat) (x : LaunchQueue) (s : State) : (setQueue q x s).links = s.links := rfl
@[simp] theorem setQueue_failure (q : Nat) (x : LaunchQueue) (s : State) : (setQueue q x s).failure = s.failure := rfl
@[simp] theorem setQueue_power (q : Nat) (x : LaunchQueue) (s : State) : (setQueue q x s).power = s.power := rfl
@[simp] theorem setQueue_boot (q : Nat) (x : LaunchQueue) (s : State) : (setQueue q x s).boot = s.boot := rfl
@[simp] theorem setQueue_opLog (q : Nat) (x : LaunchQueue) (s : State) : (setQueue q x s).opLog = s.opLog := rfl
@[simp] theorem setQueue_agenda (q : Nat) (x : LaunchQueue) (s : State) : (setQueue q x s).agenda = s.agenda := rfl
@[simp] theorem setQueue_outbox (q : Nat) (x : LaunchQueue) (s : State) : (setQueue q x s).outbox = s.outbox := rfl
@[simp] theorem setQueue_fresh (q : Nat) (x : LaunchQueue) (s : State) : (setQueue q x s).fresh = s.fresh := rfl
@[simp] theorem setQueue_work_lastHandle (q : Nat) (x : LaunchQueue) (s : State) : (setQueue q x s).work.lastHandle = s.work.lastHandle := rfl
@[simp] theorem setQueue_work_rr (q : Nat) (x : LaunchQueue) (s : State) : (setQueue q x s).work.rr = s.work.rr := rfl
@[simp] theorem setQueue_work_opened (q : Nat) (x : LaunchQueue) (s : State) : (setQueue q x s).work.opened = s.work.opened := rfl
@[simp] theorem setQueue_work_launches (q : Nat) (x : LaunchQueue) (s : State) : (setQueue q x s).work.launches = s.work.launches := rfl
@[simp] theorem setQueue_work_acceptCount (q : Nat) (x : LaunchQueue) (s : State) : (setQueue q x s).work.acceptCount = s.work.acceptCount := rfl
@[simp] theorem setQueue_work_device (q : Nat) (x : LaunchQueue) (s : State) : (setQueue q x s).work.device = s.work.device := rfl
@[simp] theorem setQueue_work_graphRecs (q : Nat) (x : LaunchQueue) (s : State) : (setQueue q x s).work.graphRecs = s.work.graphRecs := rfl
@[simp] theorem setQueue_work_graphs (q : Nat) (x : LaunchQueue) (s : State) : (setQueue q x s).work.graphs = s.work.graphs := rfl
@[simp] theorem setQueue_work_replays (q : Nat) (x : LaunchQueue) (s : State) : (setQueue q x s).work.replays = s.work.replays := rfl
@[simp] theorem setQueue_work_blocks (q : Nat) (x : LaunchQueue) (s : State) : (setQueue q x s).work.blocks = s.work.blocks := rfl
@[simp] theorem setQueue_work_regions (q : Nat) (x : LaunchQueue) (s : State) : (setQueue q x s).work.regions = s.work.regions := rfl
@[simp] theorem setQueue_work_gangs (q : Nat) (x : LaunchQueue) (s : State) : (setQueue q x s).work.gangs = s.work.gangs := rfl
@[simp] theorem setQueue_work_ageCount (q : Nat) (x : LaunchQueue) (s : State) : (setQueue q x s).work.ageCount = s.work.ageCount := rfl
@[simp] theorem setQueue_work_master (q : Nat) (x : LaunchQueue) (s : State) : (setQueue q x s).work.master = s.work.master := rfl
@[simp] theorem setQueue_work_deputy (q : Nat) (x : LaunchQueue) (s : State) : (setQueue q x s).work.deputy = s.work.deputy := rfl
@[simp] theorem setQueue_work_mirror (q : Nat) (x : LaunchQueue) (s : State) : (setQueue q x s).work.mirror = s.work.mirror := rfl
@[simp] theorem setQueue_work_evicted (q : Nat) (x : LaunchQueue) (s : State) : (setQueue q x s).work.evicted = s.work.evicted := rfl
@[simp] theorem setQueue_work_heldAcks (q : Nat) (x : LaunchQueue) (s : State) : (setQueue q x s).work.heldAcks = s.work.heldAcks := rfl
@[simp] theorem setQueue_work_cpUnits (q : Nat) (x : LaunchQueue) (s : State) : (setQueue q x s).work.cpUnits = s.work.cpUnits := rfl
@[simp] theorem setQueue_work_generations (q : Nat) (x : LaunchQueue) (s : State) : (setQueue q x s).work.generations = s.work.generations := rfl
@[simp] theorem setQueue_work_contexts (q : Nat) (x : LaunchQueue) (s : State) : (setQueue q x s).work.contexts = s.work.contexts := rfl

@[simp] theorem goto_id (a : BitVec 52) (w : Nat) (f : Fragment) : (f.goto a w).id = f.id := rfl
@[simp] theorem goto_head (a : BitVec 52) (w : Nat) (f : Fragment) : (f.goto a w).head = f.head := rfl
@[simp] theorem goto_last (a : BitVec 52) (w : Nat) (f : Fragment) : (f.goto a w).last = f.last := rfl
@[simp] theorem goto_mask (a : BitVec 52) (w : Nat) (f : Fragment) : (f.goto a w).mask = f.mask := rfl
@[simp] theorem goto_parent (a : BitVec 52) (w : Nat) (f : Fragment) : (f.goto a w).parent = f.parent := rfl
@[simp] theorem goto_reconv (a : BitVec 52) (w : Nat) (f : Fragment) : (f.goto a w).reconv = f.reconv := rfl
@[simp] theorem goto_hdr (a : BitVec 52) (w : Nat) (f : Fragment) : (f.goto a w).hdr = a := rfl
@[simp] theorem goto_widx (a : BitVec 52) (w : Nat) (f : Fragment) : (f.goto a w).widx = w := rfl
@[simp] theorem goto_wait (a : BitVec 52) (w : Nat) (f : Fragment) : (f.goto a w).wait = .ready := rfl

end Sys2Proof.Laws
end

