-- ==== Sys2Proof/Laws/Values.lean ====
section
/-! SUPPORT. Tagged values in one thread: whatever its tag, a result is its function of the operands in every thread (02
R25, R28, R29). -/

namespace Sys2Proof.Laws

open Sys2Proof Sys2Proof.Machine

theorem gOf_at (f : Fin 32 → Word) (t : Fin 32) : (gOf f).at t = f t := by simp [gOf, RegVal.at]

theorem at_of_isU (v : RegVal) (h : v.isU = true) (t u : Fin 32) : v.at t = v.at u := by
  cases v <;> simp_all [RegVal.isU, RegVal.at]

/-- Operands that are all U have one value. -/
theorem opnd_of_allU (vals : List RegVal) (h : vals.all RegVal.isU = true) (n : Nat) (t u : Fin 32) :
    opnd vals n t = opnd vals n u := by
  unfold opnd
  by_cases hn : n < vals.length
  · have := List.all_eq_true.mp h (vals.getD n (.u 0)) (by simp [List.getD, hn])
    exact at_of_isU _ this t u
  · simp [List.getD, List.getElem?_eq_none (Nat.le_of_not_lt hn), RegVal.at]

/-- A result by the last rows of 02 R28, in a thread, when it depends on the operands in the thread alone. -/
theorem byTags_at (srcs : List RegVal) (f : Fin 32 → Word) (t : Fin 32)
    (h : srcs.all RegVal.isU = true → f 0 = f t) : (byTags srcs f).at t = f t := by
  unfold byTags
  split
  · exact h ‹_›
  · exact gOf_at f t

theorem map_at_of_allU (vals : List RegVal) (h : vals.all RegVal.isU = true) (t u : Fin 32) :
    vals.map (fun v => v.at t) = vals.map (fun v => v.at u) := by
  apply List.map_congr_left
  intro v hv
  exact at_of_isU v (List.all_eq_true.mp h v hv) t u

theorem bin_at (f : Word → Word → Word) (s : State) (vals : List RegVal) (t : Fin 32) :
    (bin f s vals).1.at t = f (opnd vals 0 t) (opnd vals 1 t) :=
  byTags_at _ _ _ (fun h => by rw [opnd_of_allU vals h 0 0 t, opnd_of_allU vals h 1 0 t])

theorem un_at (f : Word → Word) (s : State) (vals : List RegVal) (t : Fin 32) :
    (un f s vals).1.at t = f (opnd vals 0 t) :=
  byTags_at _ _ _ (fun h => by rw [opnd_of_allU vals h 0 0 t])

theorem perThread_at (f : List Word → Word) (s : State) (vals : List RegVal) (t : Fin 32) :
    (perThread f s vals).1.at t = f (vals.map (fun v => v.at t)) :=
  byTags_at _ _ _ (fun h => by rw [map_at_of_allU vals h 0 t])

theorem perThreadF_at (f : State → List Word → Nat × FlagSet) (s : State) (vals : List RegVal) (t : Fin 32) :
    (perThreadF f s vals).1.at t = BitVec.ofNat 32 (f s (vals.map (fun v => v.at t))).1 :=
  byTags_at _ _ _ (fun h => by simp only [map_at_of_allU vals h 0 t])

/-! ### Affine results (02 R28, R29) -/

theorem addVal_at (a b : RegVal) (t : Fin 32) : (addVal a b).at t = a.at t + b.at t := by
  have key : ∀ a b : RegVal, (byTags [a, b] (fun t => a.at t + b.at t)).at t = a.at t + b.at t := fun a b =>
    byTags_at _ _ _ (fun h => by
      simp only [List.all_cons, List.all_nil, Bool.and_true, Bool.and_eq_true] at h
      rw [at_of_isU a h.1 0 t, at_of_isU b h.2 0 t])
  unfold addVal
  split
  · simp only [RegVal.at]; rw [BitVec.mul_add]; ac_rfl
  · simp only [RegVal.at]; ac_rfl
  · simp only [RegVal.at]; ac_rfl
  · exact key a b

theorem subVal_at (a b : RegVal) (t : Fin 32) : (subVal a b).at t = a.at t - b.at t := by
  have key : ∀ a b : RegVal, (byTags [a, b] (fun t => a.at t - b.at t)).at t = a.at t - b.at t := fun a b =>
    byTags_at _ _ _ (fun h => by
      simp only [List.all_cons, List.all_nil, Bool.and_true, Bool.and_eq_true] at h
      rw [at_of_isU a h.1 0 t, at_of_isU b h.2 0 t])
  unfold subVal
  split
  · simp only [RegVal.at, BitVec.sub_eq_add_neg, BitVec.mul_add, BitVec.mul_neg, BitVec.neg_add]; ac_rfl
  · simp only [RegVal.at, BitVec.sub_eq_add_neg]; ac_rfl
  · simp only [RegVal.at, BitVec.sub_eq_add_neg, BitVec.mul_add, BitVec.mul_neg, BitVec.neg_add]; simp; ac_rfl
  · exact key a b

theorem mulVal_at (a b : RegVal) (t : Fin 32) : (mulVal a b).at t = a.at t * b.at t := by
  have key : ∀ a b : RegVal, (byTags [a, b] (fun t => a.at t * b.at t)).at t = a.at t * b.at t := fun a b =>
    byTags_at _ _ _ (fun h => by
      simp only [List.all_cons, List.all_nil, Bool.and_true, Bool.and_eq_true] at h
      rw [at_of_isU a h.1 0 t, at_of_isU b h.2 0 t])
  unfold mulVal
  split
  · simp only [RegVal.at, BitVec.add_mul]; ac_rfl
  · simp only [RegVal.at, BitVec.mul_add]; ac_rfl
  · exact key a b

theorem shlW_eq_mul (x k : Word) : shlW x k = x * BitVec.ofNat 32 (2 ^ k.toNat) := by
  unfold shlW
  apply BitVec.eq_of_toNat_eq
  split
  · rename_i h
    have : 2 ^ k.toNat % 2 ^ 32 = 0 := Nat.mod_eq_zero_of_dvd (Nat.pow_dvd_pow 2 h)
    simp only [BitVec.toNat_mul, BitVec.toNat_ofNat, this]
    simp
  · simp only [BitVec.toNat_shiftLeft, BitVec.toNat_mul, BitVec.toNat_ofNat, Nat.shiftLeft_eq, Nat.mul_mod_mod]

theorem shlVal_at (a b : RegVal) (t : Fin 32) : (shlVal a b).at t = shlW (a.at t) (b.at t) := by
  unfold shlVal
  split
  · simp only [RegVal.at, shlW_eq_mul, BitVec.add_mul]; ac_rfl
  · exact byTags_at _ _ _ (fun h => by
      simp only [List.all_cons, List.all_nil, Bool.and_true, Bool.and_eq_true] at h
      rw [at_of_isU _ h.1 0 t, at_of_isU _ h.2 0 t])

theorem leaVal_at (sh : Nat) (a b : RegVal) (t : Fin 32) :
    (leaVal sh a b).at t = a.at t + shlW (b.at t) (BitVec.ofNat 32 sh) := by
  unfold leaVal
  split
  · rfl
  · exact gOf_at _ t
  · exact gOf_at _ t
  · rw [addVal_at, shlVal_at]; rfl

end Sys2Proof.Laws
end

