-- ==== Sys2Proof/Tests/Slice0.lean ====
section
/-! SUPPORT. Tests of this model: terms that `wellFormed` refuses, words decoded, small steps whose results come from the
spec's examples, and for each statement a state and operands that meet its hypotheses. -/

namespace Sys2Proof.Tests

open Sys2Proof Sys2Proof.Machine Sys2Proof.Claims

/- One theorem after the other: each waits for the kernel, and together they would hold a thread each. -/
set_option Elab.async false

/-- The state after reset with an instruction where the next step fetches it. -/
def ready (i : Instr) : State := placeWord State.reset ((encodeWords i).headD 0) ((encodeWords i).getD 1 0)

/-! ### Witnesses of the statements about register instructions -/

theorem witness_IntegerArithmetic_IntegerBits :
    ops01.all (fun mk => let i := mk 1 false (.reg 2) (.int 3)
      executes (vecNeed i 1 [.reg 2, .int 3]) (ready i)) = true := by decide +kernel

theorem witness_IntegerUnary :
    ops02.all (fun mk => let i := mk 63 true (.neg 7)
      executes (vecNeed i 63 [.neg 7]) (ready i)) = true := by decide +kernel

theorem witness_IntegerThreeAndImmediate :
    [Instr.imad, Instr.bfi].all (fun mk => let i := mk 1 false (.reg 2) .tid (.latch 3)
      executes (vecNeed i 1 [.reg 2, .tid, .latch 3]) (ready i)) = true ∧
    executes (vecNeed (.sel 1 false (.reg 2) (.int 1) 7) 1 [.reg 2, .int 1]) (ready (.sel 1 false (.reg 2) (.int 1) 7)) = true ∧
    executes (vecNeed (.lea 1 false (.reg 2) (.int 1) 4) 1 [.reg 2, .int 1]) (ready (.lea 1 false (.reg 2) (.int 1) 4)) = true ∧
    [Instr.iaddi, Instr.andi, Instr.ori, Instr.xori].all (fun mk => let i := mk 1 false (.reg 2) 0x800
      executes (vecNeed i 1 [.reg 2]) (ready i)) = true ∧
    executes (vecNeed (.movi 0 false 0xFFF) 0 []) (ready (.movi 0 false 0xFFF)) = true ∧
    executes (vecNeed (.lit 0 false 0xFFFFFFFF) 0 []) (ready (.lit 0 false 0xFFFFFFFF)) = true := by decide +kernel

theorem witness_IntegerPairs :
    [Instr.iadd64, .isub64, .shl64, .shr64, .sar64, .imul64].all (fun mk => let i := mk 62 false 0 2
      executes (pairNeed i 62 [0, nextReg 0 1, 2, nextReg 2 1] []) (ready i)) = true ∧
    [Instr.mulw, .nmulw].all (fun mk => let i := mk 62 false 0 2
      executes (pairNeed i 62 [0, 2] []) (ready i)) = true ∧
    executes (pairNeed (.lea64 4 false 2 (.reg 0) 3) 4 [2, nextReg 2 1] [.reg 0]) (ready (.lea64 4 false 2 (.reg 0) 3)) = true := by
  decide +kernel

theorem witness_ComparesAndPredicates :
    [Instr.icmp, .ncmp].all (fun mk => let i := mk 0 .set (.reg 0) (.int 0) .ge
      executes (predNeed i [] [.reg 0, .int 0]) (ready i)) = true ∧
    ops0F.all (fun mk => let i := mk 6 7 0
      executes (predNeed i [] []) (ready i)) = true ∧
    executes (predNeed (.pnot 1 7) [] []) (ready (.pnot 1 7)) = true ∧
    executes (predNeed (.ptest 1 (.reg 0)) [] [.reg 0]) (ready (.ptest 1 (.reg 0))) = true ∧
    executes (vecNeed (.pget 1 false 7) 1 []) (ready (.pget 1 false 7)) = true := by decide +kernel

theorem witness_ResultTags :
    [Instr.iadd, .isub, .imul, .shl, .and, .saff, .sbcast, .xchRot].all (fun mk => let i := mk 1 false (.reg 2) .tid
      executes (vecNeed i 1 [.reg 2, .tid]) (ready i) && (ready i).me.cur.mask == BitVec.allOnes 32) = true ∧
    executes (vecNeed (.mov 1 false .tid) 1 [.tid, .reg 0]) (ready (.mov 1 false .tid)) = true ∧
    executes (vecNeed (.lea 1 false .tid .tid 2) 1 [.tid, .tid]) (ready (.lea 1 false .tid .tid 2)) = true := by
  decide +kernel

theorem witness_FloatArithmetic :
    ops10.all (fun mk => let i := mk 1 false (.reg 2) (.flt 3) .bf16x2
      executes (vecNeed i 1 [.reg 2, .flt 3]) (ready i)) = true ∧
    [Instr.ffma, .hfma, .bfma].all (fun mk => let i := mk 1 false (.reg 2) (.flt 3) (.reg 27)
      executes (vecNeed i 1 [.reg 2, .flt 3, .reg 27]) (ready i)) = true := by decide +kernel

theorem witness_FloatUnary_FloatApproximated :
    ops14.all (fun mk => let i := mk 1 false (.reg 2)
      executes (vecNeed i 1 [.reg 2]) (ready i)) = true ∧ (0x7F800001 : Nat) % 2 ^ 31 > 0x7F800000 := by decide +kernel

theorem witness_FloatCompares :
    executes (predNeed (.fcmp 6 .or (.reg 1) (.flt 0) .uno) [] [.reg 1, .flt 0]) (ready (.fcmp 6 .or (.reg 1) (.flt 0) .uno)) = true ∧
    executes (predNeed (.fcmpF64 0 .set 2 4 .lt) [2, nextReg 2 1, 4, nextReg 4 1] []) (ready (.fcmpF64 0 .set 2 4 .lt)) = true := by
  decide +kernel

theorem witness_FloatDouble :
    ops19.all (fun mk => let i := mk 2 false 4 62
      executes (pairNeed i 2 [4, nextReg 4 1, 62, nextReg 62 1] []) (ready i)) = true ∧
    executes (pairNeed (.dfma 2 false 4 6 26) 2 [4, nextReg 4 1, 6, nextReg 6 1, 26, nextReg 26 1] [])
      (ready (.dfma 2 false 4 6 26)) = true := by decide +kernel

theorem witness_FloatConversions :
    [Instr.fcvt 1 false (.reg 2) .f32 .e4m3 .ne 3, .fcvt 1 false (.reg 2) .f32 .f32 .z 0, .fcvt 1 false (.reg 2) .n8 .n8 .up 0,
      .fcvt 1 false (.reg 2) .i8 .i8 .ne 0, .fcvt 1 false (.reg 2) .i4 .i4 .ne 0, .funpk 1 false (.reg 2) .bf16 1].all (fun i =>
      executes (vecNeed i 1 [.reg 2]) (ready i)) = true ∧
    executes (vecNeed (.fpack 1 false (.reg 2) .tid .i4 true) 1 [.reg 2, .tid]) (ready (.fpack 1 false (.reg 2) .tid .i4 true)) = true := by
  decide +kernel

/-- The state of `ready` with its fragment under another that it must join again. -/
def nested (i : Instr) : State :=
  modMe (fun st => { st with cur := { st.cur with parent := some 5, mask := 0xF0 } }) (ready i)

theorem witness_ShapesAndMasks :
    [Instr.sbcast, .saff].all (fun mk => let i := mk 1 false .tid (.int 7)
      executes (vecNeed i 1 [.tid, .int 7]) (ready i)) = true ∧
    [Instr.sgen, .stag, .mov, .ballot].all (fun mk => let i := mk 1 false .tid
      executes (vecNeed i 1 [.tid]) (ready i)) = true ∧
    executes (vecNeed (.xmrd 1 false) 1 []) (ready (.xmrd 1 false)) = true ∧
    executes { words := encodeWords (.xmwr (.int 15)), sels := [.int 15] } (nested (.xmwr (.int 15))) = true ∧
    (nested (.xmwr (.int 15))).me.cur.parent.isSome = true := by decide +kernel

theorem witness_ShufflesAndReductions :
    ops1C2.all (fun mk => let i := mk 1 false .tid (.int 7)
      executes (vecNeed i 1 [.tid, .int 7]) (ready i)) = true ∧
    ops1C1.all (fun mk => let i := mk 1 false .tid
      executes (vecNeed i 1 [.tid]) (ready i)) = true := by decide +kernel

/-- The state of `ready` with predicate 0 set in threads 0 to 3 and `w2` in pairs that name two addresses. -/
def split (i : Instr) : State :=
  modMe (fun st => { st with
    preds := vset st.preds 0 0xF
    regs := vset (vset st.regs 2 (.a 0x100 4)) 4 (.u 0x400) }) (ready i)

theorem witness_Branches :
    [Instr.br 7 false 1, .br 7 true 1, .brAll 7 false 0x3FFF, .brd 0 false 4 3].all (fun i =>
      transfers (plainNeed i [] []) (split i)) = true ∧
    condIn (split (.brd 0 false 4 3)) 0 false 3 = true ∧ condIn (split (.brd 0 false 4 3)) 0 false 4 = false ∧
    activeIn (split (.brd 0 false 4 3)) 3 = true ∧ activeIn (split (.brd 0 false 4 3)) 4 = true := by decide +kernel

theorem witness_CallsAndJumps :
    transfers (plainNeed (.call 0x1000) [] []) (ready (.call 0x1000)) = true ∧
    (transfers (plainNeed .ret [] []) (ready .ret) = true ∧ (ready .ret).me.lr.toNat % 4 = 0) ∧
    (transfers (plainNeed (.jr 2) [2, nextReg 2 1] []) (split (.jr 2)) = true ∧
      (pairAt (split (.jr 2)) 2 (lowest (split (.jr 2)).me.cur.mask)).toNat = 0x100) ∧
    (transfers (plainNeed (.jrd 2 4) [2, nextReg 2 1, 4, nextReg 4 1] []) (split (.jrd 2 4)) = true ∧
      (∀ th, (pairAt (split (.jrd 2 4)) 2 th).toNat % 4 = 0 ∧ (pairAt (split (.jrd 2 4)) 2 th).toNat < 2 ^ 52) ∧
      pairAt (split (.jrd 2 4)) 2 1 ≠ pairAt (split (.jrd 2 4)) 2 0 ∧
      (pairAt (split (.jrd 2 4)) 4 0).toNat = 0x400) := by decide +kernel

/-! ### Witnesses of the statements about control and system instructions -/

/-- A user handler at 0x2000. -/
def handled (i : Instr) : State :=
  modMe (fun st => { st with trap := { st.trap with tvec := 0x2000 } }) (ready i)

/-- A fault-queue ring of 64 entries at address 0 of the pool. -/
def ringed (s : State) : State := { s with kernel := { s.kernel with fqbh := 0x200, fqsize := 6 } }

/-- An operation without accesses. -/
def anOp (what : OpKind) (owner : StrandId) : Op :=
  { id := 7, owner := owner, frag := 0, die := 0, core := 0, what := what, dst := 9, scope := .die, gate := false, holds := true,
    uniform := false, full := false, remote := false, switchHeld := false, windowed := false, shared := none, pc := 0,
    widx := 1, word := 0, head := 0, mode := 0, accs := [] }

/-- An outstanding load of the strand. -/
def loadOut (s : State) : State :=
  { s with mem := { s.mem with ops := [anOp (.load .w) s.me.who.id] } }

theorem witness_NopYieldTfence :
    [Instr.nop, .yield, .tfence].all (fun i => executes (plainNeed i [] []) (ready i)) = true ∧
    tfWaits (ready .tfence) = false ∧ trapFlags (ready .tfence).me = 0 ∧
    (executes (plainNeed .tfence [] []) (loadOut (ready .tfence)) = true ∧ tfWaits (loadOut (ready .tfence)) = true) := by
  decide +kernel

theorem witness_ExitEndsThreads :
    transfers { plainNeed .exit [] [] with releasing := true } (ready .exit) = true ∧
    isPaired (ready .exit) (ready .exit).me = false ∧ stagedOwed (ready .exit) (ready .exit).me.who.id = false ∧
    (ready .exit).me.frags = [] ∧ (ready .exit).me.serials = [] ∧ inFlight (ready .exit) (ready .exit).me.who.id = 0 := by
  decide +kernel

theorem witness_BreakEntersHandler :
    (executes { plainNeed (.trap (.int 9)) [] [.int 9] with acts := true } (handled (.trap (.int 9))) = true ∧
      delivers (handled (.trap (.int 9))) = true) ∧
    (executes { plainNeed .brkpt [] [] with acts := true } (handled .brkpt) = true ∧ 
      delivers (handled .brkpt) = true ∧
      (handled .brkpt).boot.armed.contains (handled .brkpt).me.place.lane = false) ∧
    (∃ s : State, executes { plainNeed .brkpt [] [] with acts := true } s = true ∧
      s.boot.armed.contains s.me.place.lane = true) :=
  ⟨by decide +kernel, by decide +kernel,
    ⟨{ ready .brkpt with boot := { (ready .brkpt).boot with armed := [.vec 0 0] } }, by decide +kernel⟩⟩

/-- The handler is active. -/
def inHandler (s : State) : State :=
  modMe (fun st => { st with trap := { st.trap with tcause := 0x80000005 }, handler := some 0 }) s

theorem witness_EretReturns :
    transfers (plainNeed .eret [] []) (inHandler (ready .eret)) = true ∧ handlerActive (inHandler (ready .eret)).me = true := by
  decide +kernel

theorem witness_NapWaitsForTick :
    (executes { plainNeed (.nap (.int 9)) [] [.int 9] with blocking := true } (ready (.nap (.int 9))) = true ∧
      loW 9 = operand (ready (.nap (.int 9))) [.int 9] 0 0 ∧ (ready (.nap (.int 9))).tick.toNat < (9 : DWord).toNat) ∧
    (executes { plainNeed (.nap (.int 0)) [] [.int 0] with blocking := true } (ready (.nap (.int 0))) = true ∧
      loW 0 = operand (ready (.nap (.int 0))) [.int 0] 0 0 ∧ (ready (.nap (.int 0))).tick.toNat = 0 ∧
      (ready (.nap (.int 0))).engines.missed = [] ∧ (ready (.nap (.int 0))).engines.undecided = []) := by decide +kernel

theorem witness_RoleSwitches :
    let i : Instr := .role (.int 0)
    let s := ready i
    ∃ l r, executes (plainNeed i [] [.int 0]) s = true ∧ s.me.place.isCtl = false ∧
      findLaunch s s.me.who.id.handle = some l ∧ (operand s [.int 0] 0 (lowest s.me.cur.mask)).toNat ≤ l.record.nrole ∧
      l.roles[0]? = some r ∧ r.v ≤ l.record.vmax ∧ r.g ≤ l.record.gmax ∧ r.v - r.g ≤ l.record.spill ∧
      s.me.all.length = 1 ∧ s.me.allotV ≤ r.v :=
  ⟨codeLaunch State.reset, ⟨BitVec.ofNat 52 codeAt, 64, 64, 0⟩, by decide +kernel⟩

/-- A function number in `v3`. -/
def calls (i : Instr) (n : Word) : State := modMe (fun st => { st with regs := vset st.regs 3 (.u n) }) (ready i)

theorem witness_SystemCalls :
    let i : Instr := .sysc 1 false (.reg 3) 4
    (executes (syscNeed 1 false (.reg 3) 4) (ringed (calls i 0xFF)) = true ∧ hasRing (ringed (calls i 0xFF)) = true ∧
      ringRoom (ringed (calls i 0xFF)) = true ∧ (ringed (calls i 0xFF)).kernel.waitingFaults = [] ∧ (operand (ringed (calls i 0xFF)) [.reg 3] 0 0).toNat % 4096 < 0x100) ∧
    (executes (syscNeed 1 false (.reg 3) 4) (calls i 0x100) = true ∧ isKernel (calls i 0x100) (calls i 0x100).me = true ∧
      (svcOf ((operand (calls i 0x100) [.reg 3] 0 0).toNat % 4096)).isSome = true ∧
      outLoads (calls i 0x100) (calls i 0x100).me.who.id < 63) ∧
    (executes (syscNeed 1 false (.reg 3) 4) (calls i 0xFFF) = true ∧ isKernel (calls i 0xFFF) (calls i 0xFFF).me = true ∧
      0x100 ≤ (operand (calls i 0xFFF) [.reg 3] 0 0).toNat % 4096 ∧ svcOf ((operand (calls i 0xFFF) [.reg 3] 0 0).toNat % 4096) = none) := by decide +kernel

theorem witness_RdsrReads_WrsrWrites :
    [SReg.fcr, .tick, .psf, .params, .pksel, .fqcons].all (fun r => let i : Instr := .rdsr 1 false r
      executes (rdsrNeed (ready i) 1 false r) (ready i)) = true ∧
    [SReg.fcr, .tvech, .wdl, .rootl, .winA 7, .kctx, .qctx 15, .fqcons].all (fun r => let i : Instr := .wrsr (.int 1) r
      executes (wrsrNeed (ready i) (.int 1) r) (ready i) && r.writable && tablesRise (ready i)) = true ∧
    [SReg.hoff 7, .mcnan].all (fun r => let i : Instr := .wrsr (.int 1) r
      executes (wrsrNeed (ready i) (.int 1) r) { ready i with me := { controlStrand (codeLaunch State.reset) 0 0 0 false with
        cur := (ready i).me.cur } } && r.writable) = true := by decide +kernel

/-- A report of a cause met by an instruction. -/
def aReport (c : Cause) : Report := { cause := c, detail := 255, addr := 0x1234, threads := 1 }

theorem witness_HandlerCauses :
    (toHandler (aReport .alignment).cause = true ∧ (aReport .alignment).after = false ∧ (aReport .alignment).defer = false ∧
      (aReport .alignment).detail < 256) ∧
    ((handled .nop).me.halted = false ∧ delivers (handled .nop) = true) ∧
    (∃ s : State, s.me.halted = true) ∧
    (∃ s : State, s.me.halted = false ∧ handlerActive s.me = true ∧ s.me.handler ≠ some s.me.cur.id) ∧
    (∃ s : State, s.me.halted = false ∧ handlerActive s.me = true ∧ s.me.handler = some s.me.cur.id ∧
      hasRing s = true ∧ ringRoom s = true ∧ s.kernel.waitingFaults = []) ∧
    (∃ s : State, s.me.halted = false ∧ handlerActive s.me = false ∧ posAddr (tvecOf s.me) = 0 ∧
      hasRing s = true ∧ ringRoom s = true ∧ s.kernel.waitingFaults = []) :=
  ⟨by decide +kernel, by decide +kernel, ⟨modMe (fun st => { st with halted := true }) (ready .nop), rfl⟩,
    ⟨modMe (fun st => { st with handler := some 3 }) (inHandler (ready .nop)), by decide +kernel⟩,
    ⟨ringed (inHandler (ready .nop)), by decide +kernel⟩, ⟨ringed (ready .nop), by decide +kernel⟩⟩

theorem witness_KernelCausesPark :
    toHandler (aReport .translation).cause = false ∧ hasRing (ready .nop) = false ∧
    (hasRing (ringed (ready .nop)) = true ∧ ringRoom (ringed (ready .nop)) = true ∧
      (ringed (ready .nop)).kernel.waitingFaults = []) ∧
    ∃ s : State, hasRing s = true ∧ ringRoom s = false :=
  ⟨by decide +kernel, by decide +kernel, by decide +kernel,
    ⟨{ ringed (ready .nop) with kernel := { (ringed (ready .nop)).kernel with fqprod := 64 } }, by decide +kernel⟩⟩

/-- A state whose strand's address context has KCTX = 0. -/
def userly (s : State) : State := modMe (fun st => { st with who := { st.who with context := 1 } }) s

theorem witness_PrivilegeRaised :
    (isKernelReg .fqcons = true ∧ isKernel (userly (handled (.rdsr 1 false .fqcons))) (userly (handled (.rdsr 1 false .fqcons))).me = false ∧
      comesToIssue (rdsrNeed (userly (handled (.rdsr 1 false .fqcons))) 1 false .fqcons) (userly (handled (.rdsr 1 false .fqcons))) = true ∧
      delivers (userly (handled (.rdsr 1 false .fqcons))) = true) ∧
    comesToIssue (wrsrNeed (userly (handled (.wrsr (.int 1) .kctx))) (.int 1) .kctx) (userly (handled (.wrsr (.int 1) .kctx))) = true ∧
    (let s := userly (modMe (fun st => { st with trap := { st.trap with tvec := 0x2000 } }) (calls (.sysc 1 false (.reg 3) 4) 0x11F))
     isKernel s s.me = false ∧ comesToIssue (syscNeed 1 false (.reg 3) 4) s = true ∧ delivers s = true ∧
       (3 : Reg).toNat < s.me.allotV ∧ regBusy s s.me.who.id 3 = false ∧
       ((reg s 3).at (lowest s.me.cur.mask)).toNat % 4096 = 0x100 + (31 : BitVec 5).toNat) := by decide +kernel

theorem witness_MisusesRaised :
    (∃ s : State, transfers (plainNeed .ret [] []) s = true ∧ delivers s = true ∧ s.me.lr.toNat % 4 ≠ 0) ∧
    (∃ s : State, transfers (plainNeed (.jr 2) [2, nextReg 2 1] []) s = true ∧ delivers s = true ∧
      (pairAt s 2 (lowest s.me.cur.mask)).toNat % 4 ≠ 0) ∧
    (∃ s : State, transfers (plainNeed (.jr 2) [2, nextReg 2 1] []) s = true ∧
      (pairAt s 2 (lowest s.me.cur.mask)).toNat % 4 = 0 ∧ 2 ^ 52 ≤ (pairAt s 2 (lowest s.me.cur.mask)).toNat) ∧
    (let i : Instr := .xmwr (.int 1)
     executes (plainNeed i [] [.int 1]) (handled i) = true ∧ delivers (handled i) = true ∧ selPops [.int 1] = [] ∧
       (handled i).me.cur.parent = none ∧ (handled i).me.serials = [] ∧
       ((handled i).me.cur.mask &&& operand (handled i) [.int 1] 0 (lowest (handled i).me.cur.mask)) ≠ 0 ∧
       ((handled i).me.cur.mask &&& operand (handled i) [.int 1] 0 (lowest (handled i).me.cur.mask)) ≠
         (handled i).me.cur.mask) ∧
    (transfers (plainNeed .eret [] []) (handled .eret) = true ∧ handlerActive (handled .eret).me = false ∧
      delivers (handled .eret) = true) ∧
    (∃ s : State, executes (plainNeed (.role (.int 1)) [] [.int 1]) s = true ∧ delivers s = true ∧ selPops [.int 1] = [] ∧
      s.me.place.isCtl = true) ∧
    (∃ s : State, comesToIssue (vecNeed (.mov 1 false (.reg 40)) 1 [.reg 40]) s = true ∧ delivers s = true ∧
      (1 : Reg).toNat < s.me.allotV ∧ s.me.allotV ≤ (40 : Reg).toNat) ∧
    (∃ s : State, comesToIssue (vecNeed (.mov 40 false (.reg 1)) 40 [.reg 1]) s = true ∧ delivers s = true ∧
      s.me.allotV ≤ (40 : Reg).toNat) :=
  ⟨⟨modMe (fun st => { st with lr := 2 }) (handled .ret), by decide +kernel⟩,
    ⟨modMe (fun st => { st with regs := vset st.regs 2 (.u 3) }) (handled (.jr 2)), by decide +kernel⟩,
    ⟨modMe (fun st => { st with regs := vset st.regs 3 (.u 0x100000) }) (handled (.jr 2)), by decide +kernel⟩,
    by decide +kernel, by decide +kernel,
    ⟨modMe (fun st => { st with place := .ctl 0 0 }) (handled (.role (.int 1))), by decide +kernel⟩,
    ⟨modMe (fun st => { st with allotV := 40 }) (handled (.mov 1 false (.reg 40))), by decide +kernel⟩,
    ⟨modMe (fun st => { st with allotV := 40 }) (handled (.mov 40 false (.reg 1))), by decide +kernel⟩⟩

theorem witness_EmptyMaskDoesNothing :
    ∃ s : State, mayIssue s = true ∧ s.me.cur.begun = .no ∧ misplaced (vecNeed (.mov 1 false .tid) 1 [.tid]) s = false ∧
      s.me.cur.mask = 0 ∧ regsHeld (vecNeed (.mov 1 false .tid) 1 [.tid]) s = false ∧
      regsHeld (vecNeed (.mov 1 false .tid) 1 [.tid]) { s with mem := { s.mem with
        ops := [{ anOp (.load .w) (ready .nop).me.who.id with dst := 1 }] } } = true :=
  ⟨modMe (fun st => { st with cur := { st.cur with mask := 0, parent := some 5 } }) (ready (.mov 1 false .tid)), by decide +kernel⟩

/-! ### Witnesses of the statements about memory instructions -/

/-- Whether every active thread's address is aligned and resolves. -/
def aims (s : State) (cls : AccClass) (size : Nat) (va : Fin 32 → DWord) : Bool :=
  (List.finRange 32).all (fun th => decide ((va th).toNat % size = 0) && translates s (va th) &&
    (match resolve s s.me.place.agent s.me.who.context cls size (va th) with
     | .ok _ _ _ => true
     | _ => false))

/-- What a resolved address comes to. -/
def landing (s : State) (cls : AccClass) (size : Nat) (x : DWord) : Nat × DWord :=
  match resolve s s.me.place.agent s.me.who.context cls size x with
  | .ok f l _ => (f, l)
  | _ => (0, 0)

theorem resolves_of_aims {s : State} {cls : AccClass} {size : Nat} {va : Fin 32 → DWord} (h : aims s cls size va = true) :
    ∃ fab leaf, Resolves s cls size va fab leaf := by
  refine ⟨fun th => (landing s cls size (va th)).1, fun th => (landing s cls size (va th)).2, fun th _ => ?_⟩
  have := List.all_eq_true.mp h th (List.mem_finRange th)
  simp only [Bool.and_eq_true, decide_eq_true_eq] at this
  refine ⟨this.1.1, this.1.2, ?_⟩
  simp only [landing]
  cases hr : resolve s s.me.place.agent s.me.who.context cls size (va th) with
  | ok f l k => exact ⟨k, rfl⟩
  | bad => simp [hr] at this

/-- The same where what each thread's address comes to has a property. -/
theorem resolves_with {s : State} {cls : AccClass} {size : Nat} {va : Fin 32 → DWord} (p : Nat → DWord → Bool)
    (h : aims s cls size va = true)
    (hp : (List.finRange 32).all (fun th => p (landing s cls size (va th)).1 (landing s cls size (va th)).2) = true) :
    ∃ fab leaf, Resolves s cls size va fab leaf ∧ ∀ th, p (fab th) (leaf th) = true := by
  refine ⟨fun th => (landing s cls size (va th)).1, fun th => (landing s cls size (va th)).2, fun th _ => ?_,
    fun th => List.all_eq_true.mp hp th (List.mem_finRange th)⟩
  have := List.all_eq_true.mp h th (List.mem_finRange th)
  simp only [Bool.and_eq_true, decide_eq_true_eq] at this
  refine ⟨this.1.1, this.1.2, ?_⟩
  simp only [landing]
  cases hr : resolve s s.me.place.agent s.me.who.context cls size (va th) with
  | ok f l k => exact ⟨k, rfl⟩
  | bad => simp [hr] at this

/-- Whether the one request of an instruction is aligned and resolves. -/
def aimsOnce (s : State) (cls : AccClass) (size : Nat) (a : Reg) : Bool :=
  decide ((onceVa s a).toNat % size = 0) && translates s (onceVa s a) && (match resolve s s.me.place.agent s.me.who.context cls size (onceVa s a) with
    | .ok _ _ _ => true
    | _ => false)

theorem resolvesOnce_of_aims {s : State} {cls : AccClass} {size : Nat} {a : Reg} (h : aimsOnce s cls size a = true) :
    ∃ fab leaf, ResolvesOnce s cls size a fab leaf := by
  simp only [aimsOnce, Bool.and_eq_true, decide_eq_true_eq] at h
  cases hr : resolve s s.me.place.agent s.me.who.context cls size (onceVa s a) with
  | ok f l k => exact ⟨f, l, h.1.1, h.1.2, k, hr⟩
  | bad => simp [hr] at h

/-- A leaf of another KIND over the page of the code, with range descriptor 0 as given. -/
def kindPage (kind desc : Nat) (s : State) : State :=
  poke 0x400000 (leBytes 8 desc) (poke (codeRoot + 0x30000 + 8 * levelIndex 1 codeAt) (leBytes 8 (codeFrame + 0x1F + 64 * kind))
    { s with kernel := { s.kernel with crdl := 0x400000 } })

/-- `w10` names the last 16 bytes of the code page. -/
def globbed (i : Instr) : State :=
  modMe (fun st => { st with regs := vset (vset st.regs 10 (.u 0xFFF0)) 11 (.u 1) }) (ready i)

/-- Counters of outstanding operations leave room. -/
def roomy (s : State) : Bool :=
  decide (outLoads s s.me.who.id < 63) && decide (outStores s s.me.who.id < 63) && decide (inFlight s s.me.who.id < 63)
    && !isPaired s s.me

theorem someD {α : Type} {o : Option α} (h : o.isSome = true) (d : α) : o = some (o.getD d) := by
  cases o with
  | none => simp at h
  | some x => rfl

/-- Whether every active thread's die-space address is aligned and granted. -/
def aimsDie (s : State) (write : Bool) (size : Nat) (va : Fin 32 → DWord) : Bool :=
  (List.finRange 32).all (fun th => decide ((va th).toNat % size = 0) &&
    (resolveDie s s.me.who.context size write (va th)).isSome)

theorem resolvesDie_of_aims {s : State} {write : Bool} {size : Nat} {va : Fin 32 → DWord}
    (h : aimsDie s write size va = true) : ∃ fab leaf, ResolvesDie s write size va fab leaf := by
  refine ⟨fun th => (resolveDie s s.me.who.context size write (va th)).getD 0, fun _ => 0, fun th _ => ?_⟩
  have := List.all_eq_true.mp h th (List.mem_finRange th)
  simp only [Bool.and_eq_true, decide_eq_true_eq] at this
  exact ⟨this.1, rfl, someD this.2 0⟩

/-- Address context 0 changed. -/
def inContext0 (f : AddrContext → AddrContext) (s : State) : State :=
  { s with kernel := { s.kernel with contexts := tput s.kernel.contexts (.start 0) 0 (f (contextAt s 0)) } }

/-- A window grants reading and writing of the first 64 KiB of die 0, and `w10` is address 0 of the die space. -/
def opened (i : Instr) : State :=
  modMe (fun st => { st with regs := vset st.regs 10 (.u 0) })
    (inContext0 (fun c => { c with
      winA := vset c.winA 0 3
      winB := vset c.winB 0 1 }) (ready i))

/-- Whether a prefetch brings the line of an address of this package. -/
def brought (s : State) (size fab : Nat) (leaf : DWord) : Bool :=
  let kind := field leaf.toNat 8 6
  !peekPoisoned s fab size && kind != 2 && kind != 4 && field leaf.toNat 14 13 != 3 && !peekRefused s fab size &&
    copyable s s.me.place.die fab kind (field leaf.toNat 10 9) && isLocal s fab && !homeHeld s (fabLocal fab) size &&
    (nearCopy? s s.me.place.die (fab / 128)).isNone

/-- The page of the code mapped to package 1, which is admitted. -/
def farCode (s : State) : State :=
  poke (codeRoot + 0x30000 + 8 * levelIndex 1 codeAt) (leBytes 8 (2 ^ 43 + codeFrame + 0x1F))
    { s with links := { s.links with admitted := [1] } }

/-- Whether a prefetch asks another package for the line of an address. -/
def askedFor (s : State) (fab : Nat) (leaf : DWord) : Bool :=
  !peekPoisoned s fab 1 && field leaf.toNat 8 6 == 0 && field leaf.toNat 14 13 != 3 && !peekRefused s fab 1 &&
    copyable s s.me.place.die fab (field leaf.toNat 8 6) (field leaf.toNat 10 9) && !isLocal s fab &&
    (nearCopy? s s.me.place.die (fab / 128)).isNone

theorem witness_LoadsIssue_far :
    ∃ fab leaf, Resolves (farCode (globbed (.pf (.glob 10) .b 1))) .prefetch 1
        (fun th => pairAt (farCode (globbed (.pf (.glob 10) .b 1))) 10 th + BitVec.ofNat 64 1) fab leaf ∧
      ∀ th, askedFor (farCode (globbed (.pf (.glob 10) .b 1))) (fab th) (leaf th) = true :=
  resolves_with _ (by decide +kernel) (by decide +kernel)

theorem witness_LoadsIssue_dropped :
    let s := modMe (fun st => { st with regs := vset st.regs 12 (.u 1) }) (ready (.pf (.glob 12) .b 0))
    executes (memNeed (.pf (.glob 12) .b 0) [] (.glob 12) false) s = true ∧ activeIn s 0 = true ∧
      resolve s s.me.place.agent s.me.who.context .prefetch 1 (pairAt s 12 0) = .bad .translation 0 none 0 := by decide +kernel

theorem witness_LoadsIssue :
    ([Instr.ld, .ldv].all (fun mk => let i := mk 4 (.glob 10) .q 0
      executes (memNeed i (widthRegs .q 4) (.glob 10) true) (globbed i) && roomy (globbed i)) = true ∧
      ∃ fab leaf, Resolves (globbed (.ld 4 (.glob 10) .q 0)) .load 16
        (fun th => pairAt (globbed (.ld 4 (.glob 10) .q 0)) 10 th + BitVec.ofNat 64 0) fab leaf) ∧
    (executes (memNeed (.ld 4 (.die 10) .w 0) (widthRegs .w 4) (.die 10) true) (opened (.ld 4 (.die 10) .w 0)) = true ∧
      ∃ fab leaf, ResolvesDie (opened (.ld 4 (.die 10) .w 0)) false 4
        (fun th => pairAt (opened (.ld 4 (.die 10) .w 0)) 10 th + BitVec.ofNat 64 0) fab leaf) ∧
    (executes (memNeed (.pf (.glob 10) .b 1) [] (.glob 10) false) (globbed (.pf (.glob 10) .b 1)) = true ∧
      (∃ fab leaf, Resolves (globbed (.pf (.glob 10) .b 1)) .prefetch 1
          (fun th => pairAt (globbed (.pf (.glob 10) .b 1)) 10 th + BitVec.ofNat 64 1) fab leaf ∧
        ∀ th, brought (globbed (.pf (.glob 10) .b 1)) 1 (fab th) (leaf th) = true)) ∧
    (executes (memNeed (.pf (.glob 12) .w 0) [] (.glob 12) false)
        (modMe (fun st => { st with regs := vset st.regs 12 (.u 1) }) (ready (.pf (.glob 12) .w 0))) = true) :=
  ⟨⟨by decide +kernel, resolves_of_aims (by decide +kernel)⟩, ⟨by decide +kernel, resolvesDie_of_aims (by decide +kernel)⟩,
    ⟨by decide +kernel, resolves_with _ (by decide +kernel) (by decide +kernel)⟩, by decide +kernel⟩

/-- Whether every thread's scratch address is aligned and lies in the region. -/
def sits (s : State) (addr : MemAddr) (off size : Nat) : Bool :=
  (List.finRange 32).all (fun th => decide ((scratchVa s addr off th).toNat % size = 0) &&
    (scratchPlace s addr (scratchVa s addr off th).toNat size).isSome)

theorem placed_of_sits {s : State} {addr : MemAddr} {off size : Nat} (h : sits s addr off size = true) :
    ∃ place, Placed s addr off size place := by
  refine ⟨fun th => (scratchPlace s addr (scratchVa s addr off th).toNat size).getD (0, 0), fun th _ => ?_⟩
  have := List.all_eq_true.mp h th (List.mem_finRange th)
  simp only [Bool.and_eq_true, decide_eq_true_eq] at this
  exact ⟨this.1, someD this.2 (0, 0)⟩

/-- The state of `ready` with each thread's number times 16 in `w6`, and 0x7F0 in `w8`. -/
def strided (i : Instr) : State :=
  modMe (fun st => { st with regs := vset (vset st.regs 6 (.a 0 16)) 8 (.u 0xFF0) }) (ready i)

theorem witness_ScratchAccesses :
    ([Instr.ld, .ldv].all (fun mk => let i := mk 4 (.lane (.reg 6)) .q 0
      executes (memNeed i (widthRegs .q 4) (.lane (.reg 6)) true) (strided i) && sits (strided i) (.lane (.reg 6)) 0 16 &&
        (strided i).mem.poisonedScratch.isEmpty) = true) ∧
    (∃ place, Placed (strided (.ld 4 (.lane (.reg 6)) .q 0)) (.lane (.reg 6)) 0 16 place) ∧
    (executes (memNeed (.pf (.quad (.reg 6)) .w 0) [] (.quad (.reg 6)) false) (strided (.pf (.quad (.reg 6)) .w 0)) = true ∧
      executes (memNeed (.pf (.die 10) .w 0) [] (.die 10) false) (ready (.pf (.die 10) .w 0)) = true) ∧
    ([(MemAddr.core (.reg 8), (1 : BitVec 6)), (.lane (.reg 6), 0), (.quad (.reg 6), 63)].all (fun x =>
      let i : Instr := .st 62 x.1 .d x.2
      executes (memNeed i (widthRegs .d 62) x.1 false) (strided i) && memoriesWf (strided i) && roomy (strided i) &&
        sits (strided i) x.1 (x.2.toNat * 8) 8) = true) ∧
    ∃ place, Placed (strided (.st 62 (.core (.reg 8)) .d 1)) (.core (.reg 8)) 8 8 place :=
  ⟨by decide +kernel, placed_of_sits (by decide +kernel), by decide +kernel, by decide +kernel,
    placed_of_sits (by decide +kernel)⟩

/-- The same state with its launch in redundant pairs. -/
def paired (s : State) : State :=
  { s with work := { s.work with launches := s.work.launches.map (fun l => { l with record := { l.record with pair := true } }) } }

/-- A window of `n` records. -/
def windowOf (n : Nat) (s : State) : State :=
  modMe (fun st => { st with window := List.replicate n 0 }) s

theorem witness_StoresIssue :
    let i : Instr := .st 4 (.glob 10) .w 0
    let j : Instr := .st 4 (.die 10) .h 0
    (executes (memNeed i (widthRegs .w 4) (.glob 10) false) (globbed i) && roomy (globbed i)) = true ∧
    (∃ fab leaf, Resolves (globbed i) .store 4 (fun th => pairAt (globbed i) 10 th + BitVec.ofNat 64 0) fab leaf) ∧
    (executes (memNeed j (widthRegs .h 4) (.die 10) false) (opened j) && roomy (opened j)) = true ∧
    (∃ fab leaf, ResolvesDie (opened j) true 2 (fun th => pairAt (opened j) 10 th + BitVec.ofNat 64 0) fab leaf) ∧
    (let s := paired (globbed i)
     executes (memNeed i (widthRegs .w 4) (.glob 10) false) s = true ∧ isPaired s s.me = true ∧ s.me.windowSig = none ∧
       s.me.window.length < 4096 ∧ outStores s s.me.who.id < 63 ∧ inFlight s s.me.who.id < 63 ∧
       ∃ fab leaf, Resolves s .store 4 (fun th => pairAt s 10 th + BitVec.ofNat 64 0) fab leaf) ∧
    (let s := windowOf 4096 (paired (globbed i))
     executes (memNeed i (widthRegs .w 4) (.glob 10) false) s = true ∧ isPaired s s.me = true ∧
       4096 ≤ s.me.window.length ∧ outStores s s.me.who.id < 63 ∧ inFlight s s.me.who.id < 63 ∧
       ∃ fab leaf, Resolves s .store 4 (fun th => pairAt s 10 th + BitVec.ofNat 64 0) fab leaf) :=
  ⟨by decide +kernel, resolves_of_aims (by decide +kernel), by decide +kernel, resolvesDie_of_aims (by decide +kernel),
    by and_intros <;> first | decide +kernel | exact resolves_of_aims (by decide +kernel),
    by and_intros <;> first | decide +kernel | exact resolves_of_aims (by decide +kernel)⟩

theorem witness_AcquiresAndReleases :
    (executes (acqNeed 4 10 .pod) (globbed (.acq 4 10 .pod)) && roomy (globbed (.acq 4 10 .pod))) = true ∧
    (∃ fab leaf, ResolvesOnce (globbed (.acq 4 10 .pod)) .load 8 10 fab leaf) ∧
    (executes (relNeed 10 (.int 7) .lane) (globbed (.rel 10 (.int 7) .lane)) && roomy (globbed (.rel 10 (.int 7) .lane)) &&
      !(globbed (.rel 10 (.int 7) .lane)).me.who.twin) = true ∧
    (∃ fab leaf, ResolvesOnce (globbed (.rel 10 (.int 7) .lane)) .store 8 10 fab leaf) ∧
    (executes (acqrelNeed 62 10 (.int 7) .die) (globbed (.acqrel 62 10 (.int 7) .die)) &&
      roomy (globbed (.acqrel 62 10 (.int 7) .die))) = true ∧
    (∃ fab leaf, ResolvesOnce (globbed (.acqrel 62 10 (.int 7) .die)) .atomic 8 10 fab leaf) ∧
    [Scope.lane, .core, .pod].all (fun c => executes (fenceNeed c) (ready (.fence c)) && roomy (ready (.fence c))) = true :=
  ⟨by decide +kernel, resolvesOnce_of_aims (by decide +kernel), by decide +kernel, resolvesOnce_of_aims (by decide +kernel),
    by decide +kernel, resolvesOnce_of_aims (by decide +kernel), by decide +kernel⟩

theorem witness_AtomicsIssue :
    ([(Instr.aadd, AtomFn.add), (.aand, .and), (.aor, .or), (.axor, .xor), (.axchg, .xchg), (.amin, .imin), (.amax, .imax),
      (.anmin, .nmin), (.anmax, .nmax), (.acas, .cas), (.ainc, .inc), (.abadd, .badd), (.afadd, .fadd), (.afmax, .fmax),
      (.afaddBf16x2, .faddBf16x2)].all (fun x => let i := x.1 4 10 (.reg 6) .die
      executes (atomic32Need i x.2 4 10 (.reg 6) .die) (globbed i) && roomy (globbed i)) = true) ∧
    ([(Instr.aadd64, AtomFn.add), (.axchg64, .xchg), (.acas64, .cas), (.amin64, .imin), (.amax64, .imax)].all (fun x =>
      let i := x.1 4 10 6 .pod
      executes (atomic64Need i x.2 4 10 6 .pod) (globbed i) && roomy (globbed i)) = true) ∧
    (∃ fab leaf, Resolves (globbed (.acas 4 10 (.reg 6) .die)) .atomic 4 (pairAt (globbed (.acas 4 10 (.reg 6) .die)) 10) fab leaf) ∧
    (∃ fab leaf, Resolves (globbed (.aadd64 4 10 6 .pod)) .atomic 8 (pairAt (globbed (.aadd64 4 10 6 .pod)) 10) fab leaf) ∧
    [(Instr.caddF32, CFmt.f32, false, 1), (.caddBf16, .bf16, false, 3), (.caddF16, .f16, false, 5), (.caddI32, .i32, false, 7),
      (.cmaxF32, .f32, true, 9)].all (fun x => let i := x.1 10 (.int 1) .lane
      let s := kindPage 2 x.2.2.2 (globbed i)
      executes (caddNeed i 10 (.int 1) .lane) s && roomy s &&
        rangeMatches (rangeDesc s (field (landing s .cadd (cfmtSize x.2.1) (pairAt s 10 0)).2.toNat 63 52)) x.2.1 x.2.2.1) = true ∧
    (∃ fab leaf, Resolves (kindPage 2 1 (globbed (.caddF32 10 (.int 1) .lane))) .cadd 4
      (pairAt (kindPage 2 1 (globbed (.caddF32 10 (.int 1) .lane))) 10) fab leaf) :=
  ⟨by decide +kernel, by decide +kernel, resolves_of_aims (by decide +kernel), resolves_of_aims (by decide +kernel),
    by decide +kernel, resolves_of_aims (by decide +kernel)⟩

theorem witness_DecisionsAndWatchesIssue :
    [(Instr.dprop 4 10 8 .pod, decideNeed (.dprop 4 10 8 .pod) 4 10 [8, nextReg 8 1] [] true),
      (.dread 4 10 (.int 1) .lane, decideNeed (.dread 4 10 (.int 1) .lane) 4 10 [] [.int 1] false),
      (.dreset 4 10 (.reg 8) .lane, decideNeed (.dreset 4 10 (.reg 8) .lane) 4 10 [] [.reg 8] false),
      (.dstat 4 10 .pkg, decideNeed (.dstat 4 10 .pkg) 4 10 [] [] false)].all (fun x =>
      let s := kindPage 1 0 (globbed x.1)
      executes x.2 s && roomy s) = true ∧
    (let s := kindPage 1 0 (globbed (.dstat 4 10 .pkg))
     ∃ fab leaf, Resolves s .doc 16 (pairAt s 10) fab leaf ∧
       ∀ th, decide (memNat s.mem.bytes (fabLocal (fab th) + 8) 8 < 2 ^ 63) = true) ∧
    [(Instr.wwait 4 10 (.reg 6) .geu true true, watchNeed 4 10 (.reg 6) .geu true true, 8),
      (.wwait 4 10 (.int 0) .eq false false, watchNeed 4 10 (.int 0) .eq false false, 4)].all (fun x =>
      executes x.2.1 (globbed x.1) && roomy (globbed x.1) && aimsOnce (globbed x.1) .watch x.2.2 10) = true ∧
    ∃ fab leaf, ResolvesOnce (globbed (.wwait 4 10 (.reg 6) .geu true true)) .watch 8 10 fab leaf :=
  ⟨by decide +kernel, resolves_with (fun f _ => decide (memNat _ (fabLocal f + 8) 8 < 2 ^ 63)) (by decide +kernel) (by decide +kernel),
    by decide +kernel, resolvesOnce_of_aims (by decide +kernel)⟩

/-- Barrier 3 expects 64 threads, and 0 have arrived; it is pending for the strand when `own` says so. -/
def awaited (s : State) : State :=
  modBlock codeHandle 0 false (fun b => { b with bars := vset b.bars 3 ⟨0, 64, true, false⟩ }) s

theorem witness_NamedBarriers :
    (let i : Instr := .barPost 4 false (.int 15) (.reg 6)
     executes (barNeed i 4 [.int 15, .reg 6] true) (ready i) = true ∧ isPaired (ready i) (ready i).me = false ∧
       (∃ blk, blockOf (ready i) (ready i).me = some blk ∧ blk.abandoned = false ∧
         (operand (ready i) [.int 15, .reg 6] 1 (lowest (ready i).me.cur.mask)).toNat ≤ 1024 ∧
         expects (ready i) blk 15 0 ≤ arrivedAfter (ready i) blk 15) ∧
       releaseReady (ready i) (ready i).me.who.id (ready i).mem.nextOp .core = true) ∧
    (let i : Instr := .barMeet 4 true (.int 3) (.reg 6)
     let s := awaited (ready i)
     executes (barNeed i 4 [.int 3, .reg 6] true) s = true ∧ isPaired s s.me = false ∧
       (∃ blk, blockOf s s.me = some blk ∧ blk.abandoned = false ∧ (barrierOf blk 3).set = true ∧
         arrivedAfter s blk 3 < expects s blk 3 0) ∧
       releaseReady s s.me.who.id s.mem.nextOp .core = true) ∧
    [Instr.barPost, .barMeet].all (fun mk =>
      let i := mk 4 false (.int 15) (.reg 6)
      let s := modBlock codeHandle 0 false (fun b => { b with abandoned := true }) (ready i)
      executes (barNeed i 4 [.int 15, .reg 6] true) s && !isPaired s s.me &&
        (blockOf s s.me == some { codeBlock with abandoned := true }) && releaseReady s s.me.who.id s.mem.nextOp .core) = true ∧
    (∃ s : State, mayIssue s = true ∧ s.me.cur.begun = .answered 1) ∧
    (let i : Instr := .barHold 4 false (.int 3)
     executes (barNeed i 4 [.int 3] false) (ready i) = true ∧
       (∃ blk, blockOf (ready i) (ready i).me = some blk ∧ blk.abandoned = false) ∧
       (ready i).me.pendingBars.find? (fun m => m.1 == 3) = none ∧
       (∃ s : State, executes (barNeed i 4 [.int 3] false) s = true ∧
         ∃ blk, blockOf s s.me = some blk ∧ blk.abandoned = true) ∧
       (∃ s : State, executes (barNeed i 4 [.int 3] false) s = true ∧
         (∃ blk, blockOf s s.me = some blk ∧ blk.abandoned = false) ∧
         s.me.pendingBars.find? (fun m => m.1 == 3) = some (3, false, true))) :=
  ⟨⟨by decide +kernel, by decide +kernel, ⟨codeBlock, by decide +kernel⟩, by decide +kernel⟩,
    ⟨by decide +kernel, by decide +kernel, ⟨{ codeBlock with bars := vset codeBlock.bars 3 ⟨0, 64, true, false⟩ }, by decide +kernel⟩, by decide +kernel⟩,
    by decide +kernel,
    ⟨modMe (fun st => { st with cur := { st.cur with begun := .answered 1 } }) (ready .nop), by decide +kernel⟩,
    by decide +kernel, ⟨codeBlock, by decide +kernel⟩, by decide +kernel,
    ⟨modBlock codeHandle 0 false (fun b => { b with abandoned := true }) (ready (.barHold 4 false (.int 3))), by decide +kernel,
      { codeBlock with abandoned := true }, by decide +kernel⟩,
    ⟨modMe (fun st => { st with pendingBars := [(3, false, true)] }) (ready (.barHold 4 false (.int 3))), by decide +kernel,
      ⟨codeBlock, by decide +kernel⟩, by decide +kernel⟩⟩

/-- The launch has a gang of every scope. -/
def ganged (s : State) : State :=
  { s with work := { s.work with launches := s.work.launches.map (fun l =>
      { l with record := { l.record with gq := 1, gd := 1, gp := true, gpod := true } }) } }

/-- A second live fragment, which waits at the same `join` or runs on. -/
def sibling (w : Wait) (s : State) : State :=
  modMe (fun st => { st with
    cur := { st.cur with mask := 0xFFFF }
    frags := [{ st.cur with id := 9, mask := 0xFFFF0000, wait := w }] }) s

theorem witness_GangsAndJoin :
    ([(Instr.barQuad, Scope.quad), (.barDie, .die), (.barPkg, .pkg), (.barPod, .pod)].all (fun x =>
      let i := x.1 4 false
      let s := ganged (ready i)
      executes (barNeed i 4 [] true) s && !s.me.place.isCtl && decide (s.me.liveFrags.length = 1) && !isPaired s s.me &&
        releaseReady s s.me.who.id s.mem.nextOp x.2 &&
        (match findLaunch s s.me.who.id.handle with
         | some l => hasGang l.record x.2
         | none => false)) = true) ∧
    (∃ s : State, ∃ l, mayIssue s = true ∧ s.me.cur.begun = .ganged .die 5 ∧ findLaunch s s.me.who.id.handle = some l ∧
      (gangOf s l.handle .die (gangIndex l.record .die s.me.who.blockIdx)).phase ≠ 5) ∧
    (let n : Need := { plainNeed .join [] [] with blocking := true }
     (executes n (ready .join) = true ∧ (ready .join).me.serials = [] ∧ (ready .join).me.liveFrags.length = 1) ∧
     (executes n (sibling .ready (ready .join)) = true ∧ (sibling .ready (ready .join)).me.serials = [] ∧
       ∃ f ∈ (sibling .ready (ready .join)).me.frags, f.live = true ∧ f.wait ≠ .join) ∧
     (let s := sibling .join (ready .join)
      executes n s = true ∧ s.me.serials = [] ∧ (∃ f ∈ s.me.frags, f.live = true) ∧
        ∀ f ∈ s.me.frags, f.live = true →
          f.wait = .join ∧ f.hdr = s.me.cur.hdr ∧ f.widx = s.me.cur.widx ∧ f.head = s.me.cur.head)) :=
  ⟨by decide +kernel,
    ⟨modMe (fun st => { st with cur := { st.cur with begun := .ganged .die 5 } }) (ganged (ready (.barDie 4 false))),
      (ganged (ready (.barDie 4 false))).work.launches.headD (codeLaunch State.reset), by decide +kernel⟩,
    by decide +kernel⟩

/-- The descriptor at offset 0 of the block's scratch: HEAD and TAIL, ALLOW, the slots and marks, BASE 64, the bound counts;
`q4` is bound to it. -/
def queued (consumer : Bool) (head tail allow slots : Nat) (s : State) : State :=
  modMe (fun st => { st with binds := vset st.binds 0 (some ⟨0, false, consumer, 0⟩) })
    { s with mem := { s.mem with
      scratch := memWrite s.mem.scratch 0 ([head, tail, allow, slots, 64, 1].flatMap (leBytes 4)) } }

/-- The control program's state of `ready` for an instruction of control lanes, and every tile's descriptor as given. -/
def tiled (desc : DWord) (s : State) : State :=
  setControl 0 { Machine.controlAt s 0 with tiles := Vector.replicate 32 ⟨desc, false⟩ } s

/-- A descriptor. -/
def descOf (rows cols width base : Nat) : DWord :=
  BitVec.ofNat 64 ((cols - 1) * 2 ^ 34 + (rows - 1) * 2 ^ 27 + width * 2 ^ 24 + base)

/-- The same with OWNER set. -/
def given (d : DWord) : DWord := d ||| 0x80000000000

/-- Words collected for a command. -/
def collected (p0 p1 p2 : List Word) (s : State) : State :=
  modMe (fun st => { st with pushed0 := p0, pushed1 := p1, pushed2 := p2 }) s

/-- Whether a command was accepted. -/
def accepted {α : Type} (x : α ⊕ Report) : Bool :=
  match x with
  | .inl _ => true
  | .inr _ => false

theorem exists_of_accepted {α : Type} {x : α ⊕ Report} (h : accepted x = true) : ∃ c, x = .inl c := by
  cases x with
  | inl c => exact ⟨c, rfl⟩
  | inr r => simp [accepted] at h

/-- The queues behind `q0` to `q2` have no room. -/
def full (s : State) : State := { s with engines := { s.engines with noRoom := 7 } }

/-- A word comes to a queue that hands its commands over. -/
def pushesTo (q : QNo) (a : Sel) (s : State) : Bool :=
  executes (qputNeed q a) s && !isPaired s s.me && releaseReady s s.me.who.id s.mem.nextOp .pkg

theorem witness_QueuePushes_rings :
    (let s := queued false 0xFFFFFFFE 1 1 4 (ready (.qput 4 (.int 9)))
     let b : Binding := ⟨0, false, false, 0⟩
     (executes (qputNeed 4 (.int 9)) s = true ∧ binding s.me 4 = some b ∧ isPaired s s.me = false ∧
       releaseReady s s.me.who.id s.mem.nextOp .core = true ∧ memoriesWf s = true ∧
       (b.offset.toNat % 32 = 0 ∧ (fieldAt s b 31).isSome = true) ∧ (qField s s.me b 12).testBit 16 = false) ∧
     (qField s s.me b 8 % 512 = 1 ∧
       (qField s s.me b 4 + 2 ^ 32 - qField s s.me b 0) % 2 ^ 32 < max 1 (qField s s.me b 12 % 512)) ∧
     (∃ h8 h4 e, fieldAt s b 8 = some h8 ∧ fieldAt s b 4 = some h4 ∧
       scratchAddr s s.me b.quadSpace (qField s s.me b 16 + 4 * (qField s s.me b 4 % 4)) = some e ∧ h4 + 4 ≤ e)) ∧
    (let s := queued false 0 0 0 4 (ready (.qput 4 (.int 9)))
     let b : Binding := ⟨0, false, false, 0⟩
     (executes (qputNeed 4 (.int 9)) s = true ∧ binding s.me 4 = some b ∧ isPaired s s.me = false ∧
       releaseReady s s.me.who.id s.mem.nextOp .core = true ∧ memoriesWf s = true ∧
       (b.offset.toNat % 32 = 0 ∧ (fieldAt s b 31).isSome = true) ∧ (qField s s.me b 12).testBit 16 = false) ∧
     qField s s.me b 8 % 512 = 0) := by
  refine ⟨⟨by decide +kernel, by decide +kernel, 0x8, 0x4, 0x44, ?_⟩, by decide +kernel⟩
  decide +kernel

theorem witness_QueuePushes_commands :
    [(0 : QNo), 1, 2].all (fun q => let s := ready (.qput q (.int 9))
      pushesTo q (.int 9) s && pushesTo q (.int 9) (full s) && !noRoomIn q s && noRoomIn q (full s) &&
        decide (s.me.pushed0.length < 4 ∧ s.me.pushed1.length < 6 ∧ s.me.pushed2.length < 15)) = true ∧
    (let s := tiled (given (descOf 1 1 2 0)) (collected [0x20000000, 0, 0, 0] [] [] (ready (.qput 0 (.int 0))))
     (pushesTo 0 (.int 0) s = true ∧ noRoomIn 0 s = false ∧ s.me.pushed0.length = 4 ∧ inFlight s s.me.who.id < 63) ∧
       ∃ c, copyCommand s (s.me.pushed0 ++ [operand s [.int 0] 0 (lowest s.me.cur.mask)]) = .inl c) ∧
    (let s := collected [] [0x00000000, 0x1000, 1, 0, 0, 0x3F800000] [] (ready (.qput 1 (.int 0)))
     (pushesTo 1 (.int 0) s = true ∧ noRoomIn 1 s = false ∧ s.me.pushed1.length = 6 ∧ inFlight s s.me.who.id < 63 ∧
       outStores s s.me.who.id < 63) ∧
       ∃ c, nearCommand s (s.me.pushed1 ++ [operand s [.int 0] 0 (lowest s.me.cur.mask)]) = .inl c) ∧
    (let s := collected [] [] (List.replicate 15 0) (ready (.qput 2 (.int 0)))
     pushesTo 2 (.int 0) s = true ∧ noRoomIn 2 s = false ∧ s.me.pushed2.length = 15) :=
  ⟨by decide +kernel, ⟨by decide +kernel, exists_of_accepted (by decide +kernel)⟩,
    ⟨by decide +kernel, exists_of_accepted (by decide +kernel)⟩, by decide +kernel⟩

theorem witness_QueueRegisters :
    (let i : Instr := .qbind 4 (.int 0) true false
     executes { plainNeed i [] [.int 0] with tileOrder := true } (ready i) = true ∧ binding (ready i).me 4 = none ∧
       ((0 : Word).toNat % 32 = 0 ∧ (fieldAt (ready i) ⟨0, false, true, 0⟩ 31).isSome = true)) ∧
    (let i : Instr := .qallow 4 (.int 1)
     executes { plainNeed i [] [.int 1] with tileOrder := true } (queued true 0 0 255 4 (ready i)) = true ∧
       binding (queued true 0 0 255 4 (ready i)).me 4 = some ⟨0, false, true, 0⟩) ∧
    (executes { vecNeed (.qcount 5 false 3) 5 [] with tileOrder := true } (ready (.qcount 5 false 3)) = true ∧
      executes { vecNeed (.qcount 5 false 4) 5 [] with tileOrder := true } (queued true 1 3 0 4 (ready (.qcount 5 false 4))) = true ∧
      binding (queued true 1 3 0 4 (ready (.qcount 5 false 4))).me 4 = some ⟨0, false, true, 0⟩) ∧
    (executes { plainNeed (.qunbind 4) [] [] with tileOrder := true } (queued false 0 0 255 4 (ready (.qunbind 4))) = true ∧
      memoriesWf (queued false 0 0 255 4 (ready (.qunbind 4))) = true ∧
      binding (queued false 0 0 255 4 (ready (.qunbind 4))).me 4 = some ⟨0, false, false, 0⟩ ∧
      (fieldAt (queued false 0 0 255 4 (ready (.qunbind 4))) ⟨0, false, false, 0⟩ 31).isSome = true) ∧
    (let i : Instr := .qtry 62 false 3
     executes (qtryNeed 62 false 3) (modMe (fun st => { st with events := [5, 6] }) (ready i)) = true ∧
       waiting (modMe (fun st => { st with events := [5, 6] }) (ready i)).me 3 ≠ [] ∧ executes (qtryNeed 62 false 3) (ready i) = true ∧ waiting (ready i).me 3 = []) ∧
    (let i : Instr := .qtry 62 false 4
     let b : Binding := ⟨0, false, true, 0⟩
     [(1, 4), (0, 4), (0, 0x10004)].all (fun (x : Nat × Nat) =>
       let s := queued true 0 x.1 0 x.2 (ready i)
       let s := if x.2 = 0x10004 then { s with mem := { s.mem with scratch := memWrite s.mem.scratch 20 (leBytes 4 0x10000) } } else s
       executes (qtryNeed 62 false 4) s && binding s.me 4 == some b && !ringHeld s b && (qCount s s.me b == x.1) &&
         (qDead s s.me b == decide (x.2 = 0x10004))) = true) := by decide +kernel

theorem witness_TileInstructions :
    (let i : Instr := .tgive 31
     executes { tileNeed i with releasing := true } (ready i) = true ∧ tablesRise (ready i) = true ∧
       isPaired (ready i) (ready i).me = false ∧ tableOf (ready i) (ready i).me = some 0 ∧
       tileOwner (tileAt (ready i) 0 31) = false) ∧
    (let i : Instr := .ttake 0
     executes (tileNeed i) (tiled (given 0) (ready i)) = true ∧ tablesRise (tiled (given 0) (ready i)) = true ∧
       tableOf (tiled (given 0) (ready i)) (tiled (given 0) (ready i)).me = some 0 ∧
       tileOwner (tileAt (tiled (given 0) (ready i)) 0 0) = true) ∧
    executes { vecNeed (.towner 62 false 5) 62 [] with tileOrder := true } (ready (.towner 62 false 5)) = true ∧
    executes { pairNeed (.rdtd 62 false 5) 62 [] [] with tileOrder := true } (ready (.rdtd 62 false 5)) = true ∧
    tableOf (ready .nop) (ready .nop).me = some 0 ∧
    (let i : Instr := .mvtd 3 0
     executes { tileNeed i with regs := [0, nextReg 0 1] } (ready i) = true ∧ tablesRise (ready i) = true ∧
       tableOf (ready i) (ready i).me = some 0 ∧ descBad (ready i) 0 (pairAt (ready i) 0 0) = false ∧
       tileOwner (tileAt (ready i) 0 3) = false) := by decide +kernel

theorem witness_MatrixInstructions :
    (let m : MmaArgs := ⟨1, 2, 3, .e4m3, .e4m3, true, 4, 0, 5, 0, false⟩
     let d := given (descOf 32 32 2 0)
     [(matNeed (.mma m) [4, 5], Instr.mma m), (matNeed (.mmat m 0 true 1) [4, 5], .mmat m 0 true 1)].all (fun x =>
       executes x.1 (tiled d (ready x.2)) && tablesRise (tiled d (ready x.2)) &&
         decide ((Machine.controlAt (tiled d (ready x.2)) (contextKey (tiled d (ready x.2)))).queue.length < 64) &&
         (mmaCheck (tiled d (ready x.2)) m false).isNone) = true) ∧
    (let m : MmaArgs := ⟨15, 2, 3, .e4m3, .e4m3, false, 0, 0, 0, 0, true⟩
     let d := given (descOf 128 128 2 0)
     executes (matNeed (.mmab m) []) (tiled d (ready (.mmab m))) = true ∧
       (mmaCheck (tiled d (ready (.mmab m))) m true).isNone = true) ∧
    (executes (matNeed (.czero 15) []) (ready (.czero 15)) = true ∧ tablesRise (ready (.czero 15)) = true) ∧
    (let d := given (descOf 32 32 4 0)
     let i : Instr := .cload 1 2 .f32
     executes (matNeed i []) (tiled d (ready i)) = true ∧ (movedTile (tiled d (ready i)) 2 .f32).isNone = true) ∧
    (let d := given (descOf 32 64 4 16)
     let i : Instr := .cdrain 1 2 .acc (some 7) true false .ne 6 3 true
     executes (matNeed i [6]) (tiled d (ready i)) = true ∧ (movedTile (tiled d (ready i)) 2 .acc).isNone = true) ∧
    (executes { words := encodeWords (.hclr 7), onCtl := true } (ready (.hclr 7)) = true ∧ tablesRise (ready (.hclr 7)) = true ∧
      drainsOutstanding (ready (.hclr 7)) 7 = false) ∧
    executes { words := encodeWords (.hset .tid 0), sels := [.tid], onCtl := true } (ready (.hset .tid 0)) = true ∧
    executes { vecNeed (.hrd 63 true .tid 0) 63 [.tid] with onCtl := true } (ready (.hrd 63 true .tid 0)) = true ∧
    [true, false].all (fun v =>
      executes { words := encodeWords (.cwait 31 v), onCtl := true, tileOrder := true, blocking := true } (ready (.cwait 31 v)))
        = true := by decide +kernel

/-! ### Witnesses of the statements about steps of strands, launches and engines -/

/-- The strand of `ready` before its clause, which begins with header `h`, without the issue slot. -/
def atHeader (h : Word) : State :=
  modMe (fun st => { st with cur := { st.cur with inClause := false, widx := 0, slot := false } })
    (poke codeFrame (wordBytes h) (ready .nop))

theorem first_of_alone {s : State} {lane : LaneId} {p : Strand} (h : strandsOn s lane = [p]) (hr : p.readyFrags ≠ [])
    (hk : p.skip < 256) : comesFirst s lane p := by
  have one : ∀ q, candidate s lane q → q = p := fun q hq => by simpa [h] using hq.1
  refine ⟨⟨by simp [h], hr⟩, .inr ⟨fun q hq => one q hq ▸ hk, fun q hq hne => absurd (by rw [one q hq]) hne⟩⟩

theorem witness_LaneAndStrandSteps_slot :
    (∃ s p f r, idsDiffer s ∧ slotHolder s (.vec 0 0) = none ∧ comesFirst s (.vec 0 0) p ∧ p.readyFrags = f :: r) ∧
    (let s := ready .nop
     s.me.here = true ∧ s.me.mayGo s.me.cur.id = true ∧ s.me.cur.wait = .ready ∧ s.me.cur.slot = true ∧
       ∀ f ∈ s.me.frags, f.slot = false) :=
  ⟨⟨atHeader 0x10000000, (atHeader 0x10000000).me, (atHeader 0x10000000).me.cur, [],
      by unfold idsDiffer; decide +kernel, by decide +kernel,
      first_of_alone (by decide +kernel) (by decide +kernel) (by decide +kernel), by decide +kernel⟩,
    by decide +kernel⟩

/-- The same fragment holds the issue slot. -/
def atSlot (h : Word) : State := modMe (fun st => { st with cur := { st.cur with slot := true } }) (atHeader h)

theorem witness_LaneAndStrandSteps_clause :
    (∃ s, beforeClause s 0x10000800 ∧ (0x10000800 : Word).getLsbD 11 = true ∧ s.me.requested = true) ∧
    (beforeClause (atSlot 0x10000800) 0x10000800 ∧ (atSlot 0x10000800).me.requested = false ∧
      headerHolds (atSlot 0x10000800) (atSlot 0x10000800).me 0x10000800 = true) ∧
    (beforeClause (atSlot 0x10008000) 0x10008000 ∧ (0x10008000 : Word).getLsbD 11 = false ∧
      headerHolds (atSlot 0x10008000) (atSlot 0x10008000).me 0x10008000 = false) :=
  ⟨⟨modMe (fun st => { st with timeSlice := true }) (atSlot 0x10000800), by unfold beforeClause; decide +kernel⟩,
    by unfold beforeClause; decide +kernel, by unfold beforeClause; decide +kernel⟩

/-- The implicit `tfence` of a TF clause is to come. -/
def atTf (s : State) : State :=
  modMe (fun st => { st with cur := { st.cur with inClause := false, widx := 0, tf := some ⟨0x10000400, [0]⟩ } }) s

theorem witness_LaneAndStrandSteps_tf :
    let here := fun (s : State) => s.me.here && s.me.cur.wait == .ready && s.me.mayGo s.me.cur.id && s.mem.mode != .fenced &&
      !s.me.cur.inClause && s.me.cur.tf == some ⟨0x10000400, [0]⟩ && s.me.cur.slot
    (here (atTf (ready .nop)) && !tfWaits (atTf (ready .nop)) && trapFlags (atTf (ready .nop)).me == 0) = true ∧
    (let s := modMe (fun st => { st with fflags := 1, ftrapen := 1 }) (atTf (handled .nop))
     here s && !tfWaits s && trapFlags s.me != 0 && !s.me.halted && delivers s) = true ∧
    (let s := { atTf (ready .nop) with mem := { (ready .nop).mem with ops := [anOp (.load .w) (ready .nop).me.who.id] } }
     here s && tfWaits s) = true := by decide +kernel

/-- The fragment waits. -/
def waits (w : Wait) (s : State) : State := modMe (fun st => { st with cur := { st.cur with wait := w, slot := false } }) s

/-- The strand of `codeLaunch`. -/
def codeId : StrandId := (ready .nop).me.who.id

/-- A request for an image. -/
def imaged (s : State) : State := modMe (fun st => { st with evicting := true }) s

/-- Whether the log of a lane holds an entry is a free value; the clauses for both of its values are met by this state. -/
theorem witness_LaneAndStrandSteps_others :
    (let s := waits (.nap 0) (ready .nop)
     (findStrand s codeId = some s.me ∧ s.me.frag? 0 = some s.me.cur ∧ s.me.imaging = false ∧ waitOver s s.me s.me.cur = true) ∧
     ((imaged s).me.imaging = true ∧ (imaged s).me.atBlockingPoint = true ∧ waitOver (imaged s) (imaged s).me (imaged s).me.cur = true)) ∧
    (let s := waits (.nap 1) (ready .nop)
     findStrand s codeId = some s.me ∧ s.me.frag? 0 = some s.me.cur ∧ waitOver s s.me s.me.cur = false ∧
       (∀ k, s.me.cur.wait ≠ .header k) ∧ s.me.atBlockingPoint = true ∧
       (∀ st ∈ strandsOn s (.vec 0 0), st.readyFrags = []) ∧ (LaneId.vec 0 0, 3) ∉ s.failure.drowsy) ∧
    (let s := waits (.header 0) (atHeader 0x10008000)
     let s := modMe (fun st => { st with cur := { st.cur with head := 0x10008000 } }) s
     waitOver s s.me s.me.cur = false ∧ s.me.cur.wait = .header 0 ∧ findStrand s codeId = some s.me) ∧
    ((ready .nop).me.atBlockingPoint = false ∧ findStrand (ready .nop) codeId = some (ready .nop).me) ∧
    (let s := ready .nop
     (idsDiffer s ∧ findStrand s codeId = some s.me ∧ s.me.frag? 0 = some s.me.cur ∧ mayRead s s.me s.me.cur = true ∧
       spilled s.me (.reg 5) = false ∧ logged s s.me 0 (.reg 5) = none) ∧
     (let s := { s with opLog := tput s.opLog [] s.me.place.laneKey [⟨codeId, .reg 5, 0, .u 7, 0⟩] }
      spilled s.me (.reg 5) = false ∧ logged s s.me 0 (.reg 5) = some ⟨codeId, .reg 5, 0, .u 7, 0⟩)) ∧
    (let s := ready .nop
     let g : Nat × TileNo × StrandId × Nat := (0, 3, codeId, 9)
     let s1 := setControl 0 { Machine.controlAt s 0 with gives := [g] } s
     (tablesRise s1 = true ∧ (Machine.controlAt s1 0).gives.find? (fun g => g.2.1 == 3) = some g ∧
       releaseReady s1 g.2.2.1 g.2.2.2 .quad = true) ∧
     (let s2 := { s1 with mem := { s1.mem with ops := [anOp (.load .w) codeId] } }
      releaseReady s2 g.2.2.1 g.2.2.2 .quad = false)) :=
  ⟨by decide +kernel,
    ⟨by decide +kernel, by decide +kernel, by decide +kernel, fun _ h => (nomatch h), by decide +kernel, by decide +kernel,
      by decide +kernel⟩, by decide +kernel, by decide +kernel,
    ⟨by unfold idsDiffer; decide +kernel, by decide +kernel, by decide +kernel⟩,
    by decide +kernel⟩

/-- Words little-endian. -/
def wordsBytes (ws : List Word) : List Byte := ws.flatMap wordBytes

/-- A launch record of two blocks of one strand, V = G = 64, and 256 bytes of scratch. -/
def twoBlocks : List Word := [1, 0, 0, 1, 0, 0, 1, 0, 264192, 1, 0, 0, 0, 0, 0, 1]

/-- Launch queue 0 of two slots with one record, `ws`. -/
def submitted (ws : List Word) (s : State) : State :=
  poke 0x500000 (wordsBytes ws) { s with work := { s.work with
    opened := true
    queues := vset s.work.queues 0 { LaunchQueue.zero with base := fabOf s 0x500000, size := 1, prod := 1 } } }

/-- A record of a strand in `q2`. -/
def deviceRecord (ws : List Word) (s : State) : State :=
  { s with work := { s.work with opened := true, device := [⟨codeId, 0, ws, 5⟩] } }

/-- A resident strand, and nothing of the launch left otherwise. -/
def launchGone (s : State) : State :=
  { s with me := noStrand
           work := { s.work with blocks := [], launches := s.work.launches.map (fun l => { l with free := [], runs := [], ended := 1 }) } }

theorem witness_LaunchSteps_queue :
    (let x := { LaunchQueue.zero with prod := 1 }
     (((2 : Word) - x.prod).toInt.natAbs ≤ 2 ^ (x.size.toNat % 32) ∧ ¬ ((2 : Word) - x.prod).toInt < 0) ∧
       (((0 : Word) - x.prod).toInt.natAbs ≤ 2 ^ (x.size.toNat % 32) ∧ ((0 : Word) - x.prod).toInt < 0 ∧
         0 ≤ ((x.prod - x.cons).toNat : Int) + ((0 : Word) - x.prod).toInt) ∧
       ¬ ((3 : Word) - x.prod).toInt.natAbs ≤ 2 ^ (x.size.toNat % 32)) ∧
    (let ws := List.replicate 15 0 ++ [1]
     let s := submitted ws (ready .nop)
     accepting s = true ∧ nextQueue s = some 0 ∧ readSlot s (queueAt s 0) = some ws ∧ ws.getD 0 0 ≠ ws.getD 15 0) ∧
    (let ws := List.replicate 16 0
     let s := submitted ws (ready .nop)
     accepting s = true ∧ nextQueue s = some 0 ∧ readSlot s (queueAt s 0) = some ws ∧ isGraphRecord ws = false ∧
       (checkRecord s 0 ws).isNone = true) ∧
    (let ws : List Word := [7, 0x8000] ++ List.replicate 13 0 ++ [7]
     let s := submitted ws (ready .nop)
     accepting s = true ∧ nextQueue s = some 0 ∧ readSlot s (queueAt s 0) = some ws ∧ ws.getD 0 0 = ws.getD 15 0 ∧
       isGraphRecord ws = true ∧ graphRecBad ws = false) ∧
    (let s := submitted twoBlocks (ready .nop)
     accepting s = true ∧ nextQueue s = some 0 ∧ readSlot s (queueAt s 0) = some twoBlocks ∧ isGraphRecord twoBlocks = false ∧
       (checkRecord s 0 twoBlocks).isSome = true ∧ (parseRecord twoBlocks).gp = false ∧
       (handlesInUse s).length < 2 ^ 20) := by decide +kernel

/-- The slot of queue 0 has been found torn `n` times. -/
def tornTimes (n : Nat) (s : State) : State :=
  { s with work := { s.work with queues := vset s.work.queues 0 { queueAt s 0 with rereads := n } } }

theorem witness_LaunchSteps_torn :
    let ws := List.replicate 15 0 ++ [1]
    let s := tornTimes 15 (submitted ws (ringed (ready .nop)))
    (accepting s = true ∧ (queueAt s 0).rereads = 15 ∧ (queueAt s 0).nextRead.toNat ≤ s.tick.toNat ∧
      readSlot s (queueAt s 0) = some ws ∧ ws.getD 0 0 ≠ ws.getD 15 0) ∧
    (let s := tornTimes 16 s
     (queueAt s 0).rereads = 16 ∧ hasRing s = true ∧ ringRoom s = true ∧ s.kernel.waitingFaults = []) ∧
    (let s := { s with work := { s.work with queues := vset s.work.queues 0 { queueAt s 0 with nextRead := 1 } } }
     accepting s = true ∧ (queueAt s 0).rereads ≠ 0 ∧ s.tick.toNat < (queueAt s 0).nextRead.toNat) := by decide +kernel

theorem witness_LaunchSteps_device_complete :
    (let s := deviceRecord (List.replicate 15 0 ++ [1]) (ready .nop)
     accepting s = true ∧ s.work.graphRecs = [] ∧ (s.work.device.find? (fun d => d.owner == codeId)).isSome = true ∧
       findStrand s codeId = some s.me ∧ s.work.evicted = []) ∧
    (let s := deviceRecord twoBlocks (ready .nop)
     accepting s = true ∧ s.work.graphRecs = [] ∧ findStrand s codeId = some s.me ∧ s.work.evicted = [] ∧
       isGraphRecord twoBlocks = false ∧ (checkRecord s 0 twoBlocks).isSome = true ∧ (parseRecord twoBlocks).gp = false) ∧
    (let s := ready .nop
     ∃ l, findLaunch s codeHandle = some l ∧ launchOver s l = false) ∧
    (let s := launchGone (ready .nop)
     ∃ l, findLaunch s codeHandle = some l ∧ launchOver s l = true ∧ l.replay = none) :=
  ⟨by decide +kernel, by decide +kernel,
    ⟨(ready .nop).work.launches.headD (codeLaunch State.reset), by decide +kernel⟩,
    ⟨(launchGone (ready .nop)).work.launches.headD (codeLaunch State.reset), by decide +kernel⟩⟩

/-- A graph record that waits for its operation. -/
def graphRec (gop addr : Nat) : GraphRec := ⟨.queue 0, 0, gop, addr, 0⟩

/-- A registered graph object of two nodes and the edge from node 0 to node 1. -/
def pairGraph (addr : Nat) (overlap : Bool) : Graph :=
  let r := parseRecord twoBlocks
  let roles : List RoleRec := [⟨0x100, 64, 64, 0⟩]
  { addr := addr, context := 0, overlap := overlap, nodes := [r, r], rolesOf := [roles, roles], edges := [⟨0, 1, []⟩],
    patches := 0, pcount := 0, removing := false, pending := false }

/-- The same with a graph record, graphs and replays. -/
def graphed (recs : List GraphRec) (gs : List Graph) (rs : List Replay) (s : State) : State :=
  { s with work := { s.work with opened := true, graphRecs := recs, graphs := gs, replays := rs } }

theorem witness_GraphsAndPlacement_graphs :
    (let s := graphed [graphRec 1 0] [] [] (ready .nop)
     s.work.graphRecs.find? (fun g => g.gop == 1) = some (graphRec 1 0) ∧ (readGraph s 0 0).isNone = true) ∧
    (let at_ := codeAt + 0x1000
     let s := graphed [graphRec 1 at_] [] [] (poke (codeFrame + 0x1000)
       (wordsBytes [1, 1, 0, 0, 0x2000, 1, 0x2000, 1, 0, 0, 0, 0, 0, 0, 0, 0] ) (poke (codeFrame + 0x2000) (wordsBytes twoBlocks) (ready .nop)))
     s.work.graphRecs.find? (fun g => g.gop == 1) = some (graphRec 1 at_) ∧ (readGraph s 0 at_).isSome = true ∧
       graphCount s < 256 ∧ replaysOf s at_ 0 = []) ∧
    (let s := graphed [graphRec 2 64] [] [] (ready .nop)
     s.work.graphRecs.find? (fun g => g.gop == 2) = some (graphRec 2 64) ∧
       s.work.graphs.any (Graph.named 64 0) = false) ∧
    (let s := graphed [graphRec 2 64] [pairGraph 64 false] [] (ready .nop)
     s.work.graphRecs.find? (fun g => g.gop == 2) = some (graphRec 2 64) ∧
       s.work.graphs.any (Graph.named 64 0) = true) ∧
    (let s := graphed [graphRec 0 64] [] [] (ready .nop)
     s.work.graphRecs.find? (fun g => g.gop == 0) = some (graphRec 0 64) ∧ accepting s = true ∧
       replayWaits s 64 0 = false ∧ s.work.graphs.find? (Graph.named 64 0) = none) ∧
    (let at_ := codeAt + 0x1000
     let s := graphed [graphRec 0 at_] [pairGraph at_ false] [] (ready .nop)
     s.work.graphRecs.find? (fun g => g.gop == 0 && !replayWaits s g.addr g.context) = some (graphRec 0 at_) ∧
       accepting s = true ∧ replayWaits s at_ 0 = false ∧
       s.work.graphs.find? (Graph.named at_ 0) = some (pairGraph at_ false) ∧ (bindParams s (pairGraph at_ false)).isSome = true) ∧
    (let r : Replay := ⟨5, 64, 0, [0, 9], [0], [], 0⟩
     let s := graphed [graphRec 0 64] [pairGraph 64 false] [r] (ready .nop)
     replayWaits s 64 0 = true ∧ accepting s = true ∧ s.work.replays.find? (fun r => r.handle == 5) = some r ∧
       s.work.graphs.find? (fun g => g.addr == 64 && g.context == 0 && !g.pending) = some (pairGraph 64 false) ∧
       0 ∈ r.accepted ∧ (∃ e ∈ (pairGraph 64 false).edges, e.dst = 1 ∧ e.src ∉ r.done)) ∧
    (let r : Replay := ⟨5, 64, 0, [0, 9], [0], [0], 0⟩
     1 ∉ r.accepted ∧ (∀ e ∈ (pairGraph 64 false).edges, e.dst = 1 → e.src ∈ r.done ∧ e.bufs = []) ∧
       ((pairGraph 64 false).nodes[1]?).isSome = true ∧ ((pairGraph 64 false).rolesOf[1]?).isSome = true) := by
  decide +kernel

/-- Launch 1 of the record `twoBlocks`, alone, with these unassigned and assigned ranges. -/
def spread (free : List (Nat × Nat)) (runs : List Run) : Launch :=
  { handle := 1, record := parseRecord twoBlocks, context := 0, roles := [⟨0x100, 64, 64, 0⟩], free := free, runs := runs, lost := [],
    ended := 0, order := 0, generation := 0, restored := false, replay := none }

/-- The state with that launch alone. -/
def spreading (l : Launch) : State :=
  { State.reset with work := { State.reset.work with opened := true, launches := [l] } }

theorem witness_GraphsAndPlacement_placement :
    (let l := spread [(0, 2)] []
     let s := spreading l
     findLaunch s 1 = some l ∧ l.record.gp = false ∧ accepting s = true ∧ 15 ∉ s.failure.fencedDies ∧ remaining l 15 = 0) ∧
    (let l := spread [] [⟨0, 0, 2, some 3⟩]
     let s := spreading l
     findLaunch s 1 = some l ∧ l.record.unit = 1 ∧ 15 ∉ s.failure.fencedDies ∧ 0 ∉ s.failure.fencedDies ∧ l.free = []) ∧
    (let l := spread [] [⟨0, 0, 2, none⟩]
     let s := spreading l
     accepting s = true ∧ s.work.launches = [l] ∧ l.record.gq = 0 ∧ l.record.gd = 0 ∧ l.record.pair = false ∧
       l.record.qbound = false ∧ (∃ c, c / 16 = 0 ∧ blockFits s l false c = true)) :=
  ⟨by decide +kernel, by decide +kernel,
    ⟨by decide +kernel, by decide +kernel, by decide +kernel, by decide +kernel, by decide +kernel, by decide +kernel,
      15, by decide, by decide +kernel⟩⟩

/-- Operations in the queue of control context 0. -/
def queueing (l : List QueuedOp) (s : State) : State :=
  setControl 0 { Machine.controlAt s 0 with queue := l } s

theorem witness_MatrixEngineSteps_take :
    (let q : QueuedOp := ⟨5, .czero 15, none⟩
     let r : List QueuedOp := [⟨6, .czero 15, none⟩]
     let s := queueing (q :: r) (ready .nop)
     tablesRise s = true ∧ tget s.engines.rrQuad 0 0 = 0 ∧ (Machine.controlAt s 0).queue = q :: r ∧
       (engineFor s 0 0 q.op.ctile).isSome = true ∧ (∀ x ∈ r, x.id ≠ q.id) ∧
       s.power.throttled.contains 0 = false) ∧
    (let s := queueing [⟨5, .czero 15, none⟩] (ready .nop)
     ({ s with power := { s.power with throttled := [0] } } : State).power.throttled.contains 0 = true) := by decide +kernel

theorem witness_MatrixEngineSteps_complete :
    let m : MmaArgs := ⟨1, 2, 3, .e4m3, .e4m3, true, 4, 0, 5, 0, true⟩
    let d := descOf 32 32 2 0
    [MatOp.czero 1, .dense m d d [] [] true, .tri m d d [] [] true 0x40 true 1, .batched m d d [] [] true, .cload 1 2 .f32 d,
      .cdrain 1 2 .f32 (some 7) true true .ne [] 0 false d 0].all (fun op =>
      let q : QueuedOp := ⟨5, op, some 9⟩
      let s := queueing [q] (ready .nop)
      tablesRise s && ((Machine.controlAt s 0).queue.find? (fun q => q.engine == some 9) == some q) &&
        keysRise none (ctileAt (Machine.controlAt s 0) 1).elems) = true := by decide +kernel

/-- A copy command between the tile's row 0 and 16 bytes. -/
def aCopy (op : CopyOp) (segs : List (List Seg)) (rows : List Nat) (engine : Option Nat) : CopyCmd :=
  { id := 5, owner := codeId, context := 0, control := 0, core := 0, scratch := (0, 0), quad := 0, op := op, tile := 3,
    space := 0, event := true, far := 0, pitch := 0, value := 0x01020304, desc := descOf 1 16 2 0, segs := segs, stale := false,
    rows := rows, engine := engine, order := 0, promise := some 0, decided := false, again := 0, handed := none, failure := none,
    posted := false, sent := 0, unacked := [] }

/-- The state of `ready` with that command. -/
def copying (c : CopyCmd) : State :=
  { ready .nop with engines := { (ready .nop).engines with copies := [c] } }

/-- A run of 16 bytes at the top of the page of the code. -/
def aSeg : Seg := ⟨codeAt + 0xFFF0, codeFrame + 0xFFF0, 16, 0, 0, false, 1⟩

theorem witness_CopyAndNearSteps_copies :
    (let c := { aCopy .get [[aSeg]] [0] none with promise := none }
     let s := copying c
     nextCopy s 0 = some c ∧ (List.range 32).find? (fun e => !(busyEngines s 0).contains e) = some 0 ∧
       0 ∉ s.failure.fencedDies ∧ c.stale = false ∧ findCopy s c.id = some c ∧ findStrand s c.owner = some s.me) ∧
    ([CopyOp.get, .put].all (fun op =>
      let c := aCopy op [[aSeg]] [0] (some 3)
      let s := copying c
      (findCopy s 5 == some c) && c.running && c.rows.contains 0 && (c.segs.getD 0 [] == [aSeg]) &&
        (farState s c (op == .put) aSeg == .ready) && decide (aSeg.len = rowPayload c.desc) && memoriesWf s &&
        isLocal s aSeg.fab && (quadRegionOf s c.control).isSome && !tileRowPoisoned s c 0 &&
        decide (rowOffset c.desc 0 + rowPayload c.desc ≤ 2 ^ 24)) = true) ∧
    (let c := aCopy .fill [] [0] (some 3)
     let s := copying c
     findCopy s 5 = some c ∧ c.running = true ∧ memoriesWf s = true ∧ (quadRegionOf s c.control).isSome = true) ∧
    (let c := aCopy .fill [] [] (some 3)
     let s := copying c
     findCopy s 5 = some c ∧ c.running = true ∧ c.unacked = [] ∧ tablesRise s = true ∧ findStrand s c.owner = some s.me ∧ s.me.all ≠ [] ∧
       s.me.events.length + 2 ≤ 64 ∧ s.engines.eventWait.find? (fun e => e.1 == c.owner) = none ∧
       s.engines.copies.filter (fun x => x.id == 5) = [c]) ∧
    (let c := aCopy .fill [] [0] (some 3)
     (copying c).tick.toNat ≤ (0 : DWord).toNat ∧
       ∃ s : State, findCopy s 5 = some c ∧ c.promise = some 0 ∧ (0 : DWord).toNat < s.tick.toNat) ∧
    (let c := aCopy .get [[⟨codeAt, 2 ^ 43, 16, 0, 0, false, 1⟩]] [0] (some 3)
     mayFail (copying c) c .remoteFault = true ∧ mayFail (copying c) c .alignment = false ∧
       (tileAt (copying c) c.control c.tile).ret = false ∧ (copying c).engines.copies.filter (fun x => x.id == 5) = [c]) :=
  ⟨by decide +kernel, by decide +kernel, by decide +kernel, by decide +kernel,
    ⟨by decide +kernel, { copying (aCopy .fill [] [0] (some 3)) with tick := 1 }, by decide +kernel⟩, by decide +kernel⟩

/-- A near-memory command of one unit. -/
def aNear (op : NearOp) (u : NearUnit) : NearCmd :=
  { id := 5, owner := codeId, op := op, fmt := 0, alpha := 0x40000000, lambda := 0, tag := 7, units := [u], windowed := false }

/-- The state of `ready` with that command. -/
def nearing (c : NearCmd) : State :=
  { ready .nop with engines := { (ready .nop).engines with nears := [c] } }

theorem witness_CopyAndNearSteps_nears :
    ([NearOp.scale, .zero, .axpy, .fade].all (fun op =>
      let u : NearUnit := ⟨0x600000, 0x600100, .waiting, none, []⟩
      let c := aNear op u
      let s := nearing c
      (s.engines.nears.find? (fun c => c.id == 5) == some c) && (c.units[0]? == some u) &&
        !homeHeld s u.src 256 && !nearHeld s c u.src && !nearBefore s c u.tgt (some u.src) && !poisonedAt s u.src 256 &&
        poisonedAt { s with mem := { s.mem with poisoned := [0x6001] } } u.src 256) = true) ∧
    (let u : NearUnit := ⟨0x600000, 0, .waiting, some [], []⟩
     let c := aNear .scale u
     let s := nearing c
     s.engines.nears.find? (fun c => c.id == 5) = some c ∧ c.units[0]? = some u ∧ memoriesWf s = true ∧
       writeHeld s u.tgt 256 = false ∧ nearHeld s c u.tgt = false ∧ nearBefore s c u.tgt none = false ∧ poisonedAt s u.tgt 256 = false ∧
       c.units.all (fun u => u.state.finished) = false) ∧
    (let c := aNear .scale ⟨0x600000, 0, .done, some [], []⟩
     let s := nearing c
     s.engines.nears.find? (fun c => c.id == 5) = some c ∧ c.units.all (fun u => u.state.finished) = true ∧
       findStrand s c.owner = some s.me ∧ s.me.all ≠ []) := by decide +kernel

/-! ### Witnesses of the statements about homes -/

/-- An access of 4 bytes at a fabric address, not yet made. -/
def anAccess (kind fab : Nat) : Access :=
  { threads := 1, va := 0, fab := fab, size := 4, kind := kind, clevel := 0, index := 0, wt := false, stream := false, seq := 0,
    sent := 0, data := 5, din := 3, state := .waiting, result := 0, ok := false, delta := [] }

/-- The state of `ready` with the strand's one operation, of these accesses. -/
def asking (what : OpKind) (accs : List Access) : State :=
  { ready .nop with mem := { (ready .nop).mem with ops := [{ anOp what codeId with accs := accs }] } }

/-- Package 1 is admitted, behind port 0, which holds `n` unacknowledged flits. -/
def knows (n : Nat) (s : State) : State :=
  { s with links := { s.links with
    admitted := [1]
    ports := vset s.links.ports 0 { Port.untrained with up := true, peer := some 1, buffer := List.replicate n (1, .cancel 0) } } }

/-- A local address of the package's HBM, its pool, die 0, the power registers, and another package's. -/
def places : List Nat := [0, 0x600000, 0xEFFFFFFFFC, 0x20000000000, 0x70000000000]

/-- Staging frame 0, ACTIVE, at local address 0x600000. -/
def staging (st : BorrowState) (u : Staged) (s : State) : State :=
  { s with
    lending := { s.lending with borrows := [(0, { Borrow.free with state := st, stage := fabOf s 0x600000 })] }
    mem := { s.mem with staged := tput s.mem.staged .absent (stageKey 0 0) u } }

theorem witness_HomeAccesses_loads :
    (let o : Op := { anOp (.load .w) codeId with accs := [anAccess 0 0x600000] }
     let s := asking (.load .w) [anAccess 0 0x600000]
     findAcc s 7 0 = some (o, anAccess 0 0x600000) ∧ loads o = true ∧ mayGo s o 0 (anAccess 0 0x600000) true = true ∧
       servedByCopy s o (anAccess 0 0x600000) = none ∧ homeHeld s 0x600000 4 = false ∧ ownServes s 0x600000 = true ∧
       poisonedAt s 0x600000 4 = false ∧ poisonedAt { s with mem := { s.mem with poisoned := [0x6000] } } 0x600000 4 = true ∧
       homeHeld { s with mem := { s.mem with rebuilds := [⟨0x6000, 0x6000 / 15⟩] } } 0x600000 4 = true) ∧
    places.all (fun x =>
      let a := anAccess 0 x
      let s := asking (.loadv .w) [a]
      isLocal s a.fab && mayGo s { anOp (.loadv .w) codeId with accs := [a] } 0 a true && ownServes s x) = true ∧
    (let a := { anAccess 0 0x600000 with state := .done }
     mayGo (asking (.load .w) [a]) { anOp (.load .w) codeId with accs := [a] } 0 a true = false) ∧
    (let a := anAccess 0 0x600100
     let s := asking (.load .w) [a]
     let s := { s with mem := { s.mem with copies := [⟨0, 0x600100 / 128, List.replicate 128 1, 0⟩] } }
     (servedByCopy s { anOp (.load .w) codeId with accs := [a] } a).isSome = true) ∧
    (let a := anAccess 2 0x600000
     let s := asking (.load .w) [a]
     writeHeld s 0x600000 4 = false ∧ 0x600000 % 128 + 4 ≤ 128 ∧ lineWatched s 0x600000 = false ∧ memoriesWf s = true) ∧
    (let a := anAccess 0 (2 ^ 43)
     let s := asking (.load .w) [a]
     let o : Op := { anOp (.load .w) codeId with accs := [a] }
     findAcc s 7 0 = some (o, a) ∧ mayGo s o 0 a true = true ∧ servedByCopy s o a = none ∧ isLocal s a.fab = false ∧
       storesAhead s o a = false ∧ reaches s (fabPkg a.fab) = false ∧
       (let s := knows 0 s
        reaches s (fabPkg a.fab) = true ∧ tagsUsed s o.die a.fab = false ∧ linkFull s (fabPkg a.fab) = false) ∧
       (let s := knows 256 s
        reaches s (fabPkg a.fab) = true ∧ linkFull s (fabPkg a.fab) = true) ∧
       (let s := { s with mem := { s.mem with ops := { anOp .store codeId with id := 3, accs := [a] } :: s.mem.ops } }
        findAcc s 7 0 = some (o, a) ∧ storesAhead s o a = true)) ∧
    (let a := anAccess 5 0x7F000100000
     let s := asking (.load .w) [a]
     mayGo s { anOp (.load .w) codeId with accs := [a] } 0 a true = true ∧
       mmioHeld s { anOp (.load .w) codeId with accs := [a] } 0 = false) ∧
    (let a := anAccess 4 0x600000
     let s := staging .active (.clean 0) (asking (.load .w) [a])
     absentUnits s 0 0x600000 4 = [] ∧ homeHeld s 0x600000 4 = false ∧ poisonedAt s 0x600000 4 = false ∧
       tablesRise s = true ∧ stagedAt s 0 (stageUnit s 0 0x600000) = .clean 0) ∧
    (let a := anAccess 4 0x600000
     let s := staging .active .absent (asking (.load .w) [a])
     let v := asking (.loadv .w) [a]
     absentUnits s 0 0x600000 4 ≠ [] ∧ leaseCause (borrowAt s 0).state = none ∧
       fetchHeld s { anOp (.load .w) codeId with accs := [a] } = false ∧ stagedAt s 0 (stageUnit s 0 0x600000) = .absent ∧
       fetchHeld v { anOp (.loadv .w) codeId with accs := [a] } = false ∧
       storesAhead v { anOp (.loadv .w) codeId with accs := [a] } a = false ∧ tablesRise (staging .active (.clean 0) v) = true ∧
       leaseCause (borrowAt (staging .recalled .absent s) 0).state = some .leaseRecalled) := by decide +kernel

theorem witness_HomeAccesses_stores :
    places.all (fun x =>
      let a := anAccess 0 x
      let o : Op := { anOp .store codeId with accs := [a] }
      let s := asking .store [a]
      (findAcc s 7 0 == some (o, a)) && storesOut o.what && (findStrand s o.owner == some s.me) && !s.me.all.isEmpty &&
        mayGo s o 0 a false && isLocal s a.fab && !writeHeld s x 4 && ownServes s x && memoriesWf s &&
        s.failure.fencedDies.isEmpty) = true ∧
    (let a := anAccess 0 0x600000
     writeHeld { asking .store [a] with mem := { (asking .store [a]).mem with rebuilds := [⟨0x6001, 0x6000 / 15⟩] } } 0x600000 4
       = true) ∧
    (let a := anAccess 2 0x60007C
     let s := asking .rel [a]
     mayGo s { anOp .rel codeId with accs := [a] } 0 a false = true ∧ writeHeld s 0x60007C 4 = false ∧
       (zoneOf (isPlain s) 0x60007C = .hbm) ∧ 0x60007C % 128 + 4 ≤ 128) ∧
    (let a := anAccess 0 (2 ^ 43)
     let s := asking .store [a]
     reaches s (fabPkg a.fab) = false ∧ findStrand s codeId = some s.me ∧
       reaches { s with links := { s.links with admitted := [1] } } (fabPkg a.fab) = true ∧ tagsUsed s 0 a.fab = false) ∧
    (let a := anAccess 5 0x7F000000008
     let s := asking .store [a]
     zoneOf (isPlain s) 0x7F000000008 = .doorbell ∧ mmioHeld s { anOp .store codeId with accs := [a] } 0 = false ∧
       releaseReady s codeId 7 .sys = true ∧ isMmio s 0x7F000000008 = true ∧ a.data.toNat < 2 ^ 64 ∧
       (let s := asking .store [anAccess 0 0, a]
        mmioHeld s { anOp .store codeId with accs := [anAccess 0 0, a] } 1 = true)) ∧
    (let a := anAccess 4 0x600000
     let s := staging .renewing (.clean 0) (asking .store [a])
     leaseCause (borrowAt s 0).state = none ∧ absentUnits s 0 0x600000 4 = [] ∧ writeHeld s 0x600000 4 = false ∧
       memoriesWf s = true) ∧
    (let a := anAccess 4 0x600000
     let s := staging .renewing .absent (asking .store [a])
     stageUnit s 0 0x600000 ∈ absentUnits s 0 0x600000 4 ∧ fetchHeld s { anOp .store codeId with accs := [a] } = false ∧
       leaseCause (borrowAt (staging .lost .absent s) 0).state = some .lenderLost) := by decide +kernel

theorem witness_HomeAccesses_deltas :
    (let a := { anAccess 0 0x600000 with state := .applied, delta := [1, 2, 3, 4] }
     let s := asking .store [a]
     findAcc s 7 0 = some ({ anOp .store codeId with accs := [a] }, a) ∧ deltaRefused s 0x600000 = false ∧
       memoriesWf s = true ∧ findStrand s codeId = some s.me ∧ s.me.all ≠ [] ∧
       (let s := { s with tick := 2000, mem := { s.mem with mode := .degraded (stackOf false 0x600000), lostAt := some 0 } }
        deltaRefused s 0x600000 = true) ∧
       deltaBehind s 7 0 0x600000 = false ∧
       (let o := { anOp .store codeId with id := 6, accs := [a] }
        let s := { s with mem := { s.mem with ops := o :: s.mem.ops, deltas := [] ++ (6, 0) :: [(7, 0)] } }
        findAcc s 7 0 = some ({ anOp .store codeId with accs := [a] }, a) ∧ deltaUnit s (6, 0) = some (0x600000 / 256) ∧
          deltaBehind s 7 0 0x600000 = true)) ∧
    (let u : NearUnit := ⟨0x600000, 0, .applied, some [], [1]⟩
     let s := nearing (aNear .scale u)
     findAcc s 5 0 = none ∧ s.engines.nears.find? (fun c => c.id == 5) = some (aNear .scale u) ∧
       deltaRefused s u.tgt = false ∧ deltaBehind s 5 0 u.tgt = false) := by decide +kernel

theorem witness_HomeAtomicsAndReplies_atomics :
    places.all (fun x =>
      let a := anAccess 0 x
      let o : Op := { anOp (.atomic .badd false) codeId with accs := [a] }
      let s := asking (.atomic .badd false) [a]
      (findAcc s 7 0 == some (o, a)) && (o.atomic? == some (.badd, false)) && mayGo s o 0 a false && isLocal s a.fab &&
        !writeHeld s x 4 && ownServes s x && !poisonedAt s x 4 && memoriesWf s && decide (a.din.toNat < 2 ^ (8 * a.size))) = true ∧
    (let a := { anAccess 2 0x60007C with data := 0x3F800000 }
     let o : Op := { anOp (.cadd .f32 false) codeId with accs := [a] }
     let s := asking (.cadd .f32 false) [a]
     findAcc s 7 0 = some (o, a) ∧ mayGo s o 0 a false = true ∧ isLocal s a.fab = true ∧ lineWatched s 0x60007C = false ∧
       writeHeld s 0x60007C 4 = false ∧ memoriesWf s = true ∧
       lineWatched { s with mem := { s.mem with watches := [(0, ⟨.hub 0 0, .eq, false, none, 1, 0x600000, none⟩)] } } 0x60007C
         = true) := by decide +kernel

/-- A decide-once cell of a header at local address 0x600000, and a request of the strand there. -/
def celled (what : OpKind) (header : Nat) (din : DWord) : State :=
  poke 0x600000 (leBytes 8 9 ++ leBytes 8 header) (asking what [{ anAccess 1 0x600000 with size := 16, din := din }])

theorem witness_HomeAtomicsAndReplies_cells :
    [(0, 2), (1, 0), (1, 2), (2, 0), (3, 0)].all (fun (x : Nat × Nat) =>
      let s := celled .docProp (x.1 * 2 ^ 62 + 2 * 2 ^ 32) (BitVec.ofNat 64 x.2)
      let a := { anAccess 1 0x600000 with size := 16, din := BitVec.ofNat 64 x.2 }
      let o : Op := { anOp .docProp codeId with accs := [a] }
      (findAcc s 7 0 == some (o, a)) && mayGo s o 0 a false && isLocal s a.fab && !writeHeld s 0x600000 16 &&
        ownServes s 0x600000 && !poisonedAt s 0x600000 16 && memoriesWf s &&
        (memNat s.mem.bytes 0x600008 8 / 2 ^ 62 == x.1) && (memNat s.mem.bytes 0x600008 8 / 2 ^ 32 % 2 ^ 30 == 2)) = true ∧
    (let s := asking .docRead [anAccess 1 0x600000]
     let s := { s with mem := { s.mem with docs := [⟨0, 0x600000, 3, 8⟩] } }
     docCopy? s 0 0x600000 3 = some ⟨0, 0x600000, 3, 8⟩ ∧ docCopy? s 0 0x600000 2 = none) := by decide +kernel

/-- A watch table whose first `n` entries are in use. -/
def fullWatches (n : Nat) : Tbl WatchEntry :=
  (List.range n).map (fun k => (k, ⟨.hub 0 0, .eq, false, none, 1, 0x500000, none⟩))

theorem full_table {α : Type} (e : α) (n : Nat) (l : List Nat) (h : n ∈ l) :
    (tget? (l.map (fun k => (k, e))) n).isNone = false := by
  induction l with
  | nil => simp at h
  | cons k r ih =>
    simp only [List.map_cons, tget?]
    split
    · rfl
    · exact ih (by simpa [show ¬ n = k from fun x => ‹¬ k = n› x.symm] using h)

theorem fullWatches_used (n i : Nat) (h : i < n) : (tget? (fullWatches n) i).isNone = false :=
  full_table _ i (List.range n) (List.mem_range.mpr h)

/-- Die 0's watch table with every entry in use. -/
def allWatched (s : State) : State := { s with mem := { s.mem with watches := fullWatches 4096 } }

theorem no_free_watch (s : State) : freeWatch (allWatched s) 0 = none := by
  refine List.find?_eq_none.mpr fun i hi => ?_
  have h := fullWatches_used 4096 i (List.mem_range.mp hi)
  simp only [allWatched, Nat.zero_mul, Nat.zero_add, h]
  simp

theorem witness_HomeAtomicsAndReplies_watches :
    (let a := anAccess 0 0x600000
     let s := asking (.watch .geu false (some 1)) [a]
     findOp s 7 = some { anOp (.watch .geu false (some 1)) codeId with accs := [a] } ∧ isLocal s a.fab = true ∧
       homeHeld s 0x600000 4 = false ∧ poisonedAt s 0x600000 4 = false ∧ watchDie s 0x600000 ∉ s.failure.fencedDies ∧
       s.mem.partials = [] ∧ memNat s.mem.bytes 0x600000 4 < 5 ∧ ¬ (1 : DWord).toNat ≤ s.tick.toNat ∧
       (0 : DWord).toNat ≤ s.tick.toNat ∧ freeWatch s (watchDie s 0x600000) = some 0 ∧
       findStrand s codeId = some s.me) ∧
    (∀ s, freeWatch (allWatched s) 0 = none) ∧
    (let e : WatchEntry := ⟨.strand 7 codeId 0, .eq, false, some 0, 1, 0x600000, none⟩
     let s := asking (.watch .eq false (some 0)) [anAccess 0 0x600000]
     let s := { s with mem := { s.mem with watches := [(3, e)] } }
     tget? s.mem.watches 3 = some e ∧ (0 : DWord).toNat ≤ s.tick.toNat ∧ (findOp s 7).isSome = true ∧ tablesRise s = true) := by
  exact ⟨by decide +kernel, no_free_watch, by decide +kernel⟩

theorem witness_HomeAtomicsAndReplies_replies :
    (let a := { anAccess 0 0x600000 with threads := BitVec.allOnes 32, state := .done, result := 9 }
     let s := { asking (.load .w) [a] with mem := { (asking (.load .w) [a]).mem with
       ops := [{ anOp (.load .w) codeId with accs := [a], uniform := true }] } }
     ∃ o, findOp s 7 = some o ∧ o.shared = none ∧ o.windowed = false ∧ o.gate = false ∧ o.holds = true ∧
       findStrand s o.owner = some s.me ∧ s.me.all ≠ [] ∧ (∀ a ∈ o.accs, a.state = .done) ∧ o.accs.length = 1 ∧
       s.me.frag? o.frag = some s.me.cur ∧ s.me.cur.heldPops = [] ∧ s.me.imaging = false ∧ awayStrand s o.owner = false ∧
       findCopy s 7 = none ∧ (∀ p ∈ s.mem.hub, p.2.asked ≠ some 7) ∧ s.lending.electing = none ∧
       (∀ st ∈ strandsOf s, (st.cur :: st.frags).Pairwise (fun f g => f.id ≠ g.id))) ∧
    (let a := { anAccess 0 0x600000 with state := .failed .poison }
     let s := asking (.load .w) [a]
     ∃ o, findOp s 7 = some o ∧ o.accs = [a] ∧ o.what = .load .w ∧ s.me.frag? o.frag = some s.me.cur ∧ s.me.cur.live = true) ∧
    (let a := { anAccess 0 (2 ^ 43) with state := .switched }
     let c := { anAccess 0 (2 ^ 43 + 512) with state := .switched }
     (let s := asking (.atomic .add false) [a, c]
      findAcc s 7 0 = some ({ anOp (.atomic .add false) codeId with accs := [a, c] }, a) ∧ isLocal s a.fab = false ∧
        peerMmio a.fab = false ∧ loads { anOp (.atomic .add false) codeId with accs := [a, c] } = false ∧ a.fab ≠ c.fab) ∧
     (let s := asking (.load .w) [a, c]
      let s := { s with mem := { s.mem with late := [(7, 0)] } }
      findAcc s 7 0 = some ({ anOp (.load .w) codeId with accs := [a, c] }, a) ∧ (7, 0) ∈ s.mem.late)) ∧
    (let a := { anAccess 0 (2 ^ 43) with state := .switched }
     let s := { asking .store [a] with mem := { (asking .store [a]).mem with
       ops := [{ anOp .store codeId with accs := [a], holds := false }] } }
     ∃ o, findOp s 7 = some o ∧ o.what = .store ∧ o.holds = false ∧ o.accs = [a] ∧ a.state = .switched) :=
  ⟨⟨{ anOp (.load .w) codeId with
        accs := [{ anAccess 0 0x600000 with threads := BitVec.allOnes 32, state := .done, result := 9 }]
        uniform := true }, by decide +kernel⟩,
    ⟨{ anOp (.load .w) codeId with accs := [{ anAccess 0 0x600000 with state := .failed .poison }] }, by decide +kernel⟩,
    by decide +kernel,
    ⟨{ anOp .store codeId with
        accs := [{ anAccess 0 (2 ^ 43) with state := .switched }]
        holds := false }, by decide +kernel⟩⟩

/-- The same operation with its release still to perform. -/
def gated (what : OpKind) (scope : Scope) (accs : List Access) (s : State) : State :=
  { s with mem := { s.mem with ops := [{ anOp what codeId with accs := accs, gate := true, scope := scope }] } }

theorem witness_HomeAtomicsAndReplies_releases :
    (let s := gated .rel .die [anAccess 0 0x600000] (ready .nop)
     (findOp s 7).isSome = true ∧ releaseReady s codeId 7 .die = true ∧
       (let s := { s with mem := { s.mem with ops := s.mem.ops ++ [{ anOp (.load .w) codeId with id := 3 }] } }
        releaseReady s codeId 7 .die = false)) ∧
    (let p := { anOp (.load .w) codeId with id := 8, accs := [{ anAccess 0 (2 ^ 43) with state := .switched }] }
     let s := gated .fence .pod [] (ready .nop)
     let s := { s with mem := { s.mem with ops := s.mem.ops ++ [p] } }
     releaseReady s codeId 7 .pod = true ∧ p ∈ s.mem.ops ∧ p.die = 0 ∧ isLocal s (2 ^ 43) = false) ∧
    (let s := gated .fence .pod [] (ready .nop)
     (findOp s 7).isSome = true ∧ releaseReady s codeId 7 .pod = true ∧ stagedOwed s codeId = false ∧
       findStrand s codeId = some s.me ∧ s.me.all ≠ []) ∧
    (let a := anAccess 0 (2 ^ 43)
     let s := { ready .nop with
       mem := { (ready .nop).mem with ops := [{ anOp .rel codeId with accs := [a], switchHeld := true }] } }
     (let s := knows 254 s
      (findOp s 7).isSome = true ∧ postedOut s = 0 ∧ reaches s 1 = true ∧ tagsUsed s 0 a.fab = false ∧
        fabPkg a.fab = 1 ∧ linkFull s 1 = false ∧
        linkFull (sendTo 1 (.fenceMsg (fenceBytes ⟨7, 1, pkgNo s, 1, 1⟩)) s) 1 = false ∧ findStrand s codeId = some s.me ∧
        s.me.all ≠ []) ∧
     (let s := knows 256 s
      postedOut s = 0 ∧ reaches s 1 = true ∧ linkFull s 1 = true ∧ 1 ≠ pkgNo s ∧ a.state = .waiting)) ∧
    (let a := { anAccess 0 (2 ^ 43) with state := .switched }
     let o : Op := { anOp (.atomic .add false) codeId with accs := [a] }
     let s := { asking (.atomic .add false) [a] with tick := 1000000 }
     findAcc s 7 0 = some (o, a) ∧ sentAway s o a = true ∧ a.sent.toNat + 1000000 ≤ s.tick.toNat ∧
       tget s.links.attempts 0 (attemptKey 7 0) < 4 ∧
       linkFull (knows 0 s) (boundFor (knows 0 s) o a) = false ∧ linkFull (knows 256 s) (boundFor (knows 256 s) o a) = true ∧
       (let s := { s with links := { s.links with attempts := [(attemptKey 7 0, 4)] } }
        4 ≤ tget s.links.attempts 0 (attemptKey 7 0)) ∧ o.what.posted = false ∧ o.holds = true) := by decide +kernel

/-! ### Witnesses of the statements about services, requests from outside and lending -/

/-- A service in progress, called by operation 7 of the strand. -/
def serving (kind : SvcKind) (arg : DWord) (begun : Bool) (s : State) : State :=
  { s with
    services := [⟨4, kind, arg, 7, begun, [], []⟩]
    mem := { s.mem with ops := [{ anOp (.service 4 false) codeId with accs := [{ anAccess 0 0 with state := .switched }], uniform := true }] } }

/-- Whether a service has been called and may begin. -/
def mayBegin (kind : SvcKind) (arg : DWord) (s : State) : Bool :=
  serviceOf s 4 kind == some ⟨4, kind, arg, 7, false, [], []⟩ && svcReady s ⟨4, kind, arg, 7, false, [], []⟩

theorem called_of_mayBegin {kind : SvcKind} {arg : DWord} {s : State} (h : mayBegin kind arg s = true) :
    called s 4 kind ⟨4, kind, arg, 7, false, [], []⟩ := by
  simp only [mayBegin, Bool.and_eq_true, beq_iff_eq] at h
  exact ⟨h.1, rfl, h.2⟩

/-- An area for images at local address 0x800000. -/
def imaging (s : State) : State := { s with failure := { s.failure with imageBase := 0x800000, imageSize := 0x101000 } }

/-- The strand waits for nothing but a tick, and its launch's images are small. -/
def resting (s : State) : State :=
  waits (.nap 5) { s with
    work := { s.work with
      blocks := [{ codeBlock with size := 0 }]
      launches := s.work.launches.map (fun l => { l with record := { l.record with strands := 0, laneMem := 0, scratch := 0, quadMem := 0, ctrl := false } })
      regions := s.work.regions.map (fun r => { r with size := 0 }) } }

theorem witness_ServicesAndDispositions_calls :
    [(SvcKind.inval, (0x4000 : DWord)), (.inval, 0x1000), (.bindload, 256), (.bindload, 255), (.evict, 0x40000000),
      (.evict, 5), (.evict, 0x3FFFFFFF), (.checkpoint, 0x40000000), (.checkpoint, 5), (.checkpoint, 0x3FFFFFFF),
      (.restore, 0x10000000000000), (.restore, 0), (.kill, 0x40000000), (.kill, 5), (.kill, 0x13FFFFFFF), (.kill, 0x3FFFFFFF)].all
      (fun x =>
        let s := serving x.1 x.2 false (ready .nop)
        mayBegin x.1 x.2 s && (bindTable s 0 0 == some []) && tablesRise s && (findLaunch s 5).isNone &&
          (findLaunch s codeHandle).isSome && !launchParked s codeHandle && launchParked (waits (.parked 0) s) codeHandle &&
          (findStrand s codeId == some s.me) && !s.me.all.isEmpty && (readImage s 0).isNone) = true ∧
    called (serving .inval 0x1000 false (ready .nop)) 4 .inval ⟨4, .inval, 0x1000, 7, false, [], []⟩ ∧
    (let s := ready .nop
     bindTable (poke 0 (List.replicate 8 0xFF) s) 0 1 = none ∧ (∃ b ∈ s.work.blocks, b.handle = codeHandle ∧ b.idx = 0) ∧
       svcReady (serving .kill 5 false s) ⟨4, .kill, 5, 7, false, [], []⟩ = true ∧
       (let s := serving .kill 5 false s
        let s := { s with mem := { s.mem with ops := { anOp (.load .w) codeId with id := 3 } :: s.mem.ops } }
        svcReady s ⟨4, .kill, 5, 7, false, [], []⟩ = false)) :=
  ⟨by decide +kernel, called_of_mayBegin (by decide +kernel), by decide +kernel⟩

theorem caller_of {s : State} {x : Service} {o : Op} {st : Strand} {f : Fragment} (ho : findOp s x.op = some o)
    (hs : findStrand s o.owner = some st) (hf : st.frag? o.frag = some f) (hp : f.heldPops = []) (ha : st.all ≠ []) :
    callerStays s x ∧ callerPopsNothing s x := by
  refine ⟨fun o' st' h h' => ?_, fun o' st' f' h h' h'' => ?_⟩ <;> rw [ho] at h <;> cases h <;> rw [hs] at h' <;> cases h'
  · exact ha
  · rw [hf] at h''
    cases h''
    exact hp

theorem witness_ServicesAndDispositions_callers :
    [serving .evict 0x3FFFFFFF true (ready .nop), modMe (fun st => { st with checkpointing := true }) (serving .checkpoint 0x3FFFFFFF true (ready .nop)),
      serving .restore 0x801000 false (ready .nop), imaging (resting (serving .evict 0x3FFFFFFF true (ready .nop)))].all (fun s =>
      (findOp s 7).isSome && (findStrand s codeId == some s.me) && (s.me.frag? 0 == some s.me.cur) && s.me.cur.heldPops.isEmpty
        && !s.me.all.isEmpty) = true ∧
    (let s := imaging (resting (serving .evict 0x3FFFFFFF true (ready .nop)))
     idsDiffer s ∧ callerStays s ⟨4, .evict, 0x3FFFFFFF, 7, true, [], []⟩ ∧ callerPopsNothing s ⟨4, .evict, 0x3FFFFFFF, 7, true, [], []⟩) :=
  ⟨by decide +kernel, by unfold idsDiffer; decide +kernel,
    caller_of (o := { anOp (.service 4 false) codeId with accs := [{ anAccess 0 0 with state := .switched }], uniform := true })
      (by decide +kernel) (st := (resting (ready .nop)).me) (by decide +kernel) (f := (resting (ready .nop)).me.cur) (by decide +kernel)
      (by decide +kernel) (by decide +kernel)⟩

theorem witness_ServicesAndDispositions_ends :
    (let s := serving .inval 0 true (ready .nop)
     serviceOf s 4 .inval = some ⟨4, .inval, 0, 7, true, [], []⟩) ∧
    (let s := serving .inval 0 true (ready .nop)
     (findOp { s with services := [⟨4, .inval, 0, 7, true, [7], []⟩] } 7).isSome = true) ∧
    (let s := imaging (resting (serving .evict 0x3FFFFFFF true (ready .nop)))
     s.services.find? (fun x => x.kind == .evict && x.begun && x.arg.toNat % 2 ^ 30 == codeHandle && x.arg.toNat / 2 ^ 32 == 0)
         = some ⟨4, .evict, 0x3FFFFFFF, 7, true, [], []⟩ ∧
       (∃ b, s.work.blocks.find? (fun b => b.handle == codeHandle && b.idx == 0 && !b.twin) = some b ∧
         ∃ l, findLaunch s codeHandle = some l ∧ launchParked s codeHandle = false ∧
           (∀ st ∈ blockStrands s codeHandle 0, quiet s st = true) ∧
           (storeImages [blockImage s l b 0] s).isSome = true ∧
           (storeImages [blockImage s l b 0] { s with failure := { s.failure with imageSize := 0 } }).isNone = true) ∧
       ∃ st ∈ blockStrands (ready .nop) codeHandle 0, quiet (ready .nop) st = false) ∧
    (let s := modMe (fun st => { st with checkpointing := true }) (imaging (resting (serving .checkpoint 0x3FFFFFFF true (ready .nop))))
     serviceOf s 4 .checkpoint = some ⟨4, .checkpoint, 0x3FFFFFFF, 7, true, [], []⟩ ∧ launchParked s codeHandle = false ∧
       (∀ st ∈ launchStrands s codeHandle, st.checkpointing = true ∧ quiet s st = true) ∧
       ∃ l, findLaunch s codeHandle = some l ∧ (storeImages (checkpointImages s l [] 1) s).isSome = true) :=
  ⟨by decide +kernel, by decide +kernel,
    ⟨by decide +kernel, ⟨{ codeBlock with size := 0 }, by decide +kernel,
      (resting (ready .nop)).work.launches.headD (codeLaunch State.reset), by decide +kernel⟩, ⟨(ready .nop).me, by decide +kernel⟩⟩,
    ⟨by decide +kernel, by decide +kernel, by decide +kernel,
      (resting (ready .nop)).work.launches.headD (codeLaunch State.reset), by decide +kernel⟩⟩

/-- An image of a kind at the start of the images. -/
def imageAt (kind n gen : Nat) (body : List Byte) (s : State) : State :=
  poke 0x801000 (sealed kind codeHandle n 0 0 0 0 gen body [] []) (imaging s)

set_option maxRecDepth 20000 in
theorem witness_ServicesAndDispositions_restore :
    (let s := serving .restore 0x801000 false (imageAt 4 0 0 (leBytes 4 1) { ready .nop with work := { (ready .nop).work with launches := [] } })
     ∃ bs, mayBegin .restore 0x801000 s = true ∧ readImage s 0x801000 = some bs ∧ numAt bs 0 4 / 2 ^ 16 % 8 = 4 ∧ numAt bs 8 4 % 2 ^ 30 = codeHandle ∧
       findLaunch s codeHandle = none ∧
       (rolesOf s (tget s.work.contexts 0 codeHandle) (parseRecord (recordWords (slice bs 0x20 64)))).isSome = true) ∧
    (let s := serving .restore 0x801000 false (imageAt 3 9 7 [] (ready .nop))
     ∃ bs l, mayBegin .restore 0x801000 s = true ∧ readImage s 0x801000 = some bs ∧ numAt bs 0 4 / 2 ^ 16 % 8 = 3 ∧ numAt bs (bs.length - 8) 4 ≠ 0 ∧
       findLaunch s codeHandle = some l ∧ l.restored = false) ∧
    (let s := serving .restore 0x801000 false (imageAt 3 9 0 [] (ready .nop))
     ∃ bs l q rest, mayBegin .restore 0x801000 s = true ∧ readImage s 0x801000 = some bs ∧ numAt bs 0 4 / 2 ^ 16 % 8 = 3 ∧ numAt bs (bs.length - 8) 4 = 0 ∧
       findLaunch s codeHandle = some l ∧ l.record.pair = false ∧ openQuads s l false = q :: rest) ∧
    (let s := serving .restore 0x801000 false (imageAt 2 9 0 [] { ready .nop with work := { (ready .nop).work with evicted := [⟨codeHandle, 9, [], []⟩] } })
     ∃ bs l g, mayBegin .restore 0x801000 s = true ∧ readImage s 0x801000 = some bs ∧ numAt bs 0 4 / 2 ^ 16 % 8 = 2 ∧ numAt bs (bs.length - 8) 4 = 0 ∧
       findLaunch s codeHandle = some l ∧ (∀ b ∈ s.work.blocks, ¬ (b.handle = codeHandle ∧ b.idx = 9)) ∧
       (∃ e ∈ s.work.evicted, e.handle = codeHandle ∧ e.idx = numAt bs 0x0C 4) ∧
       s.work.regions.find? (fun g => g.handle == l.handle && g.orig == numAt bs 0x1C 4 && !g.twin) = some g ∧
       (chooseCore s l false (coresOf g.quad)).isSome = true) :=
  ⟨⟨sealed 4 codeHandle 0 0 0 0 0 0 (leBytes 4 1) [] [], by decide +kernel⟩,
    ⟨sealed 3 codeHandle 9 0 0 0 0 7 [] [] [], (ready .nop).work.launches.headD (codeLaunch State.reset), by decide +kernel⟩,
    ⟨sealed 3 codeHandle 9 0 0 0 0 0 [] [] [], (ready .nop).work.launches.headD (codeLaunch State.reset), 
      (openQuads (ready .nop) (codeLaunch State.reset) false).headD 0, (openQuads (ready .nop) (codeLaunch State.reset) false).tail,
      by decide +kernel⟩,
    ⟨sealed 2 codeHandle 9 0 0 0 0 0 [] [] [], (ready .nop).work.launches.headD (codeLaunch State.reset), codeRegion,
      by decide +kernel⟩⟩

/-- A fault-queue entry that parks the strand, with a disposition. -/
def anEntry (disp : Option (Word × Word)) (c : Cause) : FaultEntry :=
  { cause := causeCode c, detail := 1, flags := 0x20000, handle := codeHandle, strand := 0, whereW := 0, tmask := 1, epc := 0x100,
    addr := 0x200, arg := 0, func := 0, parks := some (codeId, 0), em := .zero, disp := disp }

/-- The strand parked by that entry, which stands at index 0. -/
def disposed (d : Word) (c : Cause) : State :=
  let s := waits (.parked 0) (ringed (ready .nop))
  modMe (fun st => { st with trap := { st.trap with tvec := 0x2000 } })
    { s with kernel := { s.kernel with fqprod := 1, fqcons := 1, written := [(0, anEntry (some (d, 0)) c)] } }

/-- The strand of `ready` with its twin beside it; their windows have these signatures. -/
def twinned (a b : Option DWord) (s : State) : State :=
  let s := paired s
  { s with
    me := { s.me with windowSig := a }
    others := [{ s.me with who := { s.me.who with id := twinOf codeId, twin := true }, windowSig := b }] }

theorem witness_ServicesAndDispositions_strands :
    (let s := modMe (fun st => { st with killing := true }) (ready .nop)
     findStrand s codeId = some s.me ∧ s.me.killing = true ∧ inFlight s codeId = 0 ∧ s.me.place.isCtl = false ∧
       s.work.blocks.filter (fun b => b.handle == codeHandle && b.idx == s.me.who.blockIdx && b.twin == s.me.who.twin) = [codeBlock]) ∧
    (let e := anEntry none .translation
     let s := { ringed (ready .nop) with kernel := { (ringed (ready .nop)).kernel with waitingFaults := [e] } }
     s.kernel.waitingFaults = e :: [] ∧ hasRing s = true ∧ ringRoom s = true ∧ hasRing (ready .nop) = false) ∧
    (nextDisp (disposed 0 .translation) = some (0, anEntry (some (0, 0)) .translation) ∧
      findStrand (disposed 0 .translation) codeId = some (disposed 0 .translation).me ∧ tablesRise (disposed 0 .translation) = true ∧
      actionOf (disposed 0 .translation) 0 (anEntry (some (0, 0)) .translation) = .resume ∧
      actionOf (disposed 1 .translation) 0 (anEntry (some (1, 0)) .translation) = .reflect ∧
      actionOf (disposed 1 .poison) 0 (anEntry (some (1, 0)) .poison) = .kill ∧
      (anEntry (some (1, 0)) .translation).flags.getLsbD 19 = false) ∧
    (let s := twinned (some 5) (some 5) (ready .nop)
     pairedId s codeHandle 0 0 = codeId ∧ (findStrand s codeId).isSome = true ∧ (findStrand s (twinOf codeId)).isSome = true ∧
       (∀ st ∈ strandsOf s, (st.cur :: st.frags).Pairwise (fun f g => f.id ≠ g.id)) ∧
       (strandsOf s).Pairwise (fun a b => a.who.id ≠ b.who.id)) ∧
    (let s := twinned (some 5) none { ready .nop with tick := 1000000 }
     s.me.windowSig = some 5 ∧ s.me.windowAt.toNat + 1000000 ≤ s.tick.toNat ∧ (findStrand s (twinOf codeId)).isSome = true) := by
  decide +kernel

/-- A request of another agent for 4 bytes of this package's memory. -/
def aRequest (kind : OuterKind) (addr : Nat) : OuterReq :=
  { kind := kind, addr := addr, size := 4, data := 5, din := 3, leaseId := 0, who := 0, dest := none, fence := none, whole := true }

/-- The tag of such a request. -/
def aTag : ReqTag := ⟨1, 0, 0⟩

theorem outerReady_here (k : OuterKind) (h : k = .store ∨ k = .watch .geu false none) :
    outerReady 1 (aRequest k 0x60007C) (ready .nop) := by
  rcases h with rfl | rfl <;> exact
  ⟨by decide +kernel, by decide +kernel, by decide +kernel, by decide +kernel, by decide +kernel, by decide +kernel, by decide +kernel,
    by intro d h; simp [show (ready .nop).failure.fencedDies = [] from by decide +kernel], by decide +kernel, by decide +kernel,
    by decide, by decide, by decide +kernel, by decide⟩

theorem witness_OuterAndStaged_requests :
    (seenTag (ready .nop) aTag (homeNo (ready .nop) 0x60007C) = none ∧ outerReady aTag.pkg (aRequest .store 0x60007C) (ready .nop) ∧
      forHome (ready .nop) aTag (aRequest .store 0x60007C) ∧ performed OuterKind.store = true) ∧
    [OuterKind.load, .store, .atomic .badd, .deposit, .docProp, .docRead, .docReset, .docStat].all (fun k =>
      performed k && !behindFence (ready .nop) aTag (aRequest k 0x600000)) = true ∧
    (let r := { aRequest .store 0x600000 with dest := some 1 }
     let s := knows 0 (ready .nop)
     behindFence s aTag r = false ∧ reaches s 1 = true ∧ linkFull s 1 = false ∧
       (let s := { s with links := { s.links with heldFences := [⟨5, 0, aTag.pkg, 0, 1⟩] } }
        behindFence s aTag { r with fence := some 5 } = true)) ∧
    (let s := { ready .nop with links := { (ready .nop).links with filter := [⟨aTag, homeNo (ready .nop) 0x600000, 9, none, true⟩] } }
     (seenTag s aTag (homeNo s 0x600000)).map (fun e => e.replied) = some true ∧
     (let s := { s with links := { s.links with filter := [⟨aTag, homeNo (ready .nop) 0x600000, 9, none, false⟩] } }
      (seenTag s aTag (homeNo s 0x600000)).map (fun e => e.replied) = some false)) ∧
    (forHome (ready .nop) aTag (aRequest (.watch .geu false none) 0x60007C) ∧
      outerReady aTag.pkg (aRequest (.watch .geu false none) 0x60007C) (ready .nop)) ∧
    (isMmio (ready .nop) 0x7F000000000 = true ∧ zoneOf (isPlain (ready .nop)) 0x7F0000F0000 = .unbacked) ∧
    (memNat (ready .nop).mem.bytes 0x60007C 4 < 5 ∧ freeWatch (ready .nop) (watchDie (ready .nop) 0x60007C) = some 0) ∧
    (∃ s : State, let p := vget s.links.ports 17 .untrained; p.endpoint = true ∧ p.up = true ∧ p.retraining = false) ∧
      (vget (ready .nop).links.ports 17 .untrained).endpoint = false ∧
    (let p : Point := ⟨5, none, true, [], 0⟩
     let s := { ready .nop with tick := 16384, mem := { (ready .nop).mem with points := [p] } }
     s.mem.points.find? (fun p => p.line == 5) = some p ∧ p.lastTransfer.toNat + 16384 ≤ s.tick.toNat) :=
  ⟨⟨by decide +kernel, outerReady_here _ (.inl rfl), ⟨rfl, rfl, .inl rfl⟩, rfl⟩, by decide, by decide +kernel, by decide +kernel,
    ⟨⟨rfl, rfl, .inr ⟨.geu, false, .none, rfl⟩⟩, outerReady_here _ (.inr rfl)⟩, by decide +kernel, by decide +kernel,
    ⟨{ ready .nop with links := { (ready .nop).links with ports := vset (ready .nop).links.ports 17 { Port.untrained with endpoint := true, up := true } } },
      by decide +kernel⟩, by decide +kernel⟩

theorem witness_OuterAndStaged_awaited :
    let a : Awaited := ⟨1, .stageFetch aTag 0 0 7, 0, 4, false⟩
    let s := staging .active (.fetching false) (ready .nop)
    let late := { s with tick := 1000000 }
    stillAwaited s a.msg = true ∧ s.tick.toNat < a.sent.toNat + 1000000 ∧ tablesRise late = true ∧
      a.sent.toNat + 1000000 ≤ late.tick.toNat ∧ linkFull (knows 0 late) a.dest = false ∧ linkFull (knows 256 late) a.dest = true ∧
      late.mem.ops = [] ∧ late.engines.copies = [] ∧ stillAwaited (knows 256 late) a.msg = true := by decide +kernel

theorem witness_OuterAndStaged_staged :
    (let a := { anAccess 4 0x600000 with state := .switched }
     let s := staging .active (.fetching false) (asking (.load .w) [a])
     let o : Op := { anOp (.load .w) codeId with accs := [a] }
     stagedAt s 0 0 = .fetching false ∧ leaseCause (borrowAt s 0).state = none ∧ tablesRise s = true ∧ s.mem.ops.length = 1 ∧
       memoriesWf s = true ∧ s.mem.watches = [] ∧ s.tick.toNat < (0 : DWord).toNat + 131072 ∧
       stagedAt (staging .active (.fetching true) s) 0 0 = .fetching true ∧ tablesRise (staging .active (.fetching true) s) = true ∧
       findAcc s 7 0 = some (o, a) ∧ waitsUnit s 0 0 o a = true ∧ absentUnits s 0 0x600000 4 = [0] ∧
       s.engines.copies = [] ∧ (List.replicate 256 (1 : Byte)).length = 256) ∧
    (let s := staging .active (.clean 0) { ready .nop with tick := 131072 }
     tablesRise s = true ∧ stagedAt s 0 0 = .clean 0 ∧ (0 : DWord).toNat + 131072 ≤ s.tick.toNat ∧ (borrowAt s 0).state ≠ .lost) ∧
    (let s := staging .active (.dirty 0 [1, 2] [codeId] 0) (ready .nop)
     tablesRise s = true ∧ stagedAt s 0 0 = .dirty 0 [1, 2] [codeId] 0 ∧ (borrowAt s 0).state = .active ∧
       (borrowAt (staging .recalled .absent s) 0).state = .recalled) ∧
    (let s := staging .active (.writing [1] [2] 0 [codeId] (some codeId) true) (ready .nop)
     tablesRise s = true ∧ stagedAt s 0 0 = .writing [1] [2] 0 [codeId] (some codeId) true ∧
       findStrand s codeId = some s.me ∧ (borrowAt s 0).state ≠ .lost ∧ s.mem.ops = [] ∧
       (let a := { anAccess 4 0x600000 with state := .switched }
        waitsUnit (staging .active (.writing [1] [2] 0 [codeId] none true) (asking (.load .w) [a])) 0 0 (anOp (.load .w) codeId) a = true)) ∧
    (let s := asking .store [{ anAccess 0 (2 ^ 43) with state := .switched }]
     s.links.heldFences = [] ∧ fenceCount s (pkgNo s) ≠ 0 ∧ fenceCount s 5 = 0) ∧
    (∃ s : State, (13, 0) ∈ s.links.probed ∧ (0 : DWord).toNat + 10000 ≤ s.tick.toNat) ∧
    (let s := { ready .nop with mem := { (ready .nop).mem with
       hub := [(hubKey 0 63, ⟨5, 1, 8 + 2, 0, 0, 0x100, 7, none⟩)] } }
     tablesRise s = true ∧ hubArmed s 0 63 = false ∧ isLocal s 0x600000 = true ∧ s.mem.partials = [] ∧
       (hubSlot s 0 63).hctl.toNat % 4 = 2 ∧ memNat s.mem.bytes 0x600000 4 < 5 ∧
       freeWatch s (watchDie s 0x600000) = some 0 ∧
       hubArmed { s with mem := { s.mem with watches := [(0, ⟨.hub 0 63, .eq, false, none, 1, 0x600000, none⟩)] } } 0 63 = true) :=
  ⟨by decide +kernel, by decide +kernel, by decide +kernel, by decide +kernel, by decide +kernel,
    ⟨{ ready .nop with tick := 10000, links := { (ready .nop).links with probed := [(13, 0)] } }, by decide +kernel⟩, by decide +kernel⟩

/-- A lease entry and a borrow entry at a tick, in a package whose time is set. -/
def lending (l : Lease) (b : Borrow) (tick : DWord) : State :=
  { State.reset with
    tick := tick
    lending := { State.reset.lending with leases := [(2047, l)], borrows := [(4095, b)], synced := true, timeSet := true } }

theorem witness_LendingSteps_lender :
    (let s := lending .free .free 0
     tablesRise s = true ∧ (leaseAt s 2047).state = .free ∧ extentNamed s 1535 = false ∧ s.lending.synced = true) ∧
    (let l : Lease := ⟨.offered, 7, 0, false, 0, 0, 0, 0⟩
     (leaseAt (lending l .free 0) 2047).state = .offered ∧ extentNamed (lending l .free 0) 7 = true) ∧
    (let l : Lease := ⟨.granted, 7, 5, false, 9, 100, 0, 1⟩
     let s := lending l .free 99
     leaseAt s 2047 = l ∧ s.tick.toNat < l.expiry.toNat ∧ s.tick.toNat + 10000000 < 2 ^ 64 ∧
       l.expiry.toNat ≤ (lending l .free 100).tick.toNat ∧ findLease s 5 9 = some (2047, l) ∧ findLease s 6 9 = none) ∧
    (let l : Lease := ⟨.recalling, 7, 5, false, 9, 100, 50, 1⟩
     findLease (lending l .free 49) 5 9 = some (2047, l) ∧ (lending l .free 49).tick.toNat < l.deadline.toNat ∧
       l.deadline.toNat ≤ (lending l .free 50).tick.toNat) ∧
    (let l : Lease := ⟨.expired, 7, 5, true, 9, 100, 50, 1⟩
     (leaseAt (lending l .free 49) 2047).scrubbing = true ∧ memoriesWf (lending l .free 49) = true) := by decide +kernel

theorem witness_LendingSteps_borrower :
    [BorrowState.free, .requested, .active, .renewing, .recalled, .releasing, .expired, .lost].all (fun st =>
      let b : Borrow := ⟨st, true, 3, 7, 9, 1, 2000000, 0, some 0⟩
      let s := lending .free b 10000000
      tablesRise s && ((borrowAt s 4095).state == st) && s.links.lostPeers.isEmpty && s.mem.staged.isEmpty && s.mem.ops.isEmpty) = true ∧
    (let b : Borrow := ⟨.active, true, 3, 7, 9, 1, 2000000, 0, some 0⟩
     b.expiry.toNat ≤ (1250000 : DWord).toNat + 3 * (b.dur * 1000000) / 4 ∧
       ¬ b.expiry.toNat ≤ (1249999 : DWord).toNat + 3 * (b.dur * 1000000) / 4) ∧
    (let b : Borrow := ⟨.renewing, true, 3, 7, 9, 1, 20010001, 0, some 0⟩
     let s := lending .free b 10000000
     (0 : DWord).toNat + 10000000 ≤ s.tick.toNat ∧ s.tick.toNat + 10000 < b.expiry.toNat) ∧
    (let b : Borrow := ⟨.active, true, 3, 7, 9, 1, 10000, 0, none⟩
     let s := lending .free b 0
     b.expiry.toNat ≤ s.tick.toNat + 10000 ∧
       s.lending.borrows.find? (fun p => p.2.lender == 3 && p.2.leaseId == 9
         && (p.2.state == .active || p.2.state == .renewing || p.2.state == .expired)) = some (4095, b)) ∧
    (let s := { State.reset with lending := { State.reset.lending with
       borrows := [(7, { Borrow.free with state := .active }), (9, { Borrow.free with state := .requested })] } }
     tablesRise s = true ∧ (borrowAt s 7).state ≠ .requested ∧ (borrowAt s 9).state = .requested ∧
       ∀ j : Fin 9, (borrowAt s j.val).state ≠ .requested) ∧
    (∃ s : State, 3 ∈ s.links.lostPeers) :=
  ⟨by decide +kernel, by decide, by decide +kernel, by decide +kernel, by decide +kernel,
    ⟨{ State.reset with links := { State.reset.links with lostPeers := [3] } }, by decide +kernel⟩⟩

/-- Package 0 is the cobbler. -/
def trading (offers requests : List (Nat × Nat × DWord)) : State :=
  { State.reset with lending := { State.reset.lending with cobbler := some 0, offers := offers, requests := requests } }

theorem witness_LendingSteps_cobbler :
    ((trading [] []).lending.cobbler = some (pkgNo (trading [] [])) ∧ (trading [] []).lending.requests = []) ∧
    ((trading [] [(5, 1, 0)]).lending.requests = [(5, 1, 0)] ∧ (trading [] [(5, 1, 0)]).lending.offers = []) ∧
    ((2, 1, (0 : DWord)) ∈ (trading [(2, 1, 0), (3, 1, 1)] []).lending.offers ∧
      ∀ p ∈ (trading [(2, 1, 0), (3, 1, 1)] []).lending.offers, p.1 < 2 ^ 16 ∧ p.2.1 < 2 ^ 16) ∧
    (let s := { trading [] [] with tick := 1000000 }
     s.lending.lastSent.toNat + 1000000 ≤ s.tick.toNat) ∧
    (let s := { State.reset with lending := { State.reset.lending with term := 4, cobbler := some 3 } }
     s.lending.cobbler = some 3 ∧ s.lending.heldUntil = none ∧ s.lending.timeSet = false ∧ s.tick.toNat ≤ (0 : DWord).toNat ∧
       (0 : DWord).toNat < ({ s with tick := 1 } : State).tick.toNat ∧ s.lending.term < 5 ∧
       (let s := { s with tick := 1000, lending := { s.lending with timeSet := true } }
        s.lending.timeSet = true ∧ s.tick.toNat ≤ (0 : DWord).toNat + 1000 ∧ (0 : DWord).toNat ≤ s.tick.toNat + 1000)) ∧
    (let s := knows 0 { State.reset with
       tick := 5000000
       boot := { State.reset.boot with stage := 6 }
       lending := { State.reset.lending with term := 4, cobbler := some 3, anchors := [0, 1] } }
     s.lending.electing = none ∧ s.lending.anchors.getD ((s.lending.term + 1) % s.lending.anchors.length) 0 = 1 ∧ 1 ≠ pkgNo s ∧
       anchorDead s 1 = false ∧ reaches s 1 = true) ∧
    (let s : State := { State.reset with
       tick := 5000000
       boot := { State.reset.boot with stage := 6 }
       lending := { State.reset.lending with term := 4, cobbler := some 3, anchors := [0], electCell := 0x1000 } }
     let s := poke 0x1008 (leBytes 8 (5 * 2 ^ 32)) s
     s.boot.stage = 6 ∧ s.lending.cobbler ≠ some (pkgNo s) ∧ s.lending.electing = none ∧ memoriesWf s = true ∧
       s.lending.lastBeat.toNat + 5000000 ≤ s.tick.toNat ∧ s.lending.anchors = [0] ∧ pkgNo s < 512 ∧
       s.lending.anchors.getD ((s.lending.term + 1) % s.lending.anchors.length) 0 = pkgNo s ∧ anchorDead s (pkgNo s) = false ∧
       poisonedAt s s.lending.electCell 16 = false ∧ memNat s.mem.bytes (s.lending.electCell + 8) 8 / 2 ^ 62 = 0 ∧
       memNat s.mem.bytes (s.lending.electCell + 8) 8 / 2 ^ 32 % 2 ^ 30 = (s.lending.term + 1) / s.lending.anchors.length) := by
  decide +kernel

/-- A state whose error log has room. -/
def logging (s : State) : State := { s with failure := { s.failure with logBase := 0x1000, logSize := 6 } }

/-- A unit or a parity unit under rebuild. -/
def rebuilding (l : List Rebuild) (s : State) : State := { s with mem := { s.mem with rebuilds := l } }

theorem witness_FailureAndLinks_arrays :
    (zoneOf (isPlain State.reset) (0xEFFFFFFF * 256) = .hbm ∧ zoneOf (isPlain State.reset) (0x200000000 * 256) = .pool ∧
      zoneOf (isPlain State.reset) (0xF0000000 * 256) = .unbacked ∧ memoriesWf State.reset = true ∧
      State.reset.mem.mode = .parity ∧ State.reset.mem.poisoned = [] ∧ State.reset.mem.rebuilds = []) ∧
    (logRoom (logging State.reset) = true ∧ (logging State.reset).failure.logHeld = [] ∧ logRoom State.reset = false ∧
      State.reset.failure.logDrop < 2 ^ 32 - 1 ∧ onLostStack State.reset 0xEFFFFFFF = false ∧
      onLostStack { State.reset with mem := { State.reset.mem with mode := .degraded 1 } } 0 = true ∧
      zoneOf (isPlain State.reset) 0 = .hbm ∧
      (let s := logging State.reset
       logRoom { s with failure := { s.failure with logWp := 64 } } = false ∧ 6 ≤ s.failure.logSize)) ∧
    (parityStack (7 / 15) = 0 ∧ unitOn (7 / 15) 7 = 6 ∧
      ({ State.reset with mem := { State.reset.mem with mode := .degraded 7 } } : State).mem.mode = .degraded 7) ∧
    (zoneOf (isPlain State.reset) (0x7003FFFFFE0 / 32 * 32) = .die 0 ∨ zoneOf (isPlain State.reset) (0x7003FFFFFE0 / 32 * 32) = .die 15) ∧
    (let r : Rebuild := ⟨7, 0⟩
     let s := rebuilding [r] State.reset
     s.mem.rebuilds.find? (fun r => r.unit == 7) = some r ∧ stripeBusy s 0 = false ∧ memoriesWf s = true ∧
       s.failure.logBase % 64 = 0 ∧ s.mem.rebuilds.filter (fun x => x.stripe == 0) = [r] ∧ s.mem.rebuildTicks = []) ∧
    (let s := rebuilding [⟨7, 0⟩, ⟨2 ^ 32, 0⟩] State.reset
     2 ≤ (s.mem.rebuilds.filter (fun x => x.stripe == 0)).length) ∧
    (let u : NearUnit := ⟨0x700, 0, .applied, some [], []⟩
     stripeBusy (nearing (aNear .scale u)) 0 = true) ∧
    (∃ s : State, ∃ r, s.failure.logHeld = [r] ∧ logRoom s = true ∧ memoriesWf s = true) :=
  ⟨by decide +kernel, by decide +kernel, by decide +kernel, by decide +kernel, by decide +kernel, by decide +kernel, by decide +kernel,
    ⟨{ logging State.reset with failure := { (logging State.reset).failure with logHeld := [⟨3, 0, 0, 0, 0, 0⟩] } }, ⟨3, 0, 0, 0, 0, 0⟩,
      by decide +kernel⟩⟩

theorem witness_FailureAndLinks_losses :
    (∃ s : State, s.mem.mode = .degraded 3 ∧ s.mem.lostAt = some 0 ∧ s.mem.settled = false ∧ (0 : DWord).toNat + 2000 ≤ s.tick.toNat) ∧
    (let a := { anAccess 0 0x600000 with state := .applied, delta := [1, 2, 3, 4] }
     let s := { asking .store [a] with mem := { (asking .store [a]).mem with
       mode := .degraded (stackOf false 0x600000), lostAt := some 0, settled := false } }
     s.mem.ops = [{ anOp .store codeId with accs := [a] }] ∧ s.engines.nears = [] ∧
       onStack s (stackOf false 0x600000) a = true ∧ findStrand s codeId = some s.me ∧ s.me.all ≠ []) ∧
    (let s := ready .nop
     15 ∉ s.failure.fencedDies ∧ s.mem.mode = .parity ∧ s.work.launches.Pairwise (fun a b => a.handle ≠ b.handle) ∧
       s.work.master = 0 ∧ s.work.deputy < 16 ∧ s.work.deputy ≠ 0 ∧ s.work.deputy ∉ s.failure.fencedDies ∧ s.mem.ops = [] ∧
       (∀ st ∈ strandsOf s, st.place.isCtl = false → st.place.die = 0 →
         ∃ b ∈ s.work.blocks, b.handle = st.who.id.handle ∧ b.idx = st.who.blockIdx ∧ b.core / 16 = 0)) ∧
    (let s : State := { State.reset with tick := 1000000, links := { State.reset.links with noRoute := [(5, 0)] } }
     tablesRise s = true ∧ 5 ≠ pkgNo s ∧ 5 ∉ s.links.lostPeers ∧ (5, 0) ∈ s.links.noRoute ∧ (0 : DWord).toNat + 1000000 ≤ s.tick.toNat) ∧
    (∃ s : State, 511 ∈ s.links.admitted) :=
  ⟨⟨{ State.reset with tick := 2000, mem := { State.reset.mem with mode := .degraded 3, lostAt := some 0 } }, by decide +kernel⟩,
    by decide +kernel, by decide +kernel, by decide +kernel,
    ⟨{ State.reset with links := { State.reset.links with admitted := [511] } }, by decide +kernel⟩⟩

theorem witness_FailureAndLinks_ports :
    [(⟨false, 128, true, false, List.replicate 62 0, 0, false, false, none, []⟩ : Port), ⟨false, 64, true, false, List.replicate 63 0, 0, false, false, none, []⟩,
      ⟨false, 32, true, false, [], 4, false, false, none, []⟩, ⟨true, 128, true, false, [], 4, false, false, none, []⟩,
      ⟨true, 128, true, false, [], 4, true, false, none, []⟩].all (fun p =>
      let s := { State.reset with links := { State.reset.links with ports := vset State.reset.links.ports 17 p } }
      portAt s 17 == p && p.up && !p.retraining &&
        ((p.replays.filter (fun t => decide (s.tick.toNat < t.toNat + 1000000)) ++ [s.tick]).length < 64 || p.rate == 64)) = true ∧
    (∃ s : State, (portAt s 17).retraining = true) ∧
    [Partner.package 511, .switch, .endpoint, .unfit none, .unfit (some 511)].all (fun p =>
      decide (p ≠ .package (pkgNo State.reset)) && !(portAt State.reset 17).up) = true ∧
    (let m : Nat × OutMsg := (1, .stageFetch aTag 0 0 0)
     let s := knows 255 (ready .nop)
     let s := setPort 17 { Port.untrained with buffer := [m] } s
     (portAt s 17).up = false ∧ (portAt s 17).endpoint = false ∧ m ∈ (portAt s 17).buffer ∧ m.2.isRequest = true ∧
       reaches s m.1 = true ∧ (∀ i, i < 18 → (portAt s i).up = true → (portAt s i).buffer.length + 1 ≤ 256)) ∧
    ((portAt State.reset 17).up = false ∧ (portAt State.reset 17).endpoint = false ∧ (portAt State.reset 17).buffer = []) :=
  ⟨by decide +kernel,
    ⟨{ State.reset with links := { State.reset.links with ports := vset State.reset.links.ports 17 { Port.untrained with retraining := true } } },
      by decide +kernel⟩, by decide +kernel, by decide +kernel, by decide +kernel⟩

theorem witness_StartPowerDebug_power :
    (∃ s : State, s.boot.failed = none ∧ s.boot.stage = 5 ∧ s.lending.cobbler = some 0) ∧
    (State.reset.boot.failed = none ∧ State.reset.boot.stage = 0 ∧ memoriesWf State.reset = true) ∧
    (let s := { State.reset with tick := 8000 }
     s.power.lastGrant.toNat / 8000 < s.tick.toNat / 8000 ∧ s.power.profile ≠ 1 ∧ 0 < burstTicksLeft s ∧
       (liveDies s).foldl (fun n d => n + (List.replicate 16 1).getD d 0) 0 ≤ 5500) ∧
    (∃ s : State, s.power.coolantSince = some 0 ∧ (0 : DWord).toNat + 1000000 * (s.power.budgetCut + 2) ≤ s.tick.toNat) ∧
    (∃ s : State, s.power.active = 1 ∧ burstTicksLeft s = 0) ∧ 15 ∈ liveDies State.reset :=
  ⟨⟨{ State.reset with
        boot := { State.reset.boot with stage := 5 }
        lending := { State.reset.lending with cobbler := some 0 } }, by decide +kernel⟩, by decide +kernel, by decide +kernel,
    ⟨{ State.reset with tick := 2000000, power := { State.reset.power with coolantSince := some 0 } }, by decide +kernel⟩,
    ⟨{ State.reset with
        tick := 300000000000
        power := { State.reset.power with active := 1, burstRuns := [(0, 300000000000)] } }, by decide +kernel⟩, by decide +kernel⟩

/-- The strand halted by the debugger. -/
def stopped (s : State) : State := modMe (fun st => { st with halted := true }) s

theorem witness_StartPowerDebug_debug :
    (findStrand (ready .nop) ⟨5, 5⟩ = none ∧ findStrand (stopped (ready .nop)) codeId = some (stopped (ready .nop)).me ∧
      (stopped (ready .nop)).me.halted = true ∧ (stopped (ready .nop)).me.frag? 0 = some (stopped (ready .nop)).me.cur ∧
      (stopped (ready .nop)).me.cur.wait = .ready ∧ (stopped (ready .nop)).me.stepping = none ∧
      (ready .nop).me.halted = false ∧ (stopped (ready .nop)).me.reports = []) ∧
    (let s := modMe (fun st => { st with stepping := some 0 }) (stopped (ready .nop))
     findStrand s codeId = some s.me ∧ s.me.frag? 0 = some s.me.cur ∧ s.me.cur.wait = .ready ∧
       (modMe (fun st => { st with stepping := some 9 }) s).me.frag? 9 = none) ∧
    (let r : Recorded := ⟨0, .illegalEncoding, 0, 1, 1, false, false, 2, .zero⟩
     let s := modMe (fun st => { st with reports := [r], trap := { st.trap with tvec := 0x2000 } }) (stopped (ready .nop))
     findStrand s codeId = some s.me ∧ s.me.halted = true ∧ s.me.reports = [r] ∧ (s.me.frag? r.frag).isSome = true ∧
       toHandler r.cause = true ∧ handlerActive s.me = false ∧ posAddr (tvecOf s.me) ≠ 0) ∧
    (let bs := leBytes 4 1 ++ leBytes 4 0x100 ++ leBytes 4 64 ++ leBytes 4 1 ++ List.replicate 240 0
     imageBad (ready .nop).me.place.isCtl bs = false ∧ imageBad (ready .nop).me.place.isCtl (0 :: bs) = true ∧ bs.length = 0x100) ∧
    (let l : Lease := ⟨.offered, 7, 0, false, 0, 0, 0, 0⟩
     let s := lending l ⟨.expired, true, 3, 7, 9, 1, 2000000, 0, some 0⟩ 0
     tablesRise s = true ∧ (leaseAt s 2047).state = .offered ∧ (borrowAt s 4095).state = .expired ∧ (leaseAt s 0).state = .free ∧
       (borrowAt s 0).state = .free) := by decide +kernel

/-! ### Witnesses of the statements about encodings and steps -/

theorem witness_DecodeEncode :
    wellFormed (.mmat ⟨15, 31, 31, .e5m2, .e2m1, true, 63, 3, 63, 3, false⟩ 0x7F true 3) = true ∧
    hasEncoding (.mmat ⟨15, 31, 31, .e5m2, .e2m1, true, 63, 3, 63, 3, false⟩ 0x7F true 3) = true := by decide

/-- Whether a code word stands at a virtual address. -/
def wordCheck (s : State) (va : BitVec 52) (w : Word) : Bool :=
  translates s (va.setWidth 64) && match resolve s s.me.place.agent s.me.who.context .fetch 4 (va.setWidth 64) with
  | .ok fab x _ => isLocal s fab && !peekRefused s fab 4 && !homeHeld s (fabLocal fab) 4 && decide (leafKind x ≠ 4) && !poisonedAt s (fabLocal fab) 4
      && decide (∀ o ∈ s.mem.ops, o.what.isStore = true → ∀ a ∈ o.accs, a.accepted = true → meets a.fab a.size fab 4 = false) && memNat s.mem.bytes (fabLocal fab) 4 == w.toNat
  | _ => false

theorem wordAt_of_check {s : State} {va : BitVec 52} {w : Word} (h : wordCheck s va w = true) : WordAt s va w := by
  unfold wordCheck at h
  cases hr : resolve s s.me.place.agent s.me.who.context .fetch 4 (va.setWidth 64) with
  | ok fab x k =>
    simp only [hr, Bool.and_eq_true, Bool.not_eq_true', beq_iff_eq, decide_eq_true_eq] at h
    obtain ⟨ht, ⟨⟨⟨⟨⟨ha, hb⟩, hg⟩, hc⟩, hd⟩, he⟩, hf⟩ := h
    exact ⟨ht, fab, x, k, hr, ha, hb, hg, hc, hd, he, hf⟩
  | bad => simp [hr] at h

/-- The same with the agenda's choices. -/
def choosing (l : List (Option Instr)) (s : State) : State := { s with agenda := l }

/-- A clause whose one word is all ones. -/
def illegal : State := placeWord State.reset 0xFFFFFFFF 0

theorem witness_StepRunsDecoded :
    (let i : Instr := .iadd 1 false (.reg 2) (.int 3)
     let s := choosing [none] (ready i)
     atInstr s = true ∧ Decodes s (encodeWords i) (.ok i) ∧ s.agenda = none :: [] ∧ ∃ t, exec i (choosing [] (ready i)) = .next t) ∧
    (let i : Instr := .lit 1 false 0x12345678
     atInstr (ready i) = true ∧ Decodes (ready i) (encodeWords i) (.ok i) ∧ (ready i).agenda = [] ∧
       ∃ t, exec i (ready i) = .next t ∧ moved (ready i) (endStep (ready i) t) = true) ∧
    (let s := choosing [none] illegal
     atInstr s = true ∧ ∃ r, Decodes s [0xFFFFFFFF] (.error r)) ∧
    (∃ s : State, s.agenda = [none] ∧ atInstr s = false) ∧
    (let s := modMe (fun st => { st with stepping := some 0 }) (stopped (ready .nop))
     atInstr s = true ∧ (ready .nop).me.halted = false ∧ s.me.stepping ≠ none ∧ moved s s = false ∧
       ∃ t, exec .nop s = .next t ∧ t.me.halted = true ∧ moved s t = true) ∧
    (∃ s t : State, s.agenda = [some .heartbeatSend] ∧ hasEncoding .heartbeatSend = false ∧
      exec .heartbeatSend { s with agenda := [] } = .next t) :=
  ⟨⟨by decide +kernel, ⟨(encodeWords (.iadd 1 false (.reg 2) (.int 3))).headD 0, wordAt_of_check (by decide +kernel),
        .inl ⟨by decide +kernel, by decide +kernel, rfl⟩⟩, rfl, _, rfl⟩,
    ⟨by decide +kernel, ⟨(encodeWords (.lit 1 false 0x12345678)).headD 0, wordAt_of_check (by decide +kernel),
      .inr ⟨by decide +kernel, by decide +kernel, 0x12345678, wordAt_of_check (by decide +kernel), by decide +kernel, rfl⟩⟩,
      by decide +kernel, _, rfl, by decide +kernel⟩,
    ⟨by decide +kernel, _, 0xFFFFFFFF, wordAt_of_check (by decide +kernel), .inl ⟨by decide +kernel, rfl, rfl⟩⟩,
    ⟨choosing [none] State.reset, rfl, by decide +kernel⟩,
    ⟨by decide +kernel, by decide +kernel, by decide +kernel, by decide +kernel, _, rfl, by decide +kernel, by decide +kernel⟩,
    ⟨choosing [some .heartbeatSend] State.reset, _, rfl, by decide, rfl⟩⟩

theorem witness_StepKeepsForms :
    ∃ s t : State, step s = .next t ∧ memoriesWf s = true ∧ tablesRise s = true :=
  ⟨choosing [some .nop] State.reset, _, rfl, by decide +kernel⟩

/-! ### Witnesses of further clauses -/

theorem witness_ResultTags_vectors :
    [Instr.mov, .sgen, .scanAdd, .scanFadd, .stag, .ballot, .allnz, .anynz, .redAdd, .redFadd, .redMin, .redMax, .ineg, .bswap, .fneg,
      .fsigm, .frndNe, .ffract].all (fun mk => let i := mk 1 false .tid
      executes (vecNeed i 1 [.tid]) (ready i)) = true ∧
    [Instr.iadd, .isub, .imul, .shl, .imulh, .imax, .and, .iabsd, .saff, .sbcast, .xchGet, .xchFlip, .xchRot, .xchLag].all (fun mk =>
      let i := mk 1 false (.reg 2) .tid
      executes (vecNeed i 1 [.reg 2, .tid]) (ready i) && (ready i).me.cur.mask == BitVec.allOnes 32 &&
        executes (vecNeed i 1 [.reg 2, .tid]) (nested i) && (nested i).me.cur.mask != BitVec.allOnes 32) = true ∧
    [Instr.imad, .bfi, .ffma, .hfma, .bfma].all (fun mk => let i := mk 1 false (.reg 2) .tid (.reg 4)
      executes (vecNeed i 1 [.reg 2, .tid, .reg 4]) (ready i)) = true ∧
    [Instr.iaddi, .andi, .ori, .xori].all (fun mk => let i := mk 1 false .tid 5
      executes (vecNeed i 1 [.tid]) (ready i)) = true ∧
    [0, 1, 2, 3, 4].all (fun sh => let i : Instr := .lea 1 false .tid .tid sh
      executes (vecNeed i 1 [.tid, .tid]) (ready i)) = true ∧
    [0, 7].all (fun p => let i : Instr := .sel 1 false .tid .tid p
      executes (vecNeed i 1 [.tid, .tid]) (ready i)) = true ∧
    [FType.f32, .f16x2, .bf16x2].all (fun ty => let i : Instr := .fcopysign 1 false .tid .tid ty
      executes (vecNeed i 1 [.tid, .tid]) (ready i)) = true ∧
    [Instr.movi 1 false 5, .lit 1 false 5, .xmrd 1 false, .pget 1 false 0].all (fun i => executes (vecNeed i 1 []) (ready i)) = true := by
  decide +kernel

theorem witness_ResultTags_others :
    [Instr.fcvt 1 false .tid .f32 .e4m3 .ne 3, .fcvt 1 false .tid .i8 .f32 .ne 0, .funpk 1 false .tid .bf16 1].all (fun i =>
      executes (vecNeed i 1 [.tid]) (ready i)) = true ∧
    [Instr.fpack 1 false .tid .tid .f16 false, .fpack 1 false .tid .tid .e4m3 true].all (fun i =>
      executes (vecNeed i 1 [.tid, .tid]) (ready i)) = true ∧
    [Instr.iadd64, .isub64, .shl64, .shr64, .sar64, .imul64, .dadd, .dsub, .dmul, .dmin, .dmax].all (fun mk =>
      let i := mk 4 false 2 6
      executes (pairNeed i 4 [2, nextReg 2 1, 6, nextReg 6 1] []) (ready i)) = true ∧
    [Instr.mulw, .nmulw].all (fun mk => let i := mk 4 false 2 6
      executes (pairNeed i 4 [2, 6] []) (ready i)) = true ∧
    executes (pairNeed (.lea64 4 false 2 .tid 3) 4 [2, nextReg 2 1] [.tid]) (ready (.lea64 4 false 2 .tid 3)) = true ∧
    executes (pairNeed (.dfma 4 false 2 6 8) 4 [2, nextReg 2 1, 6, nextReg 6 1, 8, nextReg 8 1] []) (ready (.dfma 4 false 2 6 8))
      = true := by decide +kernel

theorem witness_ShapesAndMasks_alone :
    (let i : Instr := .xmwr (.int 0)
     executes { words := encodeWords i, sels := [.int 0] } (ready i) = true ∧ (ready i).me.cur.parent = none ∧
       (ready i).me.cur.mask &&& operand (ready i) [.int 0] 0 (lowest (ready i).me.cur.mask) = 0) ∧
    (let i : Instr := .xmwr .xm
     executes { words := encodeWords i, sels := [.xm] } (ready i) = true ∧
       (ready i).me.cur.mask &&& operand (ready i) [.xm] 0 (lowest (ready i).me.cur.mask) = (ready i).me.cur.mask) ∧
    (let i : Instr := .xmwr (.int 3)
     let s := modMe (fun st => { st with serials := [⟨0, 0, 0, 0, 0xFF, 0xFFFFFFFF, false, 0⟩] }) (ready i)
     executes { words := encodeWords i, sels := [.int 3] } s = true ∧ ∃ r ∈ s.me.serials, r.owner = s.me.cur.id) := by decide +kernel

theorem witness_ExitEndsThreads_waits :
    (let n : Need := { plainNeed .exit [] [] with releasing := true }
     (let s := staging .active (.dirty 0 [1, 2] [codeId] 0) (ready .exit)
      transfers n s = true ∧ isPaired s s.me = false ∧ stagedOwed s s.me.who.id = true ∧ tablesRise s = true ∧
        stagedAt s 0 0 = .dirty 0 [1, 2] [codeId] 0 ∧ owesUnit s s.me.who.id (.dirty 0 [1, 2] [codeId] 0) = true ∧
        (borrowAt s 0).state ≠ .lost ∧ owesUnit s s.me.who.id (stagedAt s 0 1) = false) ∧
     (transfers n (paired (ready .exit)) = true ∧ isPaired (paired (ready .exit)) (paired (ready .exit)).me = true ∧
       (paired (ready .exit)).me.windowSig = none) ∧
     ∃ s : State, transfers n s = true ∧ isPaired s s.me = true ∧ s.me.windowSig ≠ none) :=
  ⟨by decide +kernel, by decide +kernel,
    ⟨modMe (fun st => { st with windowSig := some 5 }) (paired (ready .exit)), by decide +kernel⟩⟩

theorem witness_LoadsIssue_faulting :
    (let s := modMe (fun st => { st with regs := vset st.regs 12 (.u 1) }) (ready (.pf (.glob 12) .w 0))
     (List.finRange 32).all (fun th => translates s (pairAt s 12 th + 0)) = true ∧ activeIn s 0 = true ∧
       (pairAt s 12 0 + 0).toNat % widthBytes .w ≠ 0) ∧
    (let s := modMe (fun st => { st with regs := vset st.regs 12 (.u 1) }) (ready (.pf (.glob 12) .b 0))
     (List.finRange 32).all (fun th => translates s (pairAt s 12 th + 0)) = true) := by decide +kernel

theorem witness_StoresIssue_compared :
    let i : Instr := .st 4 (.glob 10) .w 0
    let s := modMe (fun st => { st with windowSig := some 5 }) (paired (globbed i))
    (executes (memNeed i (widthRegs .w 4) (.glob 10) false) s = true ∧ isPaired s s.me = true ∧ s.me.windowSig.isSome = true ∧
      outStores s s.me.who.id < 63 ∧ inFlight s s.me.who.id < 63) ∧
    ∃ fab leaf, Resolves s .store 4 (fun th => pairAt s 10 th + BitVec.ofNat 64 0) fab leaf :=
  ⟨by decide +kernel, resolves_of_aims (by decide +kernel)⟩

/-- The window of the executing strand has matched, and its instruction is made again. -/
def matched (s : State) : State := modMe (fun st => { st with cur := { st.cur with begun := .matched } }) (paired s)

theorem witness_AcquiresAndReleases_paired :
    (executes (relNeed 10 (.int 7) .pod) (paired (globbed (.rel 10 (.int 7) .pod))) = true ∧
      isPaired (paired (globbed (.rel 10 (.int 7) .pod))) (paired (globbed (.rel 10 (.int 7) .pod))).me = true ∧
      (paired (globbed (.rel 10 (.int 7) .pod))).me.windowSig = none) ∧
    executes (acqrelNeed 62 10 (.int 7) .die) (paired (globbed (.acqrel 62 10 (.int 7) .die))) = true ∧
    executes (fenceNeed .pod) (paired (ready (.fence .pod))) = true ∧
    (let s := matched (globbed (.rel 10 (.int 7) .pod))
     (isPaired s s.me = true ∧ mayIssue s = true ∧ s.me.cur.begun = .matched ∧ outStores s s.me.who.id < 63 ∧ s.me.window.length < 4095 ∧
       s.me.who.twin = false) ∧
       ∃ fab leaf, ResolvesOnce s .store 8 10 fab leaf) ∧
    (let s := matched (ready (.fence .pod))
     isPaired s s.me = true ∧ mayIssue s = true ∧ s.me.cur.begun = .matched) :=
  ⟨by decide +kernel, by decide +kernel, by decide +kernel, ⟨by decide +kernel, resolvesOnce_of_aims (by decide +kernel)⟩,
    by decide +kernel⟩

/-- A second strand of the block, on the next lane. -/
def beside (s : State) : State :=
  { s with others := [{ s.me with who := { s.me.who with id := ⟨codeHandle, 1⟩ }, place := .vec 0 1 0 }] }

theorem alone_arrives {s : State} {l : Launch} {scope : Scope} (hs : strandsOf s = [s.me]) (he : s.work.evicted = [])
    (hu : gangUnplaced l scope (gangIndex l.record scope s.me.who.blockIdx) = false) (hp : scope ≠ .pod) :
    LastToArrive s l scope := by
  refine ⟨fun id h => .inl ?_, hu, fun h => absurd h hp⟩
  rcases h with ⟨st, hm, rfl, -⟩ | ⟨e, hm, -⟩
  · rw [hs, List.mem_singleton] at hm
    rw [hm]
  · simp [he] at hm

theorem witness_GangsAndJoin_gangs :
    (let s := ganged (ready (.barDie 4 false))
     ∃ l, findLaunch s s.me.who.id.handle = some l ∧ hasGang l.record .die = true ∧ LastToArrive s l .die ∧
       releaseReady s s.me.who.id s.mem.nextOp .die = true) ∧
    (let s := beside (ganged (ready (.barDie 4 false)))
     ∃ l, findLaunch s s.me.who.id.handle = some l ∧ hasGang l.record .die = true ∧ ¬ LastToArrive s l .die ∧
       executes (barNeed (.barDie 4 false) 4 [] true) s = true ∧ s.me.liveFrags.length = 1 ∧ isPaired s s.me = false ∧
       releaseReady s s.me.who.id s.mem.nextOp .die = true) ∧
    (let s := loadOut (ganged (ready (.barDie 4 false)))
     let s := { s with mem := { s.mem with nextOp := 9 } }
     executes (barNeed (.barDie 4 false) 4 [] true) s = true ∧ releaseReady s s.me.who.id s.mem.nextOp .die = false) ∧
    (∃ s : State, ∃ l, mayIssue s = true ∧ s.me.cur.begun = .ganged .die 0 ∧ findLaunch s s.me.who.id.handle = some l ∧
      (gangOf s l.handle .die (gangIndex l.record .die s.me.who.blockIdx)).phase = 0) := by
  refine ⟨⟨(ganged (ready (.barDie 4 false))).work.launches.headD (codeLaunch State.reset), by decide +kernel, by decide +kernel,
      alone_arrives (by decide +kernel) (by decide +kernel) (by decide +kernel) (by decide), by decide +kernel⟩,
    ⟨(ganged (ready (.barDie 4 false))).work.launches.headD (codeLaunch State.reset), by decide +kernel, by decide +kernel, ?_, by decide +kernel⟩,
    by decide +kernel,
    ⟨modMe (fun st => { st with cur := { st.cur with begun := .ganged .die 0 } }) (ganged (ready (.barDie 4 false))),
      (ganged (ready (.barDie 4 false))).work.launches.headD (codeLaunch State.reset), by decide +kernel⟩⟩
  rintro ⟨h, -⟩
  have := h ⟨codeHandle, 1⟩ (.inl ⟨(beside (ganged (ready (.barDie 4 false)))).others.headD noStrand, by decide +kernel⟩)
  revert this
  decide +kernel

theorem witness_GangsAndJoin_joins :
    (let n : Need := { plainNeed .join [] [] with blocking := true }
     (executes n (ready .join) = true ∧ ∀ f ∈ (ready .join).me.frags, f.live = false) ∧
     (let s := sibling .join (ready .join)
      (othersJoin s ∧ (∀ f ∈ s.me.frags, f.live = true → atSamePlace s f) ∧ s.me.serials = []) ∧
      (let s := modMe (fun st => { st with serials := [⟨0, 0, 0, 0, 0xFF, 0xFFFF, false, 0⟩] }) s
       executes n s = true ∧ othersJoin s ∧ (∀ f ∈ s.me.frags, f.live = true → atSamePlace s f) ∧
         ∃ r ∈ s.me.serials, r.phase = false ∧ r.mask ≠ 0) ∧
      (let s := modMe (fun st => { st with cur := { st.cur with hdr := st.cur.hdr + 64 } }) s
       othersJoin s ∧ ∃ f ∈ s.me.frags, f.live = true ∧ ¬ (f.hdr = s.me.cur.hdr ∧ f.widx = s.me.cur.widx)))) := by
  unfold othersJoin atSamePlace
  decide +kernel

theorem witness_QueuePushes_waits :
    (let s := queued false 0 0 1 0x10004 (ready (.qput 4 (.int 9)))
     let b : Binding := ⟨0, false, false, 0⟩
     executes (qputNeed 4 (.int 9)) s = true ∧ (qField s s.me b 12).testBit 16 = true ∧ qField s s.me b 20 / 2 ^ 16 = 0 ∧
       b.offset.toNat % 32 = 0 ∧ (fieldAt s b 31).isSome = true ∧ memoriesWf s = true) ∧
    (let s := queued false 0 4 20 4 (ready (.qput 4 (.int 9)))
     let b : Binding := ⟨0, false, false, 0⟩
     executes (qputNeed 4 (.int 9)) s = true ∧ (qField s s.me b 12).testBit 16 = false ∧ qField s s.me b 8 % 512 ≠ 0 ∧
       max 1 (qField s s.me b 12 % 512) ≤ (qField s s.me b 4 + 2 ^ 32 - qField s s.me b 0) % 2 ^ 32) ∧
    (let s := tiled (given (descOf 1 1 2 0)) (collected [0x20000000, 0, 0, 0] [] [] (ready (.qput 0 (.int 0))))
     copyHeld s (s.me.pushed0 ++ [operand s [.int 0] 0 (lowest s.me.cur.mask)]) = false) ∧
    (let s := collected [] [0x00000000, 0x1000, 1, 0, 0, 0x3F800000] [] (ready (.qput 1 (.int 0)))
     nearWalked s (s.me.pushed1 ++ [operand s [.int 0] 0 (lowest s.me.cur.mask)]) = false) := by decide +kernel

theorem witness_QueueRegisters_pops :
    (let i : Instr := .qtry 62 false 3
     let s := modMe (fun st => { st with events := List.replicate 64 7 }) (ready i)
     executes (qtryNeed 62 false 3) s = true ∧ s.engines.eventWait = [] ∧
       (let s := { s with engines := { s.engines with eventWait := [(codeId, 8, 9, 0)] } }
        s.engines.eventWait.find? (fun e => e.1 == s.me.who.id) = some (codeId, 8, 9, 0) ∧ (waiting s.me 3).length = 64 ∧
          executes (qtryNeed 62 false 3) (modMe (fun st => { st with events := List.replicate 62 7 }) s) = true)) ∧
    (let i : Instr := .qtry 62 false 4
     let b : Binding := ⟨0, false, true, 0⟩
     let s := queued true 0 1 0 4 (ready i)
     let s := modMe (fun st => { st with frags := [{ st.cur with id := 9, mask := 0xFFFF0000, wait := .yield, heldPops := [4] }] }) s
     executes (qtryNeed 62 false 4) s = true ∧ binding s.me 4 = some b ∧ qCount s s.me b ≠ 0 ∧ ringHeld s b = true) := by
  decide +kernel

theorem witness_MatrixEngineSteps_engines :
    (let q : QueuedOp := ⟨5, .czero 15, none⟩
     let s := queueing [q] (ready .nop)
     tget s.engines.rrQuad 0 0 = 0 ∧ q.engine = none ∧ (ctileAt (Machine.controlAt s 0) 15).bound = none ∧
       ∀ c, c < 4 → (∀ x ∈ (Machine.controlAt s c).queue, x.engine ≠ some 0) ∧
         ∀ x ∈ (Machine.controlAt s c).ctiles.toList, x.bound ≠ some 0) ∧
    (let q : QueuedOp := ⟨5, .czero 15, none⟩
     let b : QueuedOp := ⟨4, .czero 14, some 0⟩
     let s := queueing [b, q] (ready .nop)
     let s := setControl 0 { Machine.controlAt s 0 with ctiles := vset (Machine.controlAt s 0).ctiles 15 ⟨.openT, some 7, []⟩ } s
     tablesRise s = true ∧ (Machine.controlAt s 0).queue = [b] ++ q :: [] ∧ b.engine ≠ none ∧ q.op.writesTile = none ∧
       b.op.writesTile = none ∧ (ctileAt (Machine.controlAt s 0) q.op.ctile).bound = some 7 ∧
       ∀ c, c < 4 → ∀ x ∈ (Machine.controlAt s c).queue, x.engine ≠ some 7) ∧
    (let d := given (descOf 32 32 2 0)
     (descWidth d = fmtWidth .e4m3 ∧ descRows d = 32 ∧ descCols d = 32) ∧
       (descWidth (descOf 32 32 4 0) = fmtWidth .f32 ∧ descRows (descOf 32 32 4 0) = 32 ∧ descCols (descOf 32 32 4 0) = 32) ∧
       descWidth (descOf 32 64 4 0) = fmtWidth .acc ∧ descCols (descOf 32 64 4 0) = 64 ∧ descTrn (descOf 32 64 4 0) = false ∧
       (quadRegionOf (ready .nop) 0).isSome = true ∧ memoriesWf (ready .nop) = true) := by decide +kernel

theorem witness_CopyAndNearSteps_promises :
    (let c := aCopy .fill [] [0] (some 3)
     let s := { copying c with tick := 1 }
     (findCopy s 5 = some c ∧ c.decided = false ∧ c.handed = none ∧ c.failure = none ∧ c.again < 3 ∧ findStrand s c.owner = some s.me ∧
       s.me.all ≠ [] ∧ s.me.events.length + 2 ≤ 64 ∧ s.engines.eventWait.find? (fun e => e.1 == c.owner) = none)) ∧
    (let c := { aCopy .fill [] [0] (some 3) with handed := some 0 }
     c.decided = false ∧ c.handed ≠ none ∧ (copying c).engines.copies.filter (fun x => x.id == 5) = [c]) ∧
    (let c := { aCopy .fill [] [0] (some 3) with again := 3 }
     let s := { copying c with tick := 1 }
     3 ≤ c.again ∧ c.handed = none ∧ c.failure = none ∧ (tileAt s c.control c.tile).ret = false ∧
       s.engines.copies.filter (fun x => x.id == 5) = [c]) ∧
    (let u : NearUnit := ⟨0x600000, 0x600100, .waiting, some (List.replicate 256 0), []⟩
     let c := aNear .fade u
     let s := nearing c
     findOp s 5 = none ∧ c.fmt ≤ 2 ∧ writeHeld s u.tgt 256 = false ∧ nearHeld s c u.tgt = false ∧ nearBefore s c u.tgt none = false ∧
       (∀ v ∈ c.units, v.src = u.tgt → v.state = .waiting → v.value ≠ none) ∧ poisonedAt s u.tgt 256 = false) ∧
    (let u : NearUnit := ⟨0x600000, 0, .applied, some [], [1]⟩
     findOp (nearing (aNear .scale u)) 5 = none) := by decide +kernel

theorem witness_HomeAtomicsAndReplies_points :
    (let a := anAccess 0 0x600000
     let o : Op := { anOp (.atomic .add false) codeId with accs := [a], mode := 1 }
     let s := { ready .nop with mem := { (ready .nop).mem with ops := [o] } }
     findAcc s 7 0 = some (o, a) ∧ mayGo s o 0 a false = true ∧ a.clevel ≠ 2 ∧
       zoneOf (isPlain s) (fabLocal 0x6000) = .hbm) ∧
    (let a := anAccess 2 (2 ^ 43)
     let o : Op := { anOp (.cadd .f32 false) codeId with accs := [a] }
     let s := knows 0 (asking (.cadd .f32 false) [a])
     mayGo s o 0 a false = true ∧ isLocal s a.fab = false ∧ reaches s 1 = true ∧ tagsUsed s o.die a.fab = false ∧ linkFull s 1 = false) ∧
    (let a := anAccess 1 (2 ^ 43)
     let s := knows 0 (asking .docProp [a])
     mayGo s { anOp .docProp codeId with accs := [a] } 0 a false = true ∧ isLocal s a.fab = false ∧ reaches s 1 = true) ∧
    (let a := anAccess 0 (2 ^ 43)
     let s := knows 0 (asking (.watch .eq false none) [a])
     isLocal s a.fab = false ∧ reaches s 1 = true ∧ tagsUsed s 0 a.fab = false ∧ linkFull s 1 = false) ∧
    (let a := anAccess 0 0x600000
     let s := asking (.watch .geu false (some 0)) [a]
     ownServes s 0x600000 = true ∧ 0x600000 % 128 + 4 ≤ 128 ∧ (0 : DWord).toNat ≤ s.tick.toNat ∧
       homeHeld { s with mem := { s.mem with rebuilds := [⟨0x6000, 0x6000 / 15⟩] } } 0x600000 4 = true) := by decide +kernel

theorem witness_ServicesAndDispositions_waits :
    (let s := modMe (fun st => { st with checkpointing := true }) (serving .checkpoint 0x3FFFFFFF true (ready .nop))
     serviceOf s 4 .checkpoint = some ⟨4, .checkpoint, 0x3FFFFFFF, 7, true, [], []⟩ ∧ (findLaunch s codeHandle).isSome = true ∧
       (∀ st ∈ launchStrands s codeHandle, st.checkpointing = true) ∧ ∃ st ∈ launchStrands s codeHandle, quiet s st = false) ∧
    (let s := serving .kill 0x3FFFFFFF true (ready .nop)
     serviceOf s 4 .kill = some ⟨4, .kill, 0x3FFFFFFF, 7, true, [], []⟩ ∧ (findStrand s ⟨0x3FFFFFFF, 0⟩).isSome = true) ∧
    (let s := twinned (some 5) (some 6) (ready .nop)
     (findStrand s codeId).isSome = true ∧ (findStrand s (twinOf codeId)).isSome = true ∧ s.me.place.isCtl = false ∧
       (∀ st ∈ strandsOf s, (st.cur :: st.frags).Pairwise (fun f g => f.id ≠ g.id)) ∧
       (strandsOf s).Pairwise (fun a b => a.who.id ≠ b.who.id)) ∧
    (let s := twinned (some 5) none { ready .nop with tick := 999999 }
     s.tick.toNat < s.me.windowAt.toNat + 1000000 ∧ s.me.killing = false) ∧
    (let s := twinned (some 5) none { ready .nop with tick := 1000000 }
     let s := modMe (fun st => { st with killing := true }) s
     s.me.killing = true ∧ (findStrand s (twinOf codeId)).isSome = true) := by decide +kernel

set_option maxRecDepth 20000 in
theorem witness_ServicesAndDispositions_block :
    (let s := serving .restore 0x801000 false (imageAt 2 9 0 [] { ready .nop with work := { (ready .nop).work with evicted := [⟨codeHandle, 9, [codeId], []⟩] } })
     ∃ bs l g core, mayBegin .restore 0x801000 s = true ∧ readImage s 0x801000 = some bs ∧ findLaunch s codeHandle = some l ∧
       l.record.pair = false ∧ regionFor s l (numAt bs 0x1C 4) 0 = some g ∧ chooseCore s l false (coresOf g.quad) = some core ∧
       findsLanes s l core g.quad 9 bs (livingOf s l 9 0) = true) ∧
    (let s := serving .restore 0x801000 false (imageAt 2 9 0 [] { ready .nop with work := { (ready .nop).work with evicted := [⟨codeHandle, 9, [codeId], []⟩], regions := [] } })
     ∃ bs l, mayBegin .restore 0x801000 s = true ∧ readImage s 0x801000 = some bs ∧ findLaunch s codeHandle = some l ∧
       regionFor s l (numAt bs 0x1C 4) 0 = none) ∧
    (let s := serving .restore 0x801000 false (imageAt 2 9 0 [] { ready .nop with
       work := { (ready .nop).work with
         evicted := [⟨codeHandle, 9, [codeId], []⟩]
         blocks := [0, 1, 2, 3].map (fun c => { codeBlock with core := c, size := 2 ^ 22 }) } })
     ∃ bs l g, mayBegin .restore 0x801000 s = true ∧ readImage s 0x801000 = some bs ∧ findLaunch s codeHandle = some l ∧
       regionFor s l (numAt bs 0x1C 4) 0 = some g ∧ chooseCore s l false (coresOf g.quad) = none) :=
  ⟨⟨sealed 2 codeHandle 9 0 0 0 0 0 [] [] [], (ready .nop).work.launches.headD (codeLaunch State.reset), codeRegion, 1, by decide +kernel⟩,
    ⟨sealed 2 codeHandle 9 0 0 0 0 0 [] [] [], (ready .nop).work.launches.headD (codeLaunch State.reset), by decide +kernel⟩,
    ⟨sealed 2 codeHandle 9 0 0 0 0 0 [] [] [], (ready .nop).work.launches.headD (codeLaunch State.reset), codeRegion, by decide +kernel⟩⟩

theorem witness_OuterAndStaged_forwarding :
    (let r := { aRequest .store 0x600000 with dest := some 1 }
     behindFence (ready .nop) aTag r = false ∧ reaches (ready .nop) 1 = false) ∧
    (let r := { aRequest (.reply none) 0x600000 with dest := some 1 }
     behindFence (ready .nop) aTag r = false) ∧
    (let s := { asking .store [{ anAccess 0 0x60007C with state := .applied, delta := [1, 2, 3, 4] }] with tick := 5 }
     let s := { s with mem := { s.mem with deltas := [(7, 0)] } }
     unitPending s 0x60007C = true ∧ memNat s.mem.bytes 0x60007C 4 = 0 ∧ unitPending (ready .nop) 0x60007C = false) ∧
    (let s := knows 0 (ready .nop)
     hubArmed s 0 0 = false ∧ isLocal s (2 ^ 43) = false ∧ reaches s 1 = true ∧ reaches (ready .nop) 1 = false ∧ tablesRise s = true) ∧
    (let s := { ready .nop with mem := { (ready .nop).mem with poisoned := [0x6000] } }
     poisonedAt s 0x600000 8 = true ∧ hubArmed s 0 0 = false ∧ isLocal s 0x600000 = true ∧ homeHeld s 0x600000 8 = false ∧
       isMmio s 0x600000 = false ∧ zoneOf (isPlain s) 0x600000 ≠ .unbacked ∧ ownServes s 0x600000 = true ∧
       watchDie s 0x600000 ∉ s.failure.fencedDies ∧ tablesRise s = true) ∧
    (let s := { ready .nop with mem := { (ready .nop).mem with rebuilds := [⟨0x6000, 0x6000 / 15⟩] } }
     homeHeld s 0x600000 8 = true ∧ hubArmed s 0 0 = false) ∧
    (let m : FenceMsg := ⟨5, 0, 1, 1, 2⟩
     let s := { ready .nop with links := { (ready .nop).links with unacked := [(⟨1, 0, 0⟩, 0)] } }
     m ∉ s.links.heldFences ∧ fenceCount s 1 ≠ 0 ∧ (∀ x ∈ s.links.forwarded, ¬ (x.src = 1 ∧ x.tag = 5)) ∧ m.dest ≠ pkgNo s) ∧
    (let s := { ready .nop with links := { (ready .nop).links with probed := [(13, 0)] } }
     ∃ p ∈ s.links.probed, p.1 = 13) := by decide +kernel

theorem outerReady_own (k : OuterKind) (h : k = .store ∨ k = .lr ∨ k = .sc) :
    outerReady (pkgNo (ready .nop)) (aRequest k 0x60007C) (ready .nop) := by
  rcases h with rfl | rfl | rfl <;> exact
  ⟨by decide +kernel, by decide +kernel, by decide +kernel, by decide +kernel, by decide +kernel, by decide +kernel, by decide +kernel,
    by intro d h; simp [show (ready .nop).failure.fencedDies = [] from by decide +kernel], by decide +kernel, by decide +kernel,
    by decide, by decide, by decide +kernel, by decide⟩

theorem witness_OuterAndStaged_units :
    (let a : Awaited := ⟨1, .stageFetch aTag 0 0 7, 0, 0, true⟩
     let s := staging .active (.fetching false) (ready .nop)
     stillAwaited s a.msg = true ∧ a.msg.asks s = some (aTag, unitFab s 0 0) ∧ tagsUsed s aTag.die (unitFab s 0 0) = false ∧
       stillAwaited (ready .nop) a.msg = false) ∧
    (let s := staging .lost (.writing [1] [] 0 [] none false) (ready .nop)
     stagedAt s 0 0 = .writing [1] [] 0 [] none false ∧ (borrowAt s 0).state = .lost) ∧
    (let s := staging .active (.writing [1] [] 0 [] none false) (ready .nop)
     stagedAt s 0 0 = .writing [1] [] 0 [] none false ∧ (borrowAt s 0).state = .active) ∧
    (let s := staging .recalled (.writing [1] [2] 0 [] none false) (ready .nop)
     stagedAt s 0 0 = .writing [1] [2] 0 [] none false ∧ (borrowAt s 0).state = .recalled) ∧
    (let s := staging .active (.writing [1] [] 0 [] none true) (ready .nop)
     stagedAt s 0 0 = .writing [1] [] 0 [] none true ∧ s.mem.ops = [] ∧ tablesRise s = true) ∧
    (let s := staging .active (.fetching true) (asking (.load .w) [{ anAccess 4 0x600000 with state := .switched }])
     stagedAt s 0 0 = .fetching true ∧ leaseCause (borrowAt s 0).state = none ∧ s.engines.copies = [] ∧ tablesRise s = true ∧
       (∀ o ∈ s.mem.ops, o.what.posted = false)) := by
  decide +kernel

theorem witness_LendingSteps_more :
    (let b : Borrow := ⟨.active, true, 3, 7, 9, 1, 2000000, 0, none⟩
     let s := lending .free b 0
     let s := { s with mem := { s.mem with staged := [(stageKey 4095 0, .dirty 0 [1] [] 0)] } }
     tablesRise s = true ∧ stagedAt s 4095 0 = .dirty 0 [1] [] 0 ∧ s.mem.ops = [] ∧ s.engines.copies = [] ∧
       s.lending.borrows.find? (fun p => p.2.lender == 3 && p.2.leaseId == 9
         && (p.2.state == .active || p.2.state == .renewing || p.2.state == .expired)) = some (4095, b)) ∧
    (let s := { lending .free .free 0 with lending := { (lending .free .free 0).lending with synced := false } }
     s.lending.synced = false ∧ (∀ j : Fin 9, (borrowAt s j.val).state ≠ .requested) ∧ 3 ∉ s.links.lostPeers) ∧
    ((∃ o ∈ (trading [(5, 1, 0)] []).lending.offers, o.1 = 5 ∧ o.2.1 = 1) ∧
      ∃ r ∈ (trading [] [(5, 1, 0)]).lending.requests, r.1 = 5 ∧ r.2.1 = 1) ∧
    (let s := { trading [(2, 1, 0), (3, 1, 1)] [(5, 1, 0)] with tick := 2 }
     s.lending.cobbler = some (pkgNo s) ∧ s.lending.requests = [(5, 1, 0)] ∧ (0 : DWord).toNat < s.tick.toNat ∧
       (2, 1, (0 : DWord)) ∈ s.lending.offers) ∧
    (let s : State := { State.reset with lending := { State.reset.lending with term := 4, cobbler := some 3, timeSet := true }, tick := 5000 }
     s.lending.term = 4 ∧ s.lending.cobbler = some 3 ∧ s.lending.timeSet = true ∧ 4 < 5) ∧
    (let s : State := { State.reset with
       tick := 5000000
       boot := { State.reset.boot with stage := 6 }
       lending := { State.reset.lending with term := 4, cobbler := some 3, anchors := [0], electCell := 0x1000 } }
     let s := poke 0x1008 (leBytes 8 (2 ^ 62 + 5 * 2 ^ 32)) s
     memoriesWf s = true ∧ memNat s.mem.bytes (s.lending.electCell + 8) 8 / 2 ^ 62 = 1 ∧
       memNat s.mem.bytes (s.lending.electCell + 8) 8 / 2 ^ 32 % 2 ^ 30 = (s.lending.term + 1) / s.lending.anchors.length) := by
  decide +kernel

theorem witness_FailureAndLinks_parity :
    (isPlain State.reset = false ∧ 2 ^ 32 + 7 ∉ State.reset.mem.poisoned) ∧
    (let s : State := { State.reset with mem := { State.reset.mem with mode := .degraded 3 } }
     isPlain s = false ∧ s.mem.mode = .degraded 3 ∧ parityStack 3 = 3 ∧ parityStack 4 ≠ 3 ∧
       zoneOf (isPlain s) (45 * 256) = .hbm ∧ parityStack (45 / 15) = 3 ∧
       zoneOf (isPlain s) (unitOn 4 3 * 256) = .hbm ∧ unitOn 4 3 / 15 = 4 ∧ unitOn 4 3 ≠ 60) ∧
    (let s : State := { State.reset with mem := { State.reset.mem with points := [⟨5, some 0, false, [], 0⟩] } }
     (⟨5, some 0, false, [], 0⟩ : Point) ∈ s.mem.points) ∧
    (let r : Rebuild := ⟨2 ^ 32 + 7, 7⟩
     let s := rebuilding [r] (logging State.reset)
     s.mem.rebuilds.find? (fun r => r.unit == 2 ^ 32 + 7) = some r ∧ stripeBusy s 7 = false ∧ memoriesWf s = true ∧
       s.failure.logBase % 64 = 0 ∧ s.mem.rebuilds.filter (fun x => x.stripe == 7) = [r]) ∧
    (let q : LogRecord := ⟨10, 0, 0, 0, 0, 0⟩
     let s : State := { State.reset with failure := { State.reset.failure with logLater := [q] } }
     s.failure.logHeld = [] ∧ s.failure.logLater = q :: [] ∧ logRoom s = false) ∧
    (let r : LogRecord := ⟨3, 0, 0, 0, 0, 0⟩
     let s := { State.reset with failure := { State.reset.failure with logHeld := [r] } }
     s.failure.logHeld ≠ [] ∧ logRoom s = false) := by decide +kernel

/-- A state whose port 17 is as given. -/
def withPort (p : Port) : State :=
  { State.reset with links := { State.reset.links with ports := vset State.reset.links.ports 17 p } }

theorem witness_FailureAndLinks_retraining :
    [(false, 128, false), (false, 32, false), (true, 64, false), (true, 64, true)].all (fun (x : Bool × Nat × Bool) =>
      let p := { Port.untrained with up := true, retraining := true, fixed := x.1, rate := x.2.1, retried := x.2.2 }
      portAt (withPort p) 17 == p && p.retraining) = true ∧
    (let s := { withPort Port.untrained with boot := { State.reset.boot with pkg := some 5 } }
     s.boot.pkg = some 5 ∧ (portAt s 17).up = false ∧ (portAt s 17).buffer = []) ∧
    (let s := { State.reset with links := { State.reset.links with unfit := [7] } }
     7 ∈ s.links.unfit ∧ 7 ≠ pkgNo s) ∧
    (let s : State := { State.reset with tick := 999999, links := { State.reset.links with noRoute := [(5, 0)] } }
     ∀ x ∈ s.links.noRoute, x.1 = 5 → s.tick.toNat < x.2.toNat + 1000000) ∧
    (let s : State := { State.reset with lending := { State.reset.lending with anchors := [0, 5] } }
     5 ∈ s.lending.anchors ∧ 5 ≠ s.boot.pkg.getD (s.boot.slot % 512) ∧ 5 ∉ s.links.lostPeers ∧ hasRoute s 5 = false) := by
  decide +kernel

theorem witness_StartPowerDebug_stages :
    [1, 2, 3, 4].all (fun n => let s := { State.reset with boot := { State.reset.boot with stage := n } }
      s.boot.failed.isNone && s.boot.stage == n && memoriesWf s && (portAt s 3).buffer.isEmpty && !(portAt s 3).up
        && s.boot.pkg.isNone) = true ∧
    (∃ s : State, s.boot.failed = some 2) ∧
    (∃ s : State, s.power.burstBarred = true ∧ s.power.profile = 1 ∧ s.power.lastGrant.toNat / 8000 < s.tick.toNat / 8000) ∧
    (let s := lending ⟨.granted, 7, 5, false, 9, 100, 0, 1⟩ ⟨.active, true, 3, 7, 9, 1, 2000000, 0, some 0⟩ 0
     (leaseAt s 2047).state = .granted ∧ (borrowAt s 4095).state = .active ∧ tablesRise s = true) ∧
    (let s := lending .free ⟨.requested, true, 3, 7, 9, 1, 2000000, 0, some 0⟩ 0
     (borrowAt s 4095).state = .requested) :=
  ⟨by decide +kernel, ⟨{ State.reset with boot := { State.reset.boot with failed := some 2 } }, rfl⟩,
    ⟨{ State.reset with tick := 8000, power := { State.reset.power with profile := 1, burstBarred := true } }, by decide +kernel⟩,
    by decide +kernel, by decide +kernel⟩

theorem witness_StepRunsDecoded_more :
    (let m : Nat × OutMsg := (1, .codeRead aTag 0 0)
     let s := { ready .nop with links := { (ready .nop).links with queued := [m] } }
     s.links.queued = [] ++ [m]) ∧ (ready .nop).links.queued = [] ∧
    (∃ s : State, ∃ h, s.lending.heldUntil = some h ∧ h.toNat < s.tick.toNat) ∧
    (let r : Redo := ⟨(0, 0), ((ready .nop).me.cur.hdr, (ready .nop).me.cur.widx), (64, 1), none, none⟩
     let s := choosing [none] (modMe (fun st => { st with cur := { st.cur with redo := [r] } }) (ready .nop))
     s.me.cur.redo = r :: [] ∧ s.me.here = true ∧ s.me.cur.wait = .ready ∧ s.me.cur.begun = .no ∧ s.me.mayGo s.me.cur.id = true ∧
       (s.me.cur.hdr, s.me.cur.widx) ≠ r.at_ ∧ (s.me.cur.hdr, s.me.cur.widx) = r.next) ∧
    (choosing [none] (ready .nop)).me.cur.redo = [] ∧
    ∃ s t : State, (t.me.halted = false ∧ s.agenda = []) :=
  ⟨rfl, by decide +kernel,
    ⟨{ State.reset with tick := 9, lending := { State.reset.lending with heldUntil := some 5 } }, 5, rfl, by decide +kernel⟩,
    by decide +kernel, by decide +kernel, ⟨State.reset, State.reset, rfl, rfl⟩⟩

theorem witness_ClosesWindow :
    (let s := paired (globbed (.aadd 4 10 (.reg 6) .die))
     executes (atomic32Need (.aadd 4 10 (.reg 6) .die) .add 4 10 (.reg 6) .die) s = true ∧ isPaired s s.me = true) ∧
    executes (atomic64Need (.aadd64 4 10 6 .pod) .add 4 10 6 .pod) (paired (globbed (.aadd64 4 10 6 .pod))) = true ∧
    executes (caddNeed (.caddF32 10 (.int 1) .pkg) 10 (.int 1) .pkg) (paired (kindPage 2 1 (globbed (.caddF32 10 (.int 1) .pkg)))) = true ∧
    executes (decideNeed (.dread 4 10 (.int 1) .sys) 4 10 [] [.int 1] false)
      (paired (kindPage 1 0 (globbed (.dread 4 10 (.int 1) .sys)))) = true ∧
    [Instr.barPost, .barMeet].all (fun mk =>
      let i := mk 4 false (.int 15) (.reg 6)
      let s := paired (ready i)
      executes (barNeed i 4 [.int 15, .reg 6] true) s && isPaired s s.me && (blockOf s s.me == some codeBlock) &&
        decide ((operand s [.int 15, .reg 6] 1 (lowest s.me.cur.mask)).toNat ≤ 1024)) = true ∧
    (let s := paired (ganged (ready (.barDie 4 false)))
     executes (barNeed (.barDie 4 false) 4 [] true) s = true ∧ isPaired s s.me = true ∧ s.me.place.isCtl = false ∧
       s.me.liveFrags.length = 1 ∧ (findLaunch s s.me.who.id.handle).any (fun l => hasGang l.record .die) = true) ∧
    (let s := paired (queued false 0 0 1 4 (ready (.qput 4 (.int 9))))
     executes (qputNeed 4 (.int 9)) s = true ∧ isPaired s s.me = true ∧ binding s.me 4 = some ⟨0, false, false, 0⟩) ∧
    [(0 : QNo), 1].all (fun q => executes (qputNeed q (.int 9)) (paired (ready (.qput q (.int 9))))) = true ∧
    (let i : Instr := .tgive 31
     executes { tileNeed i with releasing := true } (paired (ready i)) = true ∧ isPaired (paired (ready i)) (paired (ready i)).me = true ∧
       tableOf (paired (ready i)) (paired (ready i)).me = some 0 ∧ tileOwner (tileAt (paired (ready i)) 0 31) = false) := by
  decide +kernel

/-! ### Decoding: words written from 06 R151-R163, 09 R270, R292 for every constructor that has an encoding -/

/-- The word that holds the given values at the given low bits, over the bits `m` of major and function. -/
def wordOf (m : Nat) (fs : List (Nat × Nat)) : Word := BitVec.ofNat 32 (fs.foldl (fun x f => x + f.2 * 2 ^ f.1) m)

/-- Whether a word, with the literal or second word behind it, is read as the instruction. -/
def readsAs (w : Word) (l : Option Word) (i : Instr) : Bool :=
  match decodeWords w l with
  | .ok j => decide (j = i)
  | .error _ => false

/-- The same for each word of a table of functions, with one list of fields. -/
def allRead {α : Type} (fs : List (Nat × Nat)) (args : α → Instr) (l : List (Nat × α)) : Bool :=
  l.all fun e => readsAs (wordOf e.1 fs) none (args e.2)

theorem test_decode_three_operand :
    allRead [(20, 33), (19, 1), (12, 0x44), (5, 0x5C)] (fun mk => mk 33 true (.queue 4) .xm)
      [(0x04000000, Instr.iadd), (0x04000001, .isub), (0x04000002, .imul), (0x04000003, .imulh), (0x04000004, .nmulh),
       (0x04000005, .iaddc), (0x04000006, .isubb), (0x04000007, .imin), (0x04000008, .imax), (0x04000009, .nmin),
       (0x0400000A, .nmax), (0x0400000B, .and), (0x0400000C, .or), (0x0400000D, .xor), (0x0400000E, .andn),
       (0x0400000F, .shl), (0x04000010, .shr), (0x04000011, .sar), (0x04000012, .rotl), (0x04000013, .bfx),
       (0x04000014, .bfxs), (0x04000015, .perm), (0x04000016, .iabsd), (0x6C000000, .sbcast), (0x6C000001, .saff),
       (0x70000000, .xchGet), (0x70000001, .xchFlip), (0x70000002, .xchRot), (0x70000003, .xchLag),
       (0xD0000000, .barPost), (0xD0000001, .barMeet)] = true := by decide +kernel

theorem test_decode_one_operand :
    allRead [(20, 9), (19, 0), (12, 0x43)] (fun mk => mk 9 false (.latch 3))
      [(0x08000000, Instr.ineg), (0x08000001, .iabs), (0x08000002, .not), (0x08000003, .popc), (0x08000004, .clz),
       (0x08000005, .ctz), (0x08000006, .brev), (0x08000007, .sext8), (0x08000008, .sext16), (0x08000009, .zext8),
       (0x0800000A, .zext16), (0x0800000B, .bswap), (0x50000000, .fneg), (0x50000001, .fabs), (0x50000002, .frcp),
       (0x50000003, .frsq), (0x50000004, .fsqrt), (0x50000005, .fexp2), (0x50000006, .flog2), (0x50000007, .fsin),
       (0x50000008, .fcos), (0x50000009, .ftanh), (0x5000000A, .fsigm), (0x5000000B, .frndNe), (0x5000000C, .frndZ),
       (0x5000000D, .frndDn), (0x5000000E, .frndUp), (0x5000000F, .fclass), (0x50000010, .ffract), (0x6C000002, .sgen),
       (0x6C000003, .stag), (0x6C000004, .mov), (0x6C000007, .ballot), (0x70000004, .redAdd), (0x70000005, .redFadd),
       (0x70000006, .redMin), (0x70000007, .redMax), (0x70000008, .scanAdd), (0x70000009, .scanFadd),
       (0x7000000A, .allnz), (0x7000000B, .anynz), (0xD0000002, .barHold)] = true := by decide +kernel

theorem test_decode_selectors :
    [(0x00, Sel.reg 0), (0x3F, .reg 63), (0x40, .latch 0), (0x43, .latch 3), (0x44, .queue 4), (0x4F, .queue 15), (0x50, .tid),
     (0x51, .sid), (0x52, .blkX), (0x53, .blkY), (0x54, .blkZ), (0x55, .lane), (0x56, .core), (0x57, .quad), (0x58, .die),
     (0x59, .pkg), (0x5A, .tick), (0x5B, .tickh), (0x5C, .xm), (0x60, .int 0), (0x6F, .int 15), (0x70, .neg 0), (0x77, .neg 7),
     (0x78, .flt 0), (0x7F, .flt 7)].all (fun e => readsAs (wordOf 0x6C000004 [(12, e.1)]) none (.mov 0 false e.2)) = true ∧
    [0x5D, 0x5E, 0x5F].all (fun v => match decodeWords (wordOf 0x6C000004 [(12, v)]) none with
      | .ok _ => false | .error r => r == .reservedSelector) = true := by decide +kernel

theorem test_decode_three_sources :
    allRead [(20, 63), (19, 0), (12, 0x59), (5, 0x7F), (0, 27)] (fun mk => mk 63 false .pkg (.flt 7) (.reg 27))
      [(0x0C000000, Instr.imad), (0x10000000, .bfi), (0x44000000, .ffma), (0x48000000, .hfma), (0x4C000000, .bfma)] = true ∧
    readsAs (wordOf 0x0C000000 [(0, 28)]) none (.imad 0 false (.reg 0) (.reg 0) (.latch 0)) = true ∧
    readsAs (wordOf 0x14000000 [(20, 5), (19, 1), (12, 1), (5, 2), (0, 7)]) none (.sel 5 true (.reg 1) (.reg 2) 7) = true ∧
    readsAs (wordOf 0x68000000 [(20, 2), (19, 1), (12, 62), (5, 60), (0, 26)]) none (.dfma 2 true 62 60 26) = true := by
  decide +kernel

theorem test_decode_immediates :
    allRead [(20, 1), (19, 1), (12, 0x3F), (0, 0x801)] (fun mk => mk 1 true (.reg 63) 0x801)
      [(0x18000000, Instr.iaddi), (0x1C000000, .andi), (0x20000000, .ori), (0x24000000, .xori)] = true ∧
    readsAs (wordOf 0x28000000 [(20, 1), (19, 0), (0, 0x7FF)]) none (.movi 1 false 0x7FF) = true ∧
    readsAs (wordOf 0x2C000000 [(20, 1), (19, 1)]) (some 0xDEADBEEF) (.lit 1 true 0xDEADBEEF) = true ∧
    readsAs (wordOf 0x30000000 [(20, 1), (12, 2), (5, 3), (0, 4)]) none (.lea 1 false (.reg 2) (.reg 3) 4) = true ∧
    readsAs (wordOf 0x30000000 [(20, 4), (12, 2), (5, 3), (3, 1), (0, 1)]) none (.lea64 4 false 2 (.reg 3) 1) = true := by
  decide +kernel

theorem test_decode_compares :
    readsAs (wordOf 0x34000000 [(23, 6), (21, 2), (12, 1), (5, 2), (0, 5)]) none (.icmp 6 .or (.reg 1) (.reg 2) .ge) = true ∧
    readsAs (wordOf 0x34000010 [(23, 0), (21, 0), (12, 1), (5, 2), (0, 0)]) none (.ncmp 0 .set (.reg 1) (.reg 2) .eq) = true ∧
    readsAs (wordOf 0x54000000 [(23, 1), (21, 1), (12, 1), (5, 2), (0, 7)]) none (.fcmp 1 .and (.reg 1) (.reg 2) .uno) = true ∧
    readsAs (wordOf 0x54000008 [(23, 1), (21, 1), (12, 4), (5, 2), (0, 6)]) none (.fcmpF64 1 .and 4 2 .ord) = true := by
  decide +kernel

theorem test_decode_pairs :
    allRead [(20, 2), (19, 1), (12, 4), (5, 62)] (fun mk => mk 2 true 4 62)
      [(0x38000000, Instr.iadd64), (0x38000001, .isub64), (0x38000002, .shl64), (0x38000003, .shr64), (0x38000004, .sar64),
       (0x38000005, .imul64), (0x38000006, .mulw), (0x38000007, .nmulw), (0x64000000, .dadd), (0x64000001, .dsub),
       (0x64000002, .dmul), (0x64000003, .dmin), (0x64000004, .dmax)] = true := by decide +kernel

theorem test_decode_predicates :
    allRead [(23, 6), (12, 7), (5, 1)] (fun mk => mk 6 7 1)
      [(0x3C000000, Instr.pand), (0x3C000001, .por), (0x3C000002, .pxor), (0x3C000003, .pandn)] = true ∧
    readsAs (wordOf 0x3C000004 [(23, 1), (12, 2)]) none (.pnot 1 2) = true ∧
    readsAs (wordOf 0x3C000005 [(23, 1), (12, 0x60)]) none (.ptest 1 (.int 0)) = true ∧
    readsAs (wordOf 0x3C000006 [(20, 8), (19, 1), (12, 6)]) none (.pget 8 true 6) = true := by decide +kernel

theorem test_decode_float :
    [(0, FType.f32), (1, .f16x2), (2, .bf16x2)].all (fun ty =>
      allRead [(20, 1), (12, 2), (5, 3), (3, ty.1)] (fun mk => mk 1 false (.reg 2) (.reg 3) ty.2)
        [(0x40000000, Instr.fadd), (0x40000001, .fsub), (0x40000002, .fmul), (0x40000003, .fmin), (0x40000004, .fmax),
         (0x40000005, .fscale), (0x40000006, .fcopysign), (0x40000007, .fabsd)]) = true := by decide +kernel

theorem test_decode_conversions :
    readsAs (wordOf 0x58000000 [(20, 1), (12, 2), (8, 0xA), (4, 0x3), (2, 3), (0, 2)]) none
      (.fcvt 1 false (.reg 2) .f32 .e5m2 .up 2) = true ∧
    readsAs (wordOf 0x58000000 [(20, 1), (12, 2), (8, 0xC), (4, 0x9), (2, 1), (0, 1)]) none
      (.fcvt 1 false (.reg 2) .n8 .bf16 .z 1) = true ∧
    readsAs (wordOf 0x5C000000 [(20, 1), (12, 2), (5, 3), (4, 1), (0, 0x7)]) none (.fpack 1 false (.reg 2) (.reg 3) .e2m1 true) = true ∧
    readsAs (wordOf 0x60000000 [(20, 1), (12, 2), (8, 0x8), (0, 1)]) none (.funpk 1 false (.reg 2) .f16 1) = true := by
  decide +kernel

theorem test_decode_masks_and_gangs :
    allRead [(20, 7), (19, 1)] (fun mk => mk 7 true)
      [(0x6C000005, Instr.xmrd), (0xD0000003, .barQuad), (0xD0000004, .barDie), (0xD0000005, .barPkg), (0xD0000006, .barPod)] = true ∧
    allRead [(12, 0x61)] (fun mk => mk (.int 1))
      [(0x6C000006, Instr.xmwr), (0x90000004, .trap), (0x90000007, .nap), (0x90000008, .role)] = true ∧
    allRead [] id [(0x8C000002, Instr.ret), (0x90000000, .nop), (0x90000001, .exit), (0x90000002, .yield), (0x90000003, .tfence),
      (0x90000005, .brkpt), (0x90000006, .eret), (0xD0000007, .join)] = true ∧
    readsAs (wordOf 0x90000009 [(20, 3), (12, 0x61), (5, 4)]) none (.sysc 3 false (.int 1) 4) = true := by decide +kernel

theorem test_decode_branches :
    readsAs (wordOf 0x80000000 [(23, 1), (8, 0x3FFB)]) none (.br 1 false 0x3FFB) = true ∧
    readsAs (wordOf 0x80000080 [(23, 7), (22, 1), (8, 1)]) none (.brAll 7 true 1) = true ∧
    readsAs (wordOf 0x84000000 [(23, 2), (22, 1), (8, 0x2000), (0, 255)]) none (.brd 2 true 0x2000 255) = true ∧
    readsAs (wordOf 0x88000000 [(23, 7), (8, 5)]) none (.call 5) = true ∧
    readsAs (wordOf 0x8C000000 [(12, 6)]) none (.jr 6) = true ∧
    readsAs (wordOf 0x8C000001 [(12, 6), (5, 8)]) none (.jrd 6 8) = true := by decide +kernel

theorem test_decode_special_registers :
    [(0x000, SReg.fcr), (0x001, .fflags), (0x002, .ftrapen), (0x003, .xm), (0x004, .lr), (0x005, .role), (0x006, .prio), (0x007, .allot),
     (0x008, .qstatus), (0x009, .wdl), (0x00A, .wdlh), (0x00B, .psf), (0x010, .tick), (0x011, .tickh), (0x020, .tvec), (0x021, .tvech),
     (0x022, .tcause), (0x023, .taddr), (0x024, .taddrh), (0x025, .tepc), (0x026, .tepch), (0x040, .emword), (0x041, .emop),
     (0x042, .emfn), (0x043, .emd), (0x044, .ema), (0x045, .emb), (0x046, .emc), (0x047, .emimm), (0x048, .emclause),
     (0x060, .hoff 0), (0x067, .hoff 7), (0x068, .mcnan), (0x069, .mcovf), (0x06A, .mcsat), (0x080, .pkgno), (0x081, .dieno),
     (0x082, .quadno), (0x083, .coreno), (0x084, .laneno), (0x085, .strandno), (0x086, .blkx), (0x087, .blky), (0x088, .blkz),
     (0x089, .gridx), (0x08A, .gridy), (0x08B, .gridz), (0x08C, .nstrands), (0x08D, .blkidx), (0x08E, .lhandle), (0x090, .params),
     (0x091, .paramsh), (0x100, .pksel), (0x101, .rootl), (0x102, .rooth), (0x103, .asn), (0x104, .aplace), (0x105, .bindl),
     (0x106, .bindh), (0x107, .bindn), (0x108, .winA 0), (0x109, .winB 0), (0x116, .winA 7), (0x117, .winB 7), (0x118, .kctx),
     (0x120, .crdl), (0x121, .crdh), (0x130, .qctx 0), (0x13F, .qctx 15), (0x140, .fqbl), (0x141, .fqbh), (0x142, .fqsize),
     (0x143, .fqprod), (0x144, .fqcons)].all (fun e => readsAs (wordOf 0x94000000 [(20, 1), (19, 1), (0, e.1)]) none (.rdsr 1 true e.2)) = true ∧
    readsAs (wordOf 0x98000000 [(12, 0x61), (0, 0x004)]) none (.wrsr (.int 1) .lr) = true ∧
    [0x00C, 0x012, 0x027, 0x049, 0x06B, 0x08F, 0x092, 0x119, 0x122, 0x145, 0xFFF].all (fun n =>
      match decodeWords (wordOf 0x94000000 [(0, n)]) none with | .ok _ => false | .error _ => true) = true := by decide +kernel

theorem test_decode_memory :
    allRead [(20, 4), (12, 0x08), (9, 6), (6, 0), (0, 63)] (fun mk => mk 4 (.glob 8) .q 63)
      [(0xA0000000, Instr.ld), (0xA4000000, .st), (0xA8000000, .ldv)] = true ∧
    [(1, MemAddr.lane (.int 8)), (2, .core (.int 8)), (3, .quad (.int 8))].all (fun sp =>
      readsAs (wordOf 0xA0000000 [(20, 3), (12, 0x68), (9, 1), (6, sp.1), (0, 1)]) none (.ld 3 sp.2 .bs 1)) = true ∧
    [(0, Width.b), (1, .bs), (2, .h), (3, .hs), (4, .w), (5, .d)].all (fun wd =>
      readsAs (wordOf 0xA0000000 [(20, 2), (12, 6), (9, wd.1), (6, 4)]) none (.ld 2 (.die 6) wd.2 0)) = true ∧
    readsAs (wordOf 0xAC000000 [(12, 8), (9, 4), (0, 2)]) none (.pf (.glob 8) .w 2) = true := by decide +kernel

theorem test_decode_ordering :
    readsAs (wordOf 0xB4000000 [(20, 3), (12, 4), (0, 6)]) none (.acq 3 4 .sys) = true ∧
    readsAs (wordOf 0xB4000008 [(12, 4), (5, 0x61), (0, 5)]) none (.rel 4 (.int 1) .pod) = true ∧
    readsAs (wordOf 0xB4000010 [(20, 3), (12, 4), (5, 0x61), (0, 3)]) none (.acqrel 3 4 (.int 1) .die) = true ∧
    [(0, Scope.lane), (1, .core), (2, .quad), (3, .die), (4, .pkg), (5, .pod), (6, .sys)].all (fun sc =>
      readsAs (wordOf 0xB4000018 [(0, sc.1)]) none (.fence sc.2)) = true := by decide +kernel

theorem test_decode_atomics :
    allRead [(20, 3), (13, 4), (6, 0x61), (3, 6)] (fun mk => mk 3 4 (.int 1) .sys)
      [(0xB8000000, Instr.aadd), (0xB8000001, .aand), (0xB8000002, .aor), (0xB8000003, .axor), (0xB8000004, .axchg),
       (0xB8000005, .amin), (0xB8000006, .amax), (0xB8000007, .anmin), (0xBC000000, .anmax), (0xBC000001, .acas),
       (0xBC000002, .ainc), (0xBC000003, .abadd), (0xBC000004, .afadd), (0xBC000005, .afmax), (0xBC000006, .afaddBf16x2),
       (0xC8000001, .dread), (0xC8000002, .dreset)] = true ∧
    allRead [(20, 2), (13, 4), (6, 6), (3, 4)] (fun mk => mk 2 4 6 .pkg)
      [(0xC0000000, Instr.aadd64), (0xC0000001, .axchg64), (0xC0000002, .acas64), (0xC0000003, .amin64), (0xC0000004, .amax64),
       (0xC8000000, .dprop)] = true ∧
    allRead [(13, 4), (6, 0x61), (3, 5)] (fun mk => mk 4 (.int 1) .pod)
      [(0xC4000000, Instr.caddF32), (0xC4000001, .caddBf16), (0xC4000002, .caddF16), (0xC4000003, .caddI32), (0xC4000004, .cmaxF32)] = true ∧
    readsAs (wordOf 0xC8000003 [(20, 3), (13, 4), (3, 6)]) none (.dstat 3 4 .sys) = true ∧
    readsAs (wordOf 0xCC000000 [(20, 1), (12, 4), (5, 6), (3, 1), (2, 1), (0, 2)]) none (.wwait 1 4 (.reg 6) .geu true true) = true ∧
    readsAs (wordOf 0xCC000000 [(20, 1), (12, 4), (5, 0x61), (0, 3)]) none (.wwait 1 4 (.int 1) .ltu false false) = true := by
  decide +kernel

theorem test_decode_queues_and_tiles :
    allRead [(12, 0x61), (5, 15)] (fun mk => mk 15 (.int 1)) [(0xD4000000, Instr.qput), (0xD4000003, .qallow)] = true ∧
    allRead [(20, 1), (19, 1), (5, 4)] (fun mk => mk 1 true 4) [(0xD4000001, Instr.qtry), (0xD4000004, .qcount)] = true ∧
    readsAs (wordOf 0xD4000002 [(12, 3), (10, 1), (9, 0), (5, 4)]) none (.qbind 4 (.reg 3) false true) = true ∧
    readsAs (wordOf 0xD4000005 [(5, 7)]) none (.qunbind 7) = true ∧
    allRead [(5, 31)] (fun mk => mk 31) [(0xD8000000, Instr.tgive), (0xD8000001, .ttake)] = true ∧
    readsAs (wordOf 0xD8000002 [(20, 1), (19, 1), (5, 31)]) none (.towner 1 true 31) = true ∧
    readsAs (wordOf 0xD8000003 [(12, 4), (5, 31)]) none (.mvtd 31 4) = true ∧
    readsAs (wordOf 0xD8000004 [(20, 2), (5, 31)]) none (.rdtd 2 false 31) = true := by decide +kernel

theorem test_decode_matrix :
    [(0, (Instr.mma : MmaArgs → Instr)), (1, .mmab)].all (fun e =>
      readsAs (wordOf 0xDC000000 [(22, 15), (17, 31), (12, 3), (8, 0xB), (4, 0xD), (2, e.1), (1, 0)])
        (some (wordOf 0 [(26, 63), (24, 1), (18, 2), (16, 3), (15, 1)]))
        (e.2 ⟨15, 31, 3, .i8, .i4, false, 63, 1, 2, 3, true⟩)) = true ∧
    readsAs (wordOf 0xDC000000 [(22, 1), (17, 2), (12, 3), (8, 0), (4, 2), (2, 2), (1, 1)])
      (some (wordOf 0 [(26, 4), (24, 2), (18, 5), (16, 0), (8, 0x40), (6, 1), (2, 3)]))
      (.mmat ⟨1, 2, 3, .dm8, .dm4, true, 4, 2, 5, 0, false⟩ 0x40 true 3) = true ∧
    readsAs (wordOf 0xE0000000 [(22, 14), (17, 30), (13, 0xA), (10, 5), (9, 1), (8, 0), (6, 3), (5, 1)])
      (some (wordOf 0 [(26, 62), (24, 2), (23, 1)])) (.cdrain 14 30 .f32 (some 5) false true .up 62 2 true) = true ∧
    readsAs (wordOf 0xE4000000 [(20, 15)]) none (.czero 15) = true ∧
    readsAs (wordOf 0xE4000001 [(20, 15), (12, 31), (5, 0xA)]) none (.cload 15 31 .f32) = true ∧
    readsAs (wordOf 0xE4000002 [(5, 7)]) none (.hclr 7) = true ∧
    readsAs (wordOf 0xE4000003 [(20, 1), (19, 1), (12, 0x61), (5, 7)]) none (.hrd 1 true (.int 1) 7) = true ∧
    readsAs (wordOf 0xE4000004 [(12, 0x61), (5, 6)]) none (.hset (.int 1) 6) = true ∧
    readsAs (wordOf 0xE4000005 [(12, 31), (5, 1)]) none (.cwait 31 true) = true := by decide +kernel

/-- The words of 06's worked clause, with the spec's reading of each. -/
theorem test_decode_worked_clause :
    readsAs 0x2C600000 (some 0x00000100) (.lit 6 false 0x100) = true ∧
    readsAs 0x0C750C9C none (.imad 7 false .tid (.int 4) (.latch 0)) = true ∧
    readsAs 0xA4607882 none (.st 6 (.core (.reg 7)) .w 2) = true ∧
    readsAs 0x80BFFB00 none (.br 1 false 0x3FFB) = true := by decide +kernel

theorem test_decode_refuses :
    [0x00000000, 0x04000017, 0x0800000C, 0x08000020, 0x14000008, 0x30000005, 0x34000006, 0x37800000, 0x34600000, 0x38000008,
     0x38001000, 0x3F800000, 0x40000018, 0x58000E00, 0x5C00000A, 0x60000A00, 0x68000001, 0x70000010, 0x74000000, 0x80000001,
     0x84000000, 0x88000000, 0x8C001000, 0x9000000A, 0x9C000000, 0xA0000E00, 0xA0000140, 0xA0080000, 0xB0000000, 0xB4000007,
     0xBC000007, 0xC0000005, 0xC4000005, 0xC8000004, 0xCC000010, 0xD0000008, 0xD4000006, 0xD8000005, 0xE4000006, 0xE8000000,
     0xFC000000].all (fun n => match decodeWords (BitVec.ofNat 32 n) (some 0) with | .ok _ => false | .error _ => true) = true := by
  decide +kernel

/-! ### Terms that `wellFormed` refuses, one for each of its checks, beside one that it admits -/

theorem smoke_ill_formed_words :
    [Instr.iadd 0 false (.queue 3) (.reg 0), .iadd 0 false (.reg 0) (.queue 0), .barMeet 0 false (.queue 1) (.reg 0), .ineg 0 false (.queue 3),
     .redAdd 0 false (.queue 2), .imad 0 false (.reg 0) (.reg 0) (.reg 28), .bfma 0 false (.reg 0) (.reg 0) .tid,
     .imad 0 false (.queue 3) (.reg 0) (.reg 0), .bfi 0 false (.reg 0) (.queue 3) (.reg 0), .sel 0 false (.queue 3) (.reg 0) 0,
     .sel 0 false (.reg 0) (.queue 3) 0, .iaddi 0 false (.queue 3) 0, .lea 0 false (.queue 3) (.reg 0) 0, .lea 0 false (.reg 0) (.queue 3) 0,
     .lea 0 false (.reg 0) (.reg 0) 5, .lea64 1 false 0 (.reg 0) 0, .lea64 0 false 1 (.reg 0) 0, .lea64 0 false 0 (.queue 3) 0,
     .lea64 0 false 0 (.reg 0) 5, .icmp 7 .set (.reg 0) (.reg 0) .eq, .ncmp 0 .set (.queue 3) (.reg 0) .eq,
     .fcmp 0 .set (.reg 0) (.queue 3) .eq, .fcmpF64 7 .set 0 0 .eq, .fcmpF64 0 .set 1 0 .eq, .fcmpF64 0 .set 0 1 .eq,
     .iadd64 1 false 0 0, .dadd 0 false 1 0, .mulw 0 false 0 1, .pand 7 0 0, .pnot 7 0, .ptest 7 (.reg 0), .ptest 0 (.queue 3),
     .fadd 0 false (.queue 3) (.reg 0) .f32, .fadd 0 false (.reg 0) (.queue 3) .f32, .fneg 0 false (.queue 3),
     .dfma 1 false 0 0 0, .dfma 0 false 1 0 0, .dfma 0 false 0 1 0, .dfma 0 false 0 0 1, .dfma 0 false 0 0 28,
     .sbcast 0 false (.queue 3) (.reg 0), .saff 0 false (.reg 0) (.queue 3), .sgen 0 false (.queue 3), .xmwr (.queue 3),
     .xchGet 0 false (.queue 3) (.reg 0), .brd 0 false 0 0, .jr 1, .jrd 1 0, .jrd 0 1, .trap (.queue 3), .sysc 0 false (.queue 3) 0,
     .sysc 0 false (.reg 0) 1, .wrsr (.queue 3) .lr, .wrsr (.reg 0) .xm, .wrsr (.reg 0) .tick,
     .wrsr (.reg 0) .fqprod].all (fun i => !wellFormed i) = true := by decide +kernel

theorem smoke_ill_formed_formats :
    [Instr.fcvt 0 false (.queue 3) .f32 .f16 .ne 0, .fcvt 0 false (.reg 0) .acc .f32 .ne 0, .fcvt 0 false (.reg 0) .f32 .acc .ne 0,
     .fcvt 0 false (.reg 0) .f16 .f16 .ne 0, .fcvt 0 false (.reg 0) .f32 .f32 .ne 1, .fcvt 0 false (.reg 0) .f16 .f32 .ne 2,
     .fcvt 0 false (.reg 0) .e5m2 .f16 .ne 2, .fpack 0 false (.queue 3) (.reg 0) .f16 false, .fpack 0 false (.reg 0) (.queue 3) .f16 false,
     .fpack 0 false (.reg 0) (.reg 0) .f32 false, .fpack 0 false (.reg 0) (.reg 0) .acc false, .fpack 0 false (.reg 0) (.reg 0) .f16 true,
     .funpk 0 false (.queue 3) .f16 0, .funpk 0 false (.reg 0) .f32 0, .funpk 0 false (.reg 0) .bf16 2,
     .mma ⟨0, 0, 0, .acc, .f16, false, 0, 0, 0, 0, true⟩, .mma ⟨0, 0, 0, .f16, .acc, false, 0, 0, 0, 0, true⟩,
     .mmab ⟨0, 0, 0, .i8, .f16, false, 0, 0, 0, 0, true⟩, .mmat ⟨0, 0, 0, .i8, .i8, false, 0, 0, 0, 0, false⟩ 0 false 0].all
      (fun i => !wellFormed i) = true := by decide +kernel

theorem smoke_ill_formed_memory :
    [Instr.ld 1 (.lane (.reg 0)) .d 0, .ld 2 (.lane (.reg 0)) .q 0, .st 0 (.glob 1) .w 0, .ldv 0 (.die 1) .w 0, .ld 0 (.core (.queue 3)) .w 0,
     .ld 0 (.quad (.queue 3)) .w 0, .pf (.glob 1) .w 0, .acq 0 1 .sys, .rel 1 (.reg 0) .sys, .rel 0 (.queue 3) .sys, .acqrel 0 1 (.reg 0) .sys,
     .acqrel 0 0 (.queue 3) .sys, .aadd 0 1 (.reg 0) .sys, .afaddBf16x2 0 0 (.queue 3) .sys, .aadd64 1 0 0 .sys, .acas64 0 1 0 .sys,
     .amax64 0 0 1 .sys, .caddF32 1 (.reg 0) .sys, .cmaxF32 0 (.queue 3) .sys, .dprop 0 1 0 .sys, .dprop 0 0 1 .sys, .dread 0 1 (.reg 0) .sys,
     .dreset 0 0 (.queue 3) .sys, .dstat 0 1 .sys, .wwait 0 1 (.reg 0) .eq false false, .wwait 0 0 (.queue 3) .eq false false,
     .wwait 0 0 (.reg 1) .eq true false, .wwait 0 0 (.int 1) .eq true false, .barHold 0 false (.queue 3), .qput 0 (.queue 3),
     .qallow 0 (.queue 3), .qbind 0 (.queue 3) false false, .mvtd 0 1, .rdtd 1 false 0, .hrd 0 false (.queue 3) 0, .hset (.queue 3) 0].all
      (fun i => !wellFormed i) = true := by decide +kernel

theorem smoke_ill_formed_steps :
    [Instr.clauseIssue (.vec 256 0), .clauseIssue (.vec 0 128), .arm (.ctl 64 0), .disarm (.ctl 0 4), .bankDrowsy (.vec 256 0) 0,
     .strandReady ⟨2 ^ 30, 0⟩ 0, .halt ⟨0, 2 ^ 32⟩, .evictionComplete (2 ^ 30) 0, .rangeRequest 16 0, .blockPlace 16, .matrixOpTake 64,
     .matrixOpComplete 0 64, .matrixOpComplete 64 0, .hubWatchArm 16 0 0, .hubReplyClear 0 64,
     .stagedUnitAgeOut 4096 0, .stagedUnitAgeOut 0 (2 ^ 23), .leaseOffer 2048 0, .leaseOffer 0 1536, .leaseRecall 2048,
     .extentAdd 2048 0 100 0, .extentAdd 0 512 100 0, .extentAdd 0 0 99 0, .extentAdd 0 0 60001 0, .leaseRelease 512 0, .extentRequest 4096,
     .recall 512 0, .cobblerOffer 512 ⟨0, false⟩, .cobblerOffer 0 ⟨2048, false⟩, .cobblerRequest 0 ⟨4096, true⟩, .heartbeat 512 0 0,
     .addEvent 4096 ⟨0, 0, 0, 0, 0⟩, .addEvent 0 ⟨512, 0, 0, 0, 0⟩, .addEvent 0 ⟨0, 1536, 0, 0, 0⟩, .backInvalidate 4096 0, .backInvalidate 0 (2 ^ 23),
     .cxlMemRequest ⟨512, 0, 0⟩ ⟨.load, 0, 4, 0, 0, 0, 0, none, none, false⟩, .cxlMemRequest ⟨0, 0, 0⟩ ⟨.load, 2 ^ 43, 4, 0, 0, 0, 0, none, none, false⟩,
     .hubCoreAccess ⟨64, false⟩ ⟨.load, 0, 4, 0, 0, 0, 0, none, none, false⟩, .hubCoreAccess ⟨0, false⟩ ⟨.load, 2 ^ 43, 4, 0, 0, 0, 0, none, none, false⟩, .endpointDma 13 ⟨.load, 0, 4, 0, 0, 0, 0, none, none, false⟩,
     .endpointDma 18 ⟨.load, 0, 4, 0, 0, 0, 0, none, none, false⟩, .endpointDma 14 ⟨.load, 2 ^ 43, 4, 0, 0, 0, 0, none, none, false⟩, .fenceCountMessage ⟨1, 0, 512, 0, 0⟩,
     .stackBaseDieSilent 16, .fencedNotice 512, .linkReplay 18 false, .linkTraining 18 .switch, .retrainComplete ⟨18, none⟩,
     .reset ⟨512, false, [0], 0⟩, .reset ⟨0, false, [], 0⟩, .reset ⟨0, false, [0, 0, 0, 0, 0, 0, 0, 0], 0⟩].all
      (fun i => !wellFormed i) = true ∧
    [Instr.clauseIssue (.vec 255 127), .extentAdd 2047 511 60000 0, .reset ⟨511, false, [0], 0⟩, .dfma 62 true 62 0 26,
     .fcvt 0 false (.reg 0) .e5m2 .f16 .ne 1, .wrsr (.reg 0) (.winB 7)].all wellFormed = true := by decide +kernel

/-! ### Small steps with results from the spec's examples and tables -/

/-- The state `ready i` with registers that hold uniform words. -/
def holding (l : List (Nat × Word)) (i : Instr) : State :=
  l.foldl (fun s e => modMe (fun st => { st with regs := vset st.regs e.1 (.u e.2) }) s) (ready i)

/-- The same state after the instruction; reset where it gives none. -/
def after (l : List (Nat × Word)) (i : Instr) : State :=
  match exec i (holding l i) with
  | .next t => t
  | _ => State.reset

/-- Thread 0's word of `v1` after an instruction whose sources are `v2`, `v3` and `v4`. -/
def gives (i : Instr) (a b c : Word) : Word := (reg (after [(2, a), (3, b), (4, c)] i) 1).at 0

/-- The register pair `w10` after an instruction whose sources are `w2` and `w4`. -/
def givesPair (i : Instr) (a b : DWord) : DWord :=
  pairAt (after [(2, loW a), (3, hiW a), (4, loW b), (5, hiW b)] i) 10 0

/-- Bit 0 of `p1` after a compare of `v2` and `v3`. -/
def sets (i : Instr) (a b : Word) : Bool := (predMask (after [(2, a), (3, b)] i) 1).getLsbD 0

/-- `fflags` after an instruction on `v2`, `v3` and `v4`. -/
def raises (i : Instr) (a b c : Word) : Word := (after [(2, a), (3, b), (4, c)] i).me.fflags

/-- 07 R172. -/
theorem test_integer_arithmetic :
    gives (.iadd 1 false (.reg 2) (.reg 3)) 0xFFFFFFFF 2 0 = 1 ∧ gives (.isub 1 false (.reg 2) (.reg 3)) 0 1 0 = 0xFFFFFFFF ∧
    gives (.imul 1 false (.reg 2) (.reg 3)) 0x10001 0x10001 0 = 0x20001 ∧
    gives (.imulh 1 false (.reg 2) (.reg 3)) 0xFFFFFFFF 1 0 = 0xFFFFFFFF ∧
    gives (.nmulh 1 false (.reg 2) (.reg 3)) 0xFFFFFFFF 0xFFFFFFFF 0 = 0xFFFFFFFE ∧
    gives (.iaddc 1 false (.reg 2) (.reg 3)) 0xFFFFFFFF 1 0 = 1 ∧ gives (.isubb 1 false (.reg 2) (.reg 3)) 1 2 0 = 1 ∧
    gives (.imin 1 false (.reg 2) (.reg 3)) 0xFFFFFFFF 1 0 = 0xFFFFFFFF ∧ gives (.imax 1 false (.reg 2) (.reg 3)) 0xFFFFFFFF 1 0 = 1 ∧
    gives (.nmin 1 false (.reg 2) (.reg 3)) 0xFFFFFFFF 1 0 = 1 ∧ gives (.nmax 1 false (.reg 2) (.reg 3)) 0xFFFFFFFF 1 0 = 0xFFFFFFFF ∧
    gives (.iabsd 1 false (.reg 2) (.reg 3)) 0x80000000 0x7FFFFFFF 0 = 0xFFFFFFFF := by decide +kernel

/-- 07 R172-R174. -/
theorem test_integer_bits :
    gives (.andn 1 false (.reg 2) (.reg 3)) 0xFF 0x0F 0 = 0xF0 ∧ gives (.shl 1 false (.reg 2) (.reg 3)) 1 32 0 = 0 ∧
    gives (.shr 1 false (.reg 2) (.reg 3)) 0x80000000 31 0 = 1 ∧ gives (.sar 1 false (.reg 2) (.reg 3)) 0x80000000 40 0 = 0xFFFFFFFF ∧
    gives (.rotl 1 false (.reg 2) (.reg 3)) 0x80000001 33 0 = 3 ∧ gives (.bfx 1 false (.reg 2) (.reg 3)) 0x89ABCDEF 0x0808 0 = 0xCD ∧
    gives (.bfxs 1 false (.reg 2) (.reg 3)) 0x89ABCDEF 0x3F1C 0 = 0xFFFFFFF8 ∧
    gives (.bfi 1 false (.reg 2) (.reg 3) (.reg 4)) 0x11223344 0xAB 0x0810 = 0x11AB3344 ∧
    gives (.perm 1 false (.reg 2) (.reg 3)) 0x11223344 0x0123 0 = 0x44332211 ∧
    gives (.perm 1 false (.reg 2) (.reg 3)) 0x1122B344 0x8810 0 = 0x0000B344 ∧
    gives (.perm 1 false (.reg 2) (.reg 3)) 0x1122B344 0x5554 0 = 0xFFFFFF00 := by decide +kernel

/-- 07 R175. -/
theorem test_integer_unary :
    gives (.ineg 1 false (.reg 2)) 1 0 0 = 0xFFFFFFFF ∧ gives (.iabs 1 false (.reg 2)) 0x80000000 0 0 = 0x80000000 ∧
    gives (.not 1 false (.reg 2)) 0xF 0 0 = 0xFFFFFFF0 ∧ gives (.popc 1 false (.reg 2)) 0xF0F0 0 0 = 8 ∧
    gives (.clz 1 false (.reg 2)) 1 0 0 = 31 ∧ gives (.clz 1 false (.reg 2)) 0 0 0 = 32 ∧ gives (.ctz 1 false (.reg 2)) 8 0 0 = 3 ∧
    gives (.brev 1 false (.reg 2)) 3 0 0 = 0xC0000000 ∧ gives (.sext8 1 false (.reg 2)) 0x180 0 0 = 0xFFFFFF80 ∧
    gives (.sext16 1 false (.reg 2)) 0x17FFF 0 0 = 0x7FFF ∧ gives (.zext8 1 false (.reg 2)) 0x180 0 0 = 0x80 ∧
    gives (.zext16 1 false (.reg 2)) 0x18000 0 0 = 0x8000 ∧ gives (.bswap 1 false (.reg 2)) 0x11223344 0 0 = 0x44332211 := by
  decide +kernel

/-- 07 R176-R178. -/
theorem test_immediates_and_lea :
    gives (.imad 1 false (.reg 2) (.reg 3) (.reg 4)) 7 9 5 = 68 ∧ gives (.sel 1 false (.reg 2) (.reg 3) 7) 7 9 0 = 7 ∧
    gives (.sel 1 false (.reg 2) (.reg 3) 0) 7 9 0 = 9 ∧ gives (.iaddi 1 false (.reg 2) 0xFFF) 7 0 0 = 6 ∧
    gives (.andi 1 false (.reg 2) 0xF00) 0x12345678 0 0 = 0x12345600 ∧ gives (.movi 1 false 0x800) 0 0 0 = 0xFFFFF800 ∧
    gives (.lit 1 false 0xCAFEF00D) 0 0 0 = 0xCAFEF00D ∧ gives (.lea 1 false (.reg 2) (.reg 3) 3) 5 7 0 = 61 := by decide +kernel

/-- 07 R180, R188. -/
theorem test_pairs :
    givesPair (.iadd64 10 false 2 4) 0xFFFFFFFF 1 = 0x100000000 ∧ givesPair (.isub64 10 false 2 4) 0 1 = 0xFFFFFFFFFFFFFFFF ∧
    givesPair (.sar64 10 false 2 4) 0x8000000000000000 63 = 0xFFFFFFFFFFFFFFFF ∧
    givesPair (.imul64 10 false 2 4) 0x100000001 0x100000001 = 0x200000001 ∧
    givesPair (.mulw 10 false 2 4) 0xFFFFFFFF 2 = 0xFFFFFFFFFFFFFFFE ∧ givesPair (.nmulw 10 false 2 4) 0xFFFFFFFF 2 = 0x1FFFFFFFE ∧
    givesPair (.dadd 10 false 2 4) 0x3FF0000000000000 0x4000000000000000 = 0x4008000000000000 := by decide +kernel

/-- 07 R179, R182, R187. -/
theorem test_compares :
    sets (.icmp 1 .set (.reg 2) (.reg 3) .lt) 0xFFFFFFFF 1 = true ∧ sets (.ncmp 1 .set (.reg 2) (.reg 3) .lt) 0xFFFFFFFF 1 = false ∧
    sets (.icmp 1 .and (.reg 2) (.reg 3) .ge) 1 1 = false ∧ sets (.icmp 1 .or (.reg 2) (.reg 3) .ge) 1 1 = true ∧
    sets (.fcmp 1 .set (.reg 2) (.reg 3) .uno) 0x7FC00000 0 = true ∧ sets (.fcmp 1 .set (.reg 2) (.reg 3) .eq) 0x80000000 0 = true ∧
    sets (.pnot 1 7) 0 0 = false ∧ sets (.ptest 1 (.reg 2)) 0x10 0 = true := by decide +kernel

/-- 07 R183-R186. -/
theorem test_float :
    gives (.fadd 1 false (.reg 2) (.reg 3) .f32) 0x3F800000 0x40000000 0 = 0x40400000 ∧
    gives (.fadd 1 false (.reg 2) (.reg 3) .f16x2) 0x3C003C00 0x40003C00 0 = 0x42004000 ∧
    gives (.fmul 1 false (.reg 2) (.reg 3) .bf16x2) 0x40004000 0x40403F80 0 = 0x40C04000 ∧
    gives (.fmin 1 false (.reg 2) (.reg 3) .f32) 0x80000000 0 0 = 0x80000000 ∧
    gives (.ffma 1 false (.reg 2) (.reg 3) (.reg 4)) 0x40400000 0x40400000 0xC1100000 = 0 ∧
    gives (.frcp 1 false (.reg 2)) 0x80000000 0 0 = 0xFF800000 ∧ gives (.fsqrt 1 false (.reg 2)) 0x40800000 0 0 = 0x40000000 ∧
    gives (.frndNe 1 false (.reg 2)) 0x40200000 0 0 = 0x40000000 ∧ gives (.frndUp 1 false (.reg 2)) 0x40200000 0 0 = 0x40400000 ∧
    gives (.frndZ 1 false (.reg 2)) 0xBE99999A 0 0 = 0x80000000 ∧ gives (.ffract 1 false (.reg 2)) 0xB2000000 0 0 = 0x3F7FFFFF ∧
    gives (.ftanh 1 false (.reg 2)) 0xFF800000 0 0 = 0xBF800000 ∧ gives (.fcos 1 false (.reg 2)) 0 0 0 = 0x3F800000 ∧
    gives (.fsigm 1 false (.reg 2)) 0 0 0 = 0x3F000000 := by decide +kernel

/-- 05 R125, 07 R185: DZ of a reciprocal of zero, NV of a root of a negative number and of Inf - Inf. -/
theorem test_flags :
    raises (.frcp 1 false (.reg 2)) 0 0 0 = 8 ∧ raises (.fsqrt 1 false (.reg 2)) 0xBF800000 0 0 = 16 ∧
    raises (.fsub 1 false (.reg 2) (.reg 3) .f32) 0x7F800000 0x7F800000 0 = 16 := by decide +kernel

/-- 07 R192's example, and those of 05 R119. -/
theorem test_conversions :
    (let t := after [(3, 0x3FE00000), (9, 0x11223344)] (.fcvt 9 false (.reg 3) .f32 .e4m3 .ne 2)
     (reg t 9).at 0 = 0x113E3344 ∧ t.me.fflags = 0) ∧
    encodeWords (.fcvt 9 false (.reg 3) .f32 .e4m3 .ne 2) = [0x58903A42] ∧
    gives (.fcvt 1 false (.reg 2) .f32 .dm4 .ne 0) 0x40E00000 0 0 = 0x5 ∧ gives (.fcvt 1 false (.reg 2) .f32 .dm4 .ne 0) 0x40500000 0 0 = 0x4 ∧
    (let t := after [(2, 0x3B83126F)] (.fcvt 1 false (.reg 2) .f32 .dm4 .ne 0)
     (reg t 1).at 0 = 0 ∧ t.me.fflags = 3) ∧
    gives (.fcvt 1 false (.reg 2) .f32 .f32 .ne 0) 0x7FC00000 0 0 = 0 ∧
    gives (.fpack 1 false (.reg 2) (.reg 3) .f16 false) 0x3F800000 0x40000000 0 = 0x40003C00 ∧
    gives (.funpk 1 false (.reg 2) .i8 1) 0x80FF 0 0 = 0xC3000000 := by decide +kernel

/-- 05 R133's examples: products of DM8 elements in ACC40. -/
theorem test_dm_products :
    (floatGroup 0 [(some (Machine.decodeFmt .dm8 0x37), some (Machine.decodeFmt .dm8 0xEB))]).1 = 0xBF29656042 ∧
    (floatGroup 0 [(some (Machine.decodeFmt .dm8 0x27), some (Machine.decodeFmt .dm8 0xEB))]).1 =
      2 ^ 39 + (4 + 511) * 2 ^ 29 + (10349 * 2 ^ 16 - 2 ^ 29) := by decide +kernel

/-- 02 R29's example: `tid` is A(0, 1), and 4 times it is A(0, 4). -/
theorem test_affine_tags :
    reg (after [] (.mov 1 false .tid)) 1 = .a 0 1 ∧ reg (after [(2, 4)] (.imul 1 false .tid (.reg 2))) 1 = .a 0 4 ∧
    (reg (after [] (.imul 1 false .tid .tid)) 1).tagNo = 2 := by decide +kernel

/-- 04 R104's example after R107: unit 65,536 in parity mode. -/
theorem test_parity_map :
    stripeOf 0x1000000 = 4369 ∧ parityStack 4369 = 1 ∧ stackOf false 0x1000000 = 2 ∧ stackOf false (65535 * 256) = 0 ∧
    stackOf false (65537 * 256) = 3 := by decide +kernel

/-- The words of the examples of 08 and 09. -/
theorem test_encode_examples :
    encodeWords (.ld 4 (.glob 2) .w 2) = [0xA0402802] ∧ encodeWords (.aadd 9 2 (.reg 6) .pod) = [0xB89041A8] ∧
    encodeWords (.dprop 8 2 6 .pod) = [0xC88041A8] ∧ encodeWords (.tgive 1) = [0xD8000020] ∧
    encodeWords (.towner 5 false 1) = [0xD8500022] ∧
    encodeWords (.mmat ⟨0, 1, 2, .e4m3, .e4m3, false, 0, 0, 0, 0, true⟩ 0 false 1) = [0xDC022448, 0x00008004] ∧
    encodeWords (.cdrain 0 3 .f16 (some 0) true false .ne 0 0 false) = [0xE0070300, 0] := by decide +kernel

/-- The header word of 06's worked clause: N = 5. -/
theorem test_header_length : clauseLen 0x501F0800 = 5 := by decide +kernel

end Sys2Proof.Tests
end

/-! ## Proofs about the compute instructions (07): integer and predicate rows, branches, and the rows of major 0x14 -/

namespace Sys2Proof.Compute

open Sys2Proof Sys2Proof.Machine Sys2Proof.Claims Sys2Proof.Laws

/-! ### Forms of statements from the value functions of the model -/

/-- An instruction of two selectors whose value in each thread is `f` of its operands, and which raises no flag. -/
theorem binaryGives_of_value {mk : Reg → Bool → Sel → Sel → Instr} {f : Word → Word → Word}
    (res : State → List RegVal → RegVal × FlagSet)
    (hexec : ∀ d nw a b s, exec (mk d nw a b) s = .next (vecOp (mk d nw a b) d nw [a, b] res s))
    (hvalue : ∀ s v th, (res s v).1.at th = f (opnd v 0 th) (opnd v 1 th))
    (hflags : ∀ s v, (res s v).2 = noFlags) : BinaryGives mk f := by
  intro d nw a b s h
  refine ⟨_, hexec d nw a b s, ?_⟩
  have key := vecOp_effect (mk d nw a b) d nw [a, b] res s h
  simp only [hvalue, hflags] at key
  exact key

theorem binaryGives_bin {mk : Reg → Bool → Sel → Sel → Instr} {f : Word → Word → Word} (g : Word → Word → Word)
    (hexec : ∀ d nw a b s, exec (mk d nw a b) s = .next (vecOp (mk d nw a b) d nw [a, b] (bin g) s))
    (hg : ∀ a b, g a b = f a b) : BinaryGives mk f :=
  binaryGives_of_value (bin g) hexec (fun s v th => (bin_at g s v th).trans (hg _ _)) (fun _ _ => rfl)

theorem unaryGives_un {mk : Reg → Bool → Sel → Instr} {f : Word → Word} (g : Word → Word)
    (hexec : ∀ d nw a s, exec (mk d nw a) s = .next (vecOp (mk d nw a) d nw [a] (un g) s))
    (hg : ∀ a, g a = f a) : UnaryGives mk f := by
  intro d nw a s h
  refine ⟨_, hexec d nw a s, ?_⟩
  have key := vecOp_effect (mk d nw a) d nw [a] (un g) s h
  simp only [un_at, hg] at key
  exact key

/-! ### Shifts (07 R172) -/

theorem shlW_eq_ofNat (a b : Word) :
    shlW a b = if 32 ≤ b.toNat then 0 else BitVec.ofNat 32 (a.toNat * 2 ^ b.toNat) := by
  unfold shlW
  split
  · rfl
  · apply BitVec.eq_of_toNat_eq
    rw [BitVec.toNat_shiftLeft, Nat.shiftLeft_eq, BitVec.toNat_ofNat]

theorem shrW_eq_ofNat (a b : Word) :
    shrW a b = if 32 ≤ b.toNat then 0 else BitVec.ofNat 32 (a.toNat / 2 ^ b.toNat) := by
  unfold shrW
  split
  · rfl
  · apply BitVec.eq_of_toNat_eq
    rw [BitVec.toNat_ushiftRight, Nat.shiftRight_eq_div_pow, BitVec.toNat_ofNat]
    exact (Nat.mod_eq_of_lt (Nat.lt_of_le_of_lt (Nat.div_le_self _ _) a.isLt)).symm

/-- The top bit of a word is its sign. -/
theorem getLsbD_31_iff_neg (a : Word) : a.getLsbD 31 = true ↔ a.toInt < 0 := by
  rw [← BitVec.msb_eq_getLsbD_last, BitVec.msb_eq_toInt, decide_eq_true_iff]

theorem sarW_eq_ofInt (a b : Word) : sarW a b =
    if 32 ≤ b.toNat then (if 0 ≤ a.toInt then 0 else 0xFFFFFFFF) else BitVec.ofInt 32 (a.toInt / 2 ^ b.toNat) := by
  have hsign := getLsbD_31_iff_neg a
  unfold sarW
  split
  · by_cases hn : a.toInt < 0
    · rw [if_pos (hsign.mpr hn), if_neg (by omega)]
    · rw [if_neg (mt hsign.mp hn), if_pos (by omega)]
  · rw [BitVec.sshiftRight, Int.shiftRight_eq_div_pow]
    norm_cast

/-! ### Fields and bytes (07 R173, R174) -/

theorem extractLsb'_toNat_low (x : Word) (p l : Nat) : (x.extractLsb' p l).toNat = x.toNat / 2 ^ p % 2 ^ l := by
  rw [BitVec.extractLsb'_toNat, Nat.shiftRight_eq_div_pow]

theorem fieldSpec_eq_bitField (spec : Word) : fieldSpec spec = bitField spec := by
  simp [fieldSpec, bitField, Nat.shiftRight_eq_div_pow]

/-- A field of a word, as the bits from its position cut to its length. -/
theorem field_toNat (a : Word) (p l : Nat) : ((a >>> p).setWidth l).toNat = a.toNat / 2 ^ p % 2 ^ l := by
  rw [BitVec.toNat_setWidth, BitVec.toNat_ushiftRight, Nat.shiftRight_eq_div_pow]

theorem bfxW_eq_setWidth (a b : Word) :
    bfxW a b = ((a >>> (bitField b).1).setWidth (bitField b).2).setWidth 32 := by
  apply BitVec.eq_of_toNat_eq
  rw [bfxW, fieldSpec_eq_bitField, BitVec.toNat_setWidth, field_toNat, BitVec.toNat_ofNat]

/-- A number of `l` bits read as signed is that of the bit vector of its low bits. -/
theorem sgn_eq_toInt (l x : Nat) (hl : 0 < l) : sgn l x = (BitVec.ofNat l x).toInt := by
  obtain ⟨k, rfl⟩ := Nat.exists_eq_succ_of_ne_zero (Nat.ne_of_gt hl)
  have hp : 2 ^ (k + 1) = 2 * 2 ^ k := by rw [Nat.pow_succ]; omega
  rw [sgn, BitVec.toInt_eq_toNat_cond, BitVec.toNat_ofNat, Nat.succ_eq_add_one, Nat.add_sub_cancel]
  by_cases h : x % 2 ^ (k + 1) < 2 ^ k
  · rw [if_pos h, if_pos (by omega)]
  · rw [if_neg h, if_neg (by omega)]

theorem bfxsW_eq_signExtend (a b : Word) :
    bfxsW a b = ((a >>> (bitField b).1).setWidth (bitField b).2).signExtend 32 := by
  rw [bfxsW, fieldSpec_eq_bitField]
  obtain ⟨p, l⟩ := bitField b
  show (if l = 0 then 0 else BitVec.ofInt 32 (sgn l (a.toNat / 2 ^ p))) = ((a >>> p).setWidth l).signExtend 32
  split
  · subst_vars
    rw [BitVec.signExtend, BitVec.eq_nil ((a >>> p).setWidth 0)]
    rfl
  · have hfield : BitVec.ofNat l (a.toNat / 2 ^ p) = (a >>> p).setWidth l := by
      apply BitVec.eq_of_toNat_eq
      rw [field_toNat, BitVec.toNat_ofNat]
    rw [sgn_eq_toInt l _ (by omega), hfield]
    rfl

theorem byteOf_eq_extract (a : Word) (i : Nat) : byteOf a i = a.extractLsb' (8 * i) 8 := by
  apply BitVec.eq_of_toNat_eq
  rw [byteOf, field_toNat, extractLsb'_toNat_low]

theorem permByte_eq_permuted (a : Word) (sel : BitVec 4) : permByte a sel.toNat = permuted a sel := by
  have htop : ∀ i, (byteOf a i).getLsbD 7 = a.getLsbD (8 * i + 7) := fun i => by
    rw [byteOf_eq_extract, BitVec.getLsbD_extractLsb']; simp
  simp only [permByte, permuted, Nat.lt_succ_iff (n := 3), Nat.lt_succ_iff (n := 7), byteOf_eq_extract a sel.toNat, htop]

theorem permW_eq_permuted (a b : Word) : permW a b =
    permuted a (b.extractLsb' 12 4) ++ permuted a (b.extractLsb' 8 4) ++ permuted a (b.extractLsb' 4 4)
      ++ permuted a (b.extractLsb' 0 4) := by
  simp only [← permByte_eq_permuted, extractLsb'_toNat_low]
  simp [permW, ofFour]

/-- Settles O2: each row's function of the model gives the word of its table. -/
theorem integerBits : Obligations.IntegerBits :=
  ⟨binaryGives_bin _ (fun _ _ _ _ _ => rfl) (fun _ _ => rfl),
   binaryGives_bin _ (fun _ _ _ _ _ => rfl) (fun _ _ => rfl),
   binaryGives_bin _ (fun _ _ _ _ _ => rfl) (fun _ _ => rfl),
   binaryGives_bin _ (fun _ _ _ _ _ => rfl) (fun _ _ => rfl),
   binaryGives_of_value (binVal shlVal) (fun _ _ _ _ _ => rfl)
     (fun _ _ th => (shlVal_at _ _ th).trans (shlW_eq_ofNat _ _)) (fun _ _ => rfl),
   binaryGives_bin shrW (fun _ _ _ _ _ => rfl) shrW_eq_ofNat,
   binaryGives_bin sarW (fun _ _ _ _ _ => rfl) sarW_eq_ofInt,
   binaryGives_bin rotlW (fun _ _ _ _ _ => rfl) (fun _ _ => rfl),
   binaryGives_bin bfxW (fun _ _ _ _ _ => rfl) bfxW_eq_setWidth,
   binaryGives_bin bfxsW (fun _ _ _ _ _ => rfl) bfxsW_eq_signExtend,
   binaryGives_bin permW (fun _ _ _ _ _ => rfl) permW_eq_permuted⟩

/-! ### Signs, counts and reversals (07 R175) -/

theorem zero_sub_eq_ofInt (a : Word) : 0 - a = BitVec.ofInt 32 (-a.toInt) := by
  rw [BitVec.ofInt_neg, BitVec.ofInt_toInt]
  exact BitVec.zero_sub a

theorem abs_eq_ofNat (a : Word) : (if a.getLsbD 31 then 0 - a else a) = BitVec.ofNat 32 a.toInt.natAbs := by
  have hsign := getLsbD_31_iff_neg a
  have hnat : ∀ i : Int, 0 ≤ i → BitVec.ofInt 32 i = BitVec.ofNat 32 i.natAbs := fun i hi => by
    rw [← BitVec.ofInt_natCast, Int.natAbs_of_nonneg hi]
  split
  · rename_i h
    have hneg := hsign.mp h
    rw [zero_sub_eq_ofInt, hnat _ (by omega), Int.natAbs_neg]
  · rename_i h
    have hpos : 0 ≤ a.toInt := Int.not_lt.mp (mt hsign.mpr h)
    rw [← hnat _ hpos, BitVec.ofInt_toInt]

theorem not_eq_ofNat (a : Word) : ~~~a = BitVec.ofNat 32 (2 ^ 32 - 1 - a.toNat) := by
  apply BitVec.eq_of_toNat_eq
  rw [BitVec.toNat_not, BitVec.toNat_ofNat, Nat.mod_eq_of_lt (by omega)]

theorem foldl_count_eq_countP (p : Nat → Bool) (l : List Nat) (n : Nat) :
    l.foldl (fun n t => n + (if p t then 1 else 0)) n = n + l.countP p := by
  induction l generalizing n with
  | nil => rfl
  | cons t l ih => rw [List.foldl_cons, ih, List.countP_cons]; omega

theorem popc_eq_ones (a : Word) : popc a = ((bitsUp a).filter id).length := by
  rw [popc, foldl_count_eq_countP, bitsUp, ← List.countP_eq_length_filter, List.countP_map, Nat.zero_add]
  rfl

/-- The zeros above the highest one of a number of `n` bits. -/
theorem zerosBefore_testBits_reverse (n x : Nat) (hx : x < 2 ^ n) :
    zerosBefore ((List.range n).map x.testBit).reverse = if x = 0 then n else n - 1 - Nat.log2 x := by
  induction n with
  | zero =>
    have : x = 0 := by simpa using hx
    subst this; rfl
  | succ n ih =>
    rw [List.range_succ, List.map_append, List.reverse_append]
    show zerosBefore (x.testBit n :: ((List.range n).map x.testBit).reverse) = _
    by_cases hlt : x < 2 ^ n
    · have hbit : x.testBit n = false := Nat.testBit_lt_two_pow hlt
      have hcons : zerosBefore (x.testBit n :: ((List.range n).map x.testBit).reverse) =
          zerosBefore ((List.range n).map x.testBit).reverse + 1 := by simp [zerosBefore, hbit]
      rw [hcons, ih hlt]
      split
      · rfl
      · rename_i h0
        have := (Nat.log2_lt h0).mpr hlt
        omega
    · have hlog : Nat.log2 x = n := (Nat.log2_eq_iff (by have := Nat.two_pow_pos n; omega)).mpr ⟨by omega, hx⟩
      have hbit : x.testBit n = true := by
        rw [Nat.testBit_eq_decide_div_mod_eq, decide_eq_true_iff]
        have : x / 2 ^ n = 1 := (Nat.div_eq_iff (Nat.two_pow_pos n)).mpr (by rw [Nat.pow_succ] at hx; omega)
        omega
      have h0 : x ≠ 0 := by have := Nat.two_pow_pos n; omega
      simp [zerosBefore, hbit, h0, hlog]

theorem clzW_eq_zeros (a : Word) : clzW a = BitVec.ofNat 32 (zerosBefore (bitsUp a).reverse) := by
  have h : bitsUp a = (List.range 32).map a.toNat.testBit := rfl
  rw [h, zerosBefore_testBits_reverse 32 _ a.isLt, clzW]
  simp only [BitVec.toNat_eq]
  rfl

theorem bitsUp_reverse (a : Word) : (bitsUp a.reverse).reverse = bitsUp a := by
  apply List.ext_getElem
  · simp [bitsUp]
  · intro i h _
    have hi : i < 32 := by simpa [bitsUp] using h
    simp [bitsUp, BitVec.getLsbD_reverse, BitVec.getMsbD, show 31 - (31 - i) = i by omega]
    omega

theorem ctzW_eq_zeros (a : Word) : ctzW a = BitVec.ofNat 32 (zerosBefore (bitsUp a)) := by
  rw [ctzW, clzW_eq_zeros, brevW, bitsUp_reverse]

theorem brevW_eq_maskOf (a : Word) : brevW a = maskOf (fun i => a.getLsbD (31 - i.val)) := by
  apply BitVec.eq_of_getLsbD_eq
  intro i hi
  rw [maskOf_getLsbD _ ⟨i, hi⟩, brevW, BitVec.getLsbD_reverse, BitVec.getMsbD]
  simp [hi]

theorem setWidth_setWidth_eq_mod (a : Word) (n : Nat) :
    (a.setWidth n).setWidth 32 = BitVec.ofNat 32 (a.toNat % 2 ^ n) := by
  apply BitVec.eq_of_toNat_eq
  rw [BitVec.toNat_setWidth, BitVec.toNat_setWidth, BitVec.toNat_ofNat]

theorem bswapW_eq_extract (a : Word) : bswapW a =
    a.extractLsb' 0 8 ++ a.extractLsb' 8 8 ++ a.extractLsb' 16 8 ++ a.extractLsb' 24 8 := by
  simp only [bswapW, ofFour, byteOf_eq_extract]

/-- Settles O3: each row's function of the model gives the word of its table. -/
theorem integerUnary : Obligations.IntegerUnary :=
  ⟨unaryGives_un _ (fun _ _ _ _ => rfl) zero_sub_eq_ofInt,
   unaryGives_un _ (fun _ _ _ _ => rfl) abs_eq_ofNat,
   unaryGives_un _ (fun _ _ _ _ => rfl) not_eq_ofNat,
   unaryGives_un _ (fun _ _ _ _ => rfl) (fun a => congrArg (BitVec.ofNat 32) (popc_eq_ones a)),
   unaryGives_un clzW (fun _ _ _ _ => rfl) clzW_eq_zeros,
   unaryGives_un ctzW (fun _ _ _ _ => rfl) ctzW_eq_zeros,
   unaryGives_un brevW (fun _ _ _ _ => rfl) brevW_eq_maskOf,
   unaryGives_un _ (fun _ _ _ _ => rfl) (fun a => congrArg (BitVec.signExtend 32) (BitVec.setWidth_eq_extractLsb' (by decide))),
   unaryGives_un _ (fun _ _ _ _ => rfl) (fun a => congrArg (BitVec.signExtend 32) (BitVec.setWidth_eq_extractLsb' (by decide))),
   unaryGives_un _ (fun _ _ _ _ => rfl) (fun a => setWidth_setWidth_eq_mod a 8),
   unaryGives_un _ (fun _ _ _ _ => rfl) (fun a => setWidth_setWidth_eq_mod a 16),
   unaryGives_un bswapW (fun _ _ _ _ => rfl) bswapW_eq_extract⟩

/-! ### Compares and predicates (07 R179, R181, R182) -/

theorem combinePred_eq_combineBit (c : Combine) (old k : Bool) : combinePred c old k = combineBit c old k := by
  cases c <;> rfl

theorem condS_eq_ordered (c : Cond) (a b : Word) : condS c a b = ordered c a.toInt b.toInt := by
  cases c
  case eq => exact Bool.eq_iff_iff.mpr (by simp [condS, ordered, BitVec.toInt_inj])
  case ne => exact Bool.eq_iff_iff.mpr (by simp [condS, ordered, BitVec.toInt_inj])
  all_goals rfl

theorem condU_eq_ordered (c : Cond) (a b : Word) : condU c a b = ordered c a.toNat b.toNat := by
  cases c
  case eq => exact Bool.eq_iff_iff.mpr (by simp [condU, ordered, BitVec.toNat_inj])
  case ne => exact Bool.eq_iff_iff.mpr (by simp [condU, ordered, BitVec.toNat_inj])
  all_goals rfl

/-- An instruction with a predicate result whose bit in each thread is `v`, wherever registers stand that its reads may
bring in. -/
theorem predEffect_of_bits {i : Instr} {pd : PredNo} {sels : List Sel} {s : State} {v : Fin 32 → Bool}
    (res : State → List RegVal → Fin 32 → Bool) (hexec : exec i s = .next (predOp i pd [] sels res s))
    (hres : ∀ r, res { s with me := { s.me with resident := r } } (selVals s [] sels) = v)
    (h : executes (predNeed i [] sels) s = true) :
    ∃ t, exec i s = .next t ∧ PredEffect (predNeed i [] sels) pd v s t := by
  obtain ⟨r, key⟩ := predOp_effect i pd [] sels res s h
  rw [hres r] at key
  exact ⟨_, hexec, key⟩

/-- Settles O6: the bit written in each active thread is the compare, combined, or the function of predicates. -/
theorem comparesAndPredicates : Obligations.ComparesAndPredicates := by
  refine ⟨fun pd cmb a b cond s => ⟨?icmp, ?ncmp⟩,
    fun _ _ _ _ => predEffect_of_bits _ rfl (fun _ => rfl),
    fun _ _ _ _ => predEffect_of_bits _ rfl (fun _ => rfl),
    fun _ _ _ _ => predEffect_of_bits _ rfl (fun _ => rfl),
    fun _ _ _ _ => predEffect_of_bits _ rfl (fun _ => rfl),
    fun _ _ _ => predEffect_of_bits _ rfl (fun _ => rfl),
    fun _ _ _ => predEffect_of_bits _ rfl (fun _ => rfl), ?pget⟩
  case icmp =>
    exact predEffect_of_bits _ rfl (fun _ => funext fun th => by rw [combinePred_eq_combineBit, condS_eq_ordered]; rfl)
  case ncmp =>
    exact predEffect_of_bits _ rfl (fun _ => funext fun th => by rw [combinePred_eq_combineBit, condU_eq_ordered]; rfl)
  case pget =>
    intro d nw pa s h
    refine ⟨_, rfl, ?_⟩
    have key := vecOp_effect (.pget d nw pa) d nw []
      (fun s _ => (gOf (fun t => boolW ((predMask s pa).getLsbD t.val)), noFlags)) s h
    simp only [gOf_at] at key
    exact key

/-! ### Transfers of control (06 R147, R149; 07 R200) -/

theorem executes_active (n : Need) (s : State) (h : executes n s = true) : s.me.cur.mask ≠ 0 := by
  simp only [executes, Bool.and_eq_true, bne_iff_ne] at h
  obtain ⟨⟨⟨⟨⟨⟨-, hmask⟩, -⟩, -⟩, -⟩, -⟩, -⟩ := h
  exact hmask

/-- In a TF clause whose `tfence` is over, a transfer goes on to its own effect. -/
theorem beforeTransfer_tfDone (n : Need) (s : State) (k : State → State) (h : tfDone s = true) :
    beforeTransfer n s k = k s := by
  simp only [tfDone, Bool.or_eq_true, Bool.and_eq_true, Bool.not_eq_true', beq_iff_eq] at h
  unfold beforeTransfer
  rcases h with htf | ⟨⟨hwaits, hreq⟩, htrap⟩
  · simp [htf]
  · simp [hwaits, hreq, htrap]

/-- A transfer that executes has its own effect. -/
theorem transferOp_transfers (n : Need) (s : State) (k : List RegVal → State → State) (h : transfers n s = true) :
    transferOp n s k = k (selVals s [] n.sels) (issued n s) := by
  obtain ⟨hexec, htf⟩ := Bool.and_eq_true_iff.mp h
  have hmask := executes_active _ s hexec
  have hunder : n.underMask s = n := if_neg hmask
  unfold transferOp
  rw [hunder]
  refine (issue_executes { n with transfer := true } s _ hexec).trans ?_
  obtain ⟨r, hi⟩ := issued_eq n s
  have htf' : tfDone (issued n s) = true := by rw [hi]; exact htf
  have hmask' : (issued n s).me.cur.mask ≠ 0 := by rw [hi]; exact hmask
  exact (beforeTransfer_tfDone _ (issued n s) _ htf').trans (if_neg hmask')

/-- A state at a yield point: what the executing fragment now waits for, whether it keeps the issue slot, and whether a time
slice is still pending. -/
def atYield (w : Wait) (slot slice : Bool) (s : State) : State :=
  modMe (fun st => { st with timeSlice := slice, cur := { st.cur with wait := w, slot := slot } }) s

/-- A yield point where `c` says that there is one, in a state `t` that came from `s` with the same requests pending. -/
theorem yieldPoint_if (c : Bool) (s t : State) (hready : t.me.cur.wait = .ready) (hreq : t.me.requested = s.me.requested)
    (hslice : t.me.timeSlice = s.me.timeSlice) :
    ∃ w slot slice, (if c then yieldPoint t else t) = atYield w slot slice t ∧ yieldsWhen c s (atYield w slot slice t) := by
  unfold yieldsWhen
  rw [← hreq]
  by_cases h : (c && t.me.requested) = true
  · obtain ⟨hc, hr⟩ := Bool.and_eq_true_iff.mp h
    simp only [h, if_true]
    exact ⟨.yield, false, false, by rw [if_pos hc, yieldPoint, hr, hready]; rfl, rfl, rfl⟩
  · simp only [h]
    refine ⟨t.me.cur.wait, t.me.cur.slot, t.me.timeSlice, ?_, hready, hslice⟩
    cases c
    · rfl
    · have hr : t.me.requested = false := by simpa using h
      rw [if_pos rfl, yieldPoint, hr]
      rfl

theorem notTaken_effect (n : Need) (s : State) : NotTaken s (notTaken n s) :=
  ⟨⟨rfl, ⟨rfl, rfl, rfl⟩, ⟨rfl, rfl, rfl, rfl⟩, rfl⟩, ⟨rfl, rfl⟩⟩

theorem jump_effect (ws : List Word) (target : BitVec 52) (s : State) : Taken target s (jump ws target s) := by
  obtain ⟨w, slot, slice, heq, hyield⟩ := yieldPoint_if (decide (target.toNat < s.me.cur.wordAddr.toNat)) s
    (modCur (fun f => ({ f with last := ws } : Fragment).goto target 0) s) rfl rfl rfl
  simp only [decide_eq_true_eq] at heq
  have hjump : jump ws target s = _ := heq
  rw [hjump]
  exact ⟨⟨rfl, ⟨rfl, rfl, rfl⟩, ⟨rfl, rfl, rfl, rfl⟩, rfl⟩, hyield⟩

/-! ### Masks of the two sides of a branch (07 R200, R201) -/

theorem maskOf_eq_zero_iff (p : Fin 32 → Bool) : maskOf p = 0 ↔ ∀ th, p th = false := by
  constructor
  · intro h th
    rw [← maskOf_getLsbD p th, h]
    exact BitVec.getLsbD_zero
  · intro h
    apply BitVec.eq_of_getLsbD_eq
    intro i hi
    rw [maskOf_getLsbD p ⟨i, hi⟩, h]
    exact BitVec.getLsbD_zero.symm

/-- The threads that take a branch. -/
theorem branchMask_eq_maskOf (s : State) (p : PredNo) (ng : Bool) :
    branchMask s p ng = maskOf (fun th => activeIn s th && condIn s p ng th) := by
  apply BitVec.eq_of_getLsbD_eq
  intro i hi
  rw [maskOf_getLsbD _ ⟨i, hi⟩]
  cases ng <;> simp [branchMask, activeIn, condIn, hi, Bool.and_comm]

/-- The threads that do not. -/
theorem fallMask_eq_maskOf (s : State) (p : PredNo) (ng : Bool) :
    s.me.cur.mask &&& ~~~branchMask s p ng = maskOf (fun th => activeIn s th && !condIn s p ng th) := by
  apply BitVec.eq_of_getLsbD_eq
  intro i hi
  rw [branchMask_eq_maskOf, BitVec.getLsbD_and, BitVec.getLsbD_not, maskOf_getLsbD _ ⟨i, hi⟩, maskOf_getLsbD _ ⟨i, hi⟩]
  simp only [activeIn, hi, decide_true, Bool.true_and]
  cases s.me.cur.mask.getLsbD i <;> simp

theorem branchMask_eq_zero_iff (s : State) (p : PredNo) (ng : Bool) :
    branchMask s p ng = 0 ↔ ∀ th, activeIn s th = true → condIn s p ng th = false := by
  rw [branchMask_eq_maskOf, maskOf_eq_zero_iff]
  simp only [Bool.and_eq_false_imp]

theorem fallMask_eq_zero_iff (s : State) (p : PredNo) (ng : Bool) :
    s.me.cur.mask &&& ~~~branchMask s p ng = 0 ↔ ∀ th, activeIn s th = true → condIn s p ng th = true := by
  rw [fallMask_eq_maskOf, maskOf_eq_zero_iff]
  simp only [Bool.and_eq_false_imp, Bool.not_eq_false']

theorem branchMask_eq_mask_iff (s : State) (p : PredNo) (ng : Bool) :
    branchMask s p ng = s.me.cur.mask ↔ ∀ th, activeIn s th = true → condIn s p ng th = true := by
  rw [← fallMask_eq_zero_iff]
  have hsub : branchMask s p ng &&& s.me.cur.mask = branchMask s p ng := by
    rw [branchMask, BitVec.and_assoc, BitVec.and_self]
  constructor
  · intro h
    rw [h, BitVec.and_not_self]
  · intro h
    apply BitVec.eq_of_getLsbD_eq
    intro i hi
    have h1 := congrArg (·.getLsbD i) h
    have h2 := congrArg (·.getLsbD i) hsub
    simp only [BitVec.getLsbD_and, BitVec.getLsbD_not, hi, decide_true, Bool.true_and] at h1 h2
    revert h1 h2
    cases s.me.cur.mask.getLsbD i <;> cases (branchMask s p ng).getLsbD i <;> simp

theorem branchTarget_eq_targetOf (s : State) (tgt : BitVec 14) : branchTarget s tgt = targetOf s tgt := by
  unfold branchTarget targetOf
  rw [BitVec.signExtend, BitVec.ofInt_mul]
  rfl

/-! ### Splits (02 R39, R42) -/

theorem mem_insertBy {α : Type} (key : α → Nat) (x y : α) (l : List α) :
    y ∈ insertBy key x l ↔ y = x ∨ y ∈ l := by
  induction l with
  | nil => simp [insertBy]
  | cons z l ih =>
    rw [insertBy]
    split
    · simp
    · simp only [List.mem_cons, ih, or_left_comm]

theorem length_insertBy {α : Type} (key : α → Nat) (x : α) (l : List α) : (insertBy key x l).length = l.length + 1 := by
  induction l with
  | nil => rfl
  | cons z l ih =>
    rw [insertBy]
    split
    · rfl
    · rw [List.length_cons, ih, List.length_cons]

/-- A split leaves the fragment ready, and the requests as they are. -/
theorem split_requests (ws : List Word) (tm fm : Mask) (target reconv fall : BitVec 52) (fallWidx : Nat) (aux : BitVec 8)
    (s : State) (t : State) (ht : t = split ws tm fm target reconv fall fallWidx aux s) :
    t.me.cur.wait = .ready ∧ t.me.requested = s.me.requested ∧ t.me.timeSlice = s.me.timeSlice := by
  unfold split at ht
  dsimp only at ht
  split at ht
  all_goals
    subst ht
    exact ⟨rfl, rfl, rfl⟩

/-- A split, with the two children in the split table or with a serial record. -/
theorem splitTo_effect (ws : List Word) (tm fm : Mask) (target reconv fall : BitVec 52) (fallWidx : Nat) (aux : BitVec 8)
    (s : State) : Splits tm fm target reconv fall fallWidx s (splitTo ws tm fm target reconv fall fallWidx aux s) := by
  obtain ⟨hready, hreq, hslice⟩ := split_requests ws tm fm target reconv fall fallWidx aux s _ rfl
  obtain ⟨w, slot, slice, heq, hyield⟩ :=
    yieldPoint_if (decide (target.toNat < s.me.cur.wordAddr.toNat)) s _ hready hreq hslice
  simp only [decide_eq_true_eq] at heq
  have hto : splitTo ws tm fm target reconv fall fallWidx aux s = _ := heq
  rw [hto]
  by_cases hroom : entriesUsed s s.me.place + 2 ≤ 64
  · have hsplit : split ws tm fm target reconv fall fallWidx aux s = _ := if_pos hroom
    rw [hsplit] at hyield ⊢
    have hmem := fun (x y z : Fragment) (l : List Fragment) =>
      (mem_insertBy (fun f => f.id) x z (insertBy (fun f => f.id) y l)).trans (or_congr_right (mem_insertBy _ y z l))
    exact ⟨rfl, ⟨rfl, rfl, rfl⟩, hyield, fun _ => ⟨rfl, rfl, rfl, rfl, rfl,
      fun g hg => (hmem _ _ g _).mpr (.inr (.inr hg)),
      (length_insertBy _ _ _).trans (congrArg (· + 1) (length_insertBy _ _ _)),
      ⟨_, (hmem _ _ _ _).mpr (.inl rfl), rfl, rfl, rfl, rfl, rfl, rfl⟩,
      ⟨_, (hmem _ _ _ _).mpr (.inr (.inl rfl)), rfl, rfl, rfl, rfl⟩⟩, fun h => absurd hroom h⟩
  · have hsplit : split ws tm fm target reconv fall fallWidx aux s = _ := if_neg hroom
    rw [hsplit] at hyield ⊢
    exact ⟨rfl, ⟨rfl, rfl, rfl⟩, hyield, fun h => absurd h hroom,
      fun _ => ⟨rfl, rfl, rfl, rfl, rfl, _, rfl, rfl, rfl, rfl, rfl, rfl, rfl⟩⟩

/-! ### The branches -/

theorem branchMask_ne_zero (s : State) (p : PredNo) (ng : Bool) (h : ∃ th, activeIn s th = true ∧ condIn s p ng th = true) :
    branchMask s p ng ≠ 0 := by
  obtain ⟨th, hact, hcond⟩ := h
  intro h0
  exact Bool.noConfusion (((branchMask_eq_zero_iff s p ng).mp h0 th hact).symm.trans hcond)

theorem exists_not_taken_iff (s : State) (p : PredNo) (ng : Bool) :
    (∃ th, activeIn s th = true ∧ condIn s p ng th = false) ↔
      ¬ ∀ th, activeIn s th = true → condIn s p ng th = true := by
  constructor
  · rintro ⟨th, hact, hfalse⟩ hall
    rw [hall th hact] at hfalse
    cases hfalse
  · intro h
    refine Classical.byContradiction fun hnone => h fun th hact => Bool.of_not_eq_false fun hfalse => ?_
    exact hnone ⟨th, hact, hfalse⟩

theorem exec_br (p : PredNo) (ng : Bool) (tgt : BitVec 14) (s : State)
    (h : transfers (plainNeed (.br p ng tgt) [] []) s = true) :
    exec (.br p ng tgt) s = .next (if branchMask s p ng = 0 then notTaken (plainNeed (.br p ng tgt) [] []) s
      else jump (encodeWords (.br p ng tgt)) (branchTarget s tgt) s) :=
  congrArg Host.Outcome.next (transferOp_transfers _ s _ h)

theorem exec_brAll (p : PredNo) (ng : Bool) (tgt : BitVec 14) (s : State)
    (h : transfers (plainNeed (.brAll p ng tgt) [] []) s = true) :
    exec (.brAll p ng tgt) s = .next (if branchMask s p ng = s.me.cur.mask then
        jump (encodeWords (.brAll p ng tgt)) (branchTarget s tgt) s
      else notTaken (plainNeed (.brAll p ng tgt) [] []) s) :=
  congrArg Host.Outcome.next (transferOp_transfers _ s _ h)

theorem exec_brd (p : PredNo) (ng : Bool) (tgt : BitVec 14) (aux : BitVec 8) (s : State)
    (h : transfers (plainNeed (.brd p ng tgt aux) [] []) s = true) :
    exec (.brd p ng tgt aux) s = .next (
      if branchMask s p ng = 0 then notTaken (plainNeed (.brd p ng tgt aux) [] []) s
      else if s.me.cur.mask &&& ~~~branchMask s p ng = 0 then
        jump (encodeWords (.brd p ng tgt aux)) (branchTarget s tgt) s
      else splitTo (encodeWords (.brd p ng tgt aux)) (branchMask s p ng) (s.me.cur.mask &&& ~~~branchMask s p ng)
        (branchTarget s tgt) (s.me.cur.wordAddr + 4 * aux.setWidth 52) s.me.cur.nextHeader 0 aux s) :=
  congrArg Host.Outcome.next (transferOp_transfers _ s _ h)

/-- The address that a `brd` names for reconvergence, in bytes. -/
theorem reconv_eq_ofNat (aux : BitVec 8) : 4 * aux.setWidth 52 = BitVec.ofNat 52 (4 * aux.toNat) := by
  bv_omega

/-- Settles O16: each branch goes by the threads of its mask whose condition holds. -/
theorem branches : Obligations.Branches := by
  refine ⟨fun p ng tgt s h => ⟨_, exec_br p ng tgt s h, fun hsome => ?brTaken, fun hnone => ?brNot⟩,
    fun p ng tgt s h => ⟨_, exec_brAll p ng tgt s h, fun hall => ?brAllTaken, fun hnot => ?brAllNot⟩,
    fun p ng tgt aux s h => ⟨_, exec_brd p ng tgt aux s h, fun hnone => ?brdNot, fun hall => ?brdTaken,
      fun hnot hsome => ?brdSplits⟩⟩
  case brTaken =>
    rw [if_neg (branchMask_ne_zero s p ng hsome), branchTarget_eq_targetOf]
    exact jump_effect _ _ s
  case brNot =>
    rw [if_pos ((branchMask_eq_zero_iff s p ng).mpr hnone)]
    exact notTaken_effect _ s
  case brAllTaken =>
    rw [if_pos ((branchMask_eq_mask_iff s p ng).mpr hall), branchTarget_eq_targetOf]
    exact jump_effect _ _ s
  case brAllNot =>
    rw [if_neg (mt (branchMask_eq_mask_iff s p ng).mp ((exists_not_taken_iff s p ng).mp hnot))]
    exact notTaken_effect _ s
  case brdNot =>
    rw [if_pos ((branchMask_eq_zero_iff s p ng).mpr hnone)]
    exact notTaken_effect _ s
  case brdTaken =>
    have hactive := executes_active _ s (Bool.and_eq_true_iff.mp h).1
    have hne : branchMask s p ng ≠ 0 := by rwa [(branchMask_eq_mask_iff s p ng).mpr hall]
    rw [if_neg hne, if_pos ((fallMask_eq_zero_iff s p ng).mpr hall), branchTarget_eq_targetOf]
    exact jump_effect _ _ s
  case brdSplits =>
    rw [if_neg (branchMask_ne_zero s p ng hsome),
      if_neg (mt (fallMask_eq_zero_iff s p ng).mp ((exists_not_taken_iff s p ng).mp hnot)),
      ← branchMask_eq_maskOf, ← fallMask_eq_maskOf, branchTarget_eq_targetOf, reconv_eq_ofNat]
    exact splitTo_effect _ _ _ _ _ _ _ _ s

/-! ### Exact fractions of powers of two -/

theorem pow2_pos (k : Int) : 0 < (pow2 k).1 ∧ 0 < (pow2 k).2 := by
  unfold pow2
  split
  · exact ⟨Nat.two_pow_pos _, Nat.one_pos⟩
  · exact ⟨Nat.one_pos, Nat.two_pow_pos _⟩

/-- `pow2 k` is the fraction of any two powers of two whose exponents differ by `k`. -/
theorem pow2_cross (k : Int) (a b : Nat) (h : (a : Int) + k = b) : (pow2 k).1 * 2 ^ a = (pow2 k).2 * 2 ^ b := by
  unfold pow2
  split
  · rw [Nat.one_mul, ← Nat.pow_add, show k.toNat + a = b by omega]
  · rw [Nat.one_mul, ← Nat.pow_add, show (-k).toNat + b = a by omega]

/-- 2^(b − a) ≤ n / d for every exponent up to the greatest one. -/
theorem le_of_le_floorLog2 (n d a b : Nat) (hn : 0 < n) (h : (b : Int) ≤ floorLog2 n d + a) :
    2 ^ b * d ≤ n * 2 ^ a := by
  have hn1 := Nat.log2_self_le (Nat.ne_of_gt hn)
  have hd2 := Nat.lt_log2_self (n := d)
  unfold floorLog2 at h
  dsimp only at h
  split at h
  · rename_i hle
    obtain ⟨c, hc⟩ : ∃ c : Nat, (a : Int) + ((Nat.log2 n : Int) - Nat.log2 d) = (b + c : Nat) :=
      ⟨(a + ((Nat.log2 n : Int) - Nat.log2 d) - b).toNat, by omega⟩
    have hcross := pow2_cross _ a (b + c) hc
    refine Nat.le_trans (Nat.mul_le_mul_right d (Nat.pow_le_pow_right Nat.two_pos (Nat.le_add_right b c))) ?_
    refine Nat.le_of_mul_le_mul_left ?_ (pow2_pos ((Nat.log2 n : Int) - Nat.log2 d)).2
    calc _ = (pow2 ((Nat.log2 n : Int) - Nat.log2 d)).1 * d * 2 ^ a := by rw [← Nat.mul_assoc, ← hcross]; grind
      _ ≤ n * (pow2 ((Nat.log2 n : Int) - Nat.log2 d)).2 * 2 ^ a := Nat.mul_le_mul_right _ hle
      _ = _ := by grind
  · calc 2 ^ b * d ≤ 2 ^ b * 2 ^ (Nat.log2 d + 1) := Nat.mul_le_mul_left _ (Nat.le_of_lt hd2)
      _ = 2 ^ (b + (Nat.log2 d + 1)) := (Nat.pow_add _ _ _).symm
      _ ≤ 2 ^ (Nat.log2 n + a) := Nat.pow_le_pow_right Nat.two_pos (by omega)
      _ = 2 ^ Nat.log2 n * 2 ^ a := Nat.pow_add _ _ _
      _ ≤ n * 2 ^ a := Nat.mul_le_mul_right _ hn1

/-- n / d < 2^(b − a) for every exponent above the greatest one. -/
theorem lt_of_floorLog2_lt (n d a b : Nat) (hd : 0 < d) (h : floorLog2 n d + a < b) :
    n * 2 ^ a < 2 ^ b * d := by
  have hd1 := Nat.log2_self_le (Nat.ne_of_gt hd)
  have hn2 := Nat.lt_log2_self (n := n)
  unfold floorLog2 at h
  dsimp only at h
  split at h
  · calc n * 2 ^ a < 2 ^ (Nat.log2 n + 1) * 2 ^ a := Nat.mul_lt_mul_of_pos_right hn2 (Nat.two_pow_pos a)
      _ = 2 ^ (Nat.log2 n + 1 + a) := (Nat.pow_add _ _ _).symm
      _ ≤ 2 ^ (b + Nat.log2 d) := Nat.pow_le_pow_right Nat.two_pos (by omega)
      _ = 2 ^ b * 2 ^ Nat.log2 d := Nat.pow_add _ _ _
      _ ≤ 2 ^ b * d := Nat.mul_le_mul_left _ hd1
  · rename_i hlt
    obtain ⟨c, hc⟩ : ∃ c : Nat, ((a + c : Nat) : Int) + ((Nat.log2 n : Int) - Nat.log2 d) = b :=
      ⟨(b - a - ((Nat.log2 n : Int) - Nat.log2 d)).toNat, by omega⟩
    have hcross := pow2_cross _ (a + c) b hc
    refine Nat.lt_of_le_of_lt (Nat.mul_le_mul_left n (Nat.pow_le_pow_right Nat.two_pos (Nat.le_add_right a c))) ?_
    refine Nat.lt_of_mul_lt_mul_left (a := (pow2 ((Nat.log2 n : Int) - Nat.log2 d)).2) ?_
    calc _ = n * (pow2 ((Nat.log2 n : Int) - Nat.log2 d)).2 * 2 ^ (a + c) := by grind
      _ < (pow2 ((Nat.log2 n : Int) - Nat.log2 d)).1 * d * 2 ^ (a + c) :=
        Nat.mul_lt_mul_of_pos_right (Nat.not_le.mp hlt) (Nat.two_pow_pos _)
      _ = _ := by rw [← Nat.mul_assoc, ← hcross]; grind

/-! ### The side on which an exact value lies -/

theorem compare_mul_right (a b c : Nat) (hc : 0 < c) : compare (a * c) (b * c) = compare a b := by
  rcases Nat.lt_trichotomy a b with h | rfl | h
  · rw [Nat.compare_eq_lt.mpr h, Nat.compare_eq_lt]
    exact Nat.mul_lt_mul_of_pos_right h hc
  · rw [Nat.compare_eq_eq.mpr rfl, Nat.compare_eq_eq.mpr rfl]
  · rw [Nat.compare_eq_gt.mpr h, Nat.compare_eq_gt]
    exact Nat.mul_lt_mul_of_pos_right h hc

/-- Equal fractions lie on the same sides. -/
theorem sideOf_eq_of_cross {n d n' d' : Nat} (hd : 0 < d) (hd' : 0 < d') (h : n * d' = n' * d) : sideOf n d = sideOf n' d' := by
  funext k
  unfold sideOf
  rw [← compare_mul_right _ _ d' hd', ← compare_mul_right (2 * n') _ d hd, Nat.mul_assoc 2, h, ← Nat.mul_assoc 2,
    Nat.mul_right_comm k]

/-- The sides of a fraction of which one unit is `c` units of another. -/
theorem sideOf_mul (n d c k : Nat) : sideOf n (c * d) k = sideOf n d (k * c) := by
  unfold sideOf
  rw [Nat.mul_assoc]

/-- A value that does not lie below a point lies above every lower one. -/
def Falling (side : Nat → Ordering) : Prop := ∀ j k, j < k → side k ≠ .lt → side j = .gt

theorem falling_sideOf (n d : Nat) (hd : 0 < d) : Falling (sideOf n d) := by
  intro j k hjk hk
  unfold sideOf at hk ⊢
  rw [Nat.compare_eq_gt]
  rw [Ne, Nat.compare_eq_lt, Nat.not_lt] at hk
  exact Nat.lt_of_lt_of_le (Nat.mul_lt_mul_of_pos_right hjk hd) hk

theorem falling_square (x : Nat) : Falling (fun k => compare x (k * k)) := by
  intro j k hjk hk
  simp only at hk ⊢
  rw [Nat.compare_eq_gt]
  rw [Ne, Nat.compare_eq_lt, Nat.not_lt] at hk
  exact Nat.lt_of_lt_of_le (Nat.mul_self_lt_mul_self hjk) hk

theorem Falling.lt_of_le {side : Nat → Ordering} (h : Falling side) {j k : Nat} (hjk : j ≤ k) (hj : side j = .lt) :
    side k = .lt := by
  rcases Nat.eq_or_lt_of_le hjk with rfl | hlt
  · exact hj
  · refine Decidable.byContradiction fun hk => ?_
    rw [h j k hlt hk] at hj
    cases hj

theorem Falling.ne_lt_of_le {side : Nat → Ordering} (h : Falling side) {j k : Nat} (hjk : j ≤ k) (hk : side k ≠ .lt) :
    side j ≠ .lt := fun hj => hk (h.lt_of_le hjk hj)

/-! ### The places of a binary format (05 R113) -/

/-- What 05 R113 says of the formats with Inf: above the largest finite exponent and fraction the next pattern is Inf. -/
structure IsIeee (f : BinFmt) : Prop where
  ieee : f.ieee = true
  topE : f.topE + 2 = 2 ^ f.eb
  topF : f.topF + 1 = 2 ^ f.m
  fraction : 1 ≤ f.m
  finite : 1 ≤ f.topE
  bias : 1 ≤ f.bias

theorem fF32_isIeee : IsIeee fF32 := by constructor <;> decide

theorem IsIeee.pastFinite_eq {f : BinFmt} (hf : IsIeee f) : pastFinite f = (f.topE + 1) * 2 ^ f.m := by
  have := hf.topF
  rw [pastFinite, Nat.add_mul, Nat.one_mul]
  omega

theorem IsIeee.infinite_eq {f : BinFmt} (hf : IsIeee f) : (2 ^ f.eb - 1) * 2 ^ f.m = pastFinite f := by
  have := hf.topE
  rw [hf.pastFinite_eq, show 2 ^ f.eb - 1 = f.topE + 1 by omega]

/-- Every magnitude is `q` units of its exponent's step 2^t, and `q` has the leading bit unless the exponent is the lowest. -/
theorem exists_place (f : BinFmt) (p : Nat) :
    ∃ t q, p = t * 2 ^ f.m + q ∧ q < 2 ^ (f.m + 1) ∧ (t = 0 ∨ 2 ^ f.m ≤ q) := by
  have hpos := Nat.two_pow_pos f.m
  have hs := Nat.pow_succ' (n := f.m) (m := 2)
  by_cases h : p < 2 ^ f.m
  · exact ⟨0, p, by omega, by omega, .inl rfl⟩
  · have hdiv : 1 ≤ p / 2 ^ f.m := (Nat.one_le_div_iff hpos).mpr (by omega)
    obtain ⟨t, ht⟩ := Nat.exists_eq_add_of_le' hdiv
    have hp := Nat.div_add_mod' p (2 ^ f.m)
    have hr := Nat.mod_lt p hpos
    rw [ht, Nat.add_mul, Nat.one_mul] at hp
    exact ⟨t, 2 ^ f.m + p % 2 ^ f.m, by omega, by omega, .inr (by omega)⟩

theorem units_place (f : BinFmt) (t q : Nat) (hq : q ≤ 2 ^ (f.m + 1)) (ht : t = 0 ∨ 2 ^ f.m ≤ q) :
    units f (t * 2 ^ f.m + q) = q * 2 ^ t := by
  have hpos := Nat.two_pow_pos f.m
  have hs := Nat.pow_succ' (n := f.m) (m := 2)
  unfold units
  rw [Nat.add_comm (t * 2 ^ f.m), Nat.add_mul_div_right _ _ hpos, Nat.add_mul_mod_self_right]
  rcases Nat.lt_or_ge q (2 ^ f.m) with hlt | hge
  · obtain rfl : t = 0 := by omega
    rw [if_pos (by rw [Nat.div_eq_of_lt hlt])]
    simp
  · rcases Nat.eq_or_lt_of_le hq with heq | hlt
    · have h2 : q / 2 ^ f.m = 2 := by rw [heq, hs, Nat.mul_div_cancel _ hpos]
      rw [h2, if_neg (by omega), heq, hs, Nat.mul_mod_left, show 2 + t - 1 = t + 1 by omega, Nat.pow_succ]
      grind
    · have h1 : q / 2 ^ f.m = 1 := by rw [Nat.div_eq_iff hpos]; omega
      have hmod : q % 2 ^ f.m = q - 2 ^ f.m := by
        have := Nat.div_add_mod' q (2 ^ f.m)
        rw [h1] at this
        omega
      rw [h1, if_neg (by omega), hmod, show 1 + t - 1 = t by omega, show 2 ^ f.m + (q - 2 ^ f.m) = q by omega]

theorem units_lt_succ (f : BinFmt) (p : Nat) : units f p < units f (p + 1) := by
  obtain ⟨t, q, rfl, hq, ht⟩ := exists_place f p
  rw [Nat.add_assoc, units_place f t q (Nat.le_of_lt hq) ht, units_place f t (q + 1) hq (by omega)]
  exact Nat.mul_lt_mul_of_pos_right (Nat.lt_succ_self q) (Nat.two_pow_pos t)

theorem units_lt_units (f : BinFmt) {p p' : Nat} (h : p < p') : units f p < units f p' := by
  induction h with
  | refl => exact units_lt_succ f p
  | step _ ih => exact Nat.lt_trans ih (units_lt_succ f _)

theorem units_le_units (f : BinFmt) {p p' : Nat} (h : p ≤ p') : units f p ≤ units f p' := by
  rcases Nat.eq_or_lt_of_le h with rfl | hlt
  · exact Nat.le_refl _
  · exact Nat.le_of_lt (units_lt_units f hlt)

theorem IsIeee.two_mul_le_pastFinite {f : BinFmt} (hf : IsIeee f) : 2 * 2 ^ f.m ≤ pastFinite f := by
  have := hf.finite
  rw [hf.pastFinite_eq]
  exact Nat.mul_le_mul_right _ (by omega)

/-- Whether a rounding goes up: from the mode, the sign, whether it is exact, whether the magnitude below is odd, and on which
side of the middle the value lies (05 R125). -/
def roundsUp (rm : RMode) (neg exact odd : Bool) (middle : Ordering) : Bool :=
  match rm with
  | .ne => middle == .gt || (middle == .eq && odd)
  | .z => false
  | .dn => neg && !exact
  | .up => !neg && !exact

theorem rounds_iff (f : BinFmt) (rm : RMode) (neg : Bool) (side : Nat → Ordering) (r : Nat) (fl : FlagSet) :
    Rounds f rm neg side r fl ↔
      ∃ p, p < pastFinite f ∧ side (2 * units f p) ≠ .lt ∧
        (p + 1 = pastFinite f ∨ side (2 * units f (p + 1)) = .lt) ∧
        let exact := side (2 * units f p) == .eq
        let q := if roundsUp rm neg exact (p % 2 == 1) (side (units f p + units f (p + 1))) then p + 1 else p
        r = signed f neg q ∧
          fl = {
            ovf := q == pastFinite f || side (2 * units f (pastFinite f)) != .lt
            uf := !exact && decide (q < 2 ^ f.m)
            nx := !exact } := by
  cases rm <;> exact Iff.rfl

/-- An overflow goes to Inf where a value far above is rounded up, else to the largest finite magnitude (05 R125). -/
theorem overflowTo_eq {f : BinFmt} (hf : IsIeee f) (rm : RMode) (neg odd : Bool) :
    overflowTo f rm neg = signed f neg (if roundsUp rm neg false odd .gt then pastFinite f else pastFinite f - 1) := by
  have hbig : f.topE * 2 ^ f.m + f.topF = pastFinite f - 1 := rfl
  have hinf := hf.infinite_eq
  unfold overflowTo signed signBit
  rw [hbig, hinf]
  cases rm <;> cases neg <;> rfl

/-- What is rounded up at all is rounded up far above. -/
theorem roundsUp_far {rm : RMode} {neg exact odd : Bool} {middle : Ordering} (h : roundsUp rm neg exact odd middle = true) :
    roundsUp rm neg false odd .gt = true := by
  cases rm
  case ne => rfl
  case z => exact h
  case dn => simp_all [roundsUp]
  case up => simp_all [roundsUp]

/-- The rounding of a value at or above Inf's place. -/
theorem rounds_beyond {f : BinFmt} (hf : IsIeee f) (rm : RMode) (neg : Bool) {side : Nat → Ordering} (hfall : Falling side)
    (hpast : side (2 * units f (pastFinite f)) ≠ .lt) :
    Rounds f rm neg side (overflowTo f rm neg) { ovf := true, nx := true } := by
  have htwo := hf.two_mul_le_pastFinite
  have hpos := Nat.two_pow_pos f.m
  have hsucc : pastFinite f - 1 + 1 = pastFinite f := by omega
  have hlt := units_lt_units f (show pastFinite f - 1 < pastFinite f by omega)
  have hbelow : side (2 * units f (pastFinite f - 1)) = .gt := hfall _ _ (by omega) hpast
  have hmiddle : side (units f (pastFinite f - 1) + units f (pastFinite f)) = .gt := hfall _ _ (by omega) hpast
  rw [rounds_iff]
  refine ⟨pastFinite f - 1, by omega, by rw [hbelow]; decide, .inl hsucc, ?_, ?_⟩
  · rw [hsucc, hbelow, hmiddle]
    exact overflowTo_eq hf rm neg _
  · rw [hsucc, hbelow, hmiddle]
    have hq : ¬ (if roundsUp rm neg (Ordering.gt == .eq) ((pastFinite f - 1) % 2 == 1) .gt then pastFinite f
        else pastFinite f - 1) < 2 ^ f.m := by split <;> omega
    have hover : (side (2 * units f (pastFinite f)) != .lt) = true := by simpa using hpast
    rw [decide_eq_false hq, hover, Bool.or_true]
    rfl

/-- What is rounded up in the place of its value is not exact. -/
theorem exact_false_of_roundsUp {rm : RMode} {neg exact odd : Bool} {middle : Ordering}
    (h : roundsUp rm neg exact odd middle = true) (hmiddle : exact = true → middle = .lt) : exact = false := by
  cases exact
  case false => rfl
  case true =>
    rw [hmiddle rfl] at h
    cases rm <;> simp [roundsUp] at h

/-- The rounding of a value in a place of a format: `q` of its steps lie at or below the value, `q + 1` above it. -/
theorem rounds_place {f : BinFmt} (hf : IsIeee f) (rm : RMode) (neg : Bool) {side : Nat → Ordering} (hfall : Falling side)
    (t q : Nat) (hq : q < 2 ^ (f.m + 1)) (ht : t = 0 ∨ 2 ^ f.m ≤ q) (hlow : side (2 * (q * 2 ^ t)) ≠ .lt)
    (hhigh : side (2 * ((q + 1) * 2 ^ t)) = .lt) (exact : Bool) (hexact : exact = (side (2 * (q * 2 ^ t)) == .eq))
    (p : Nat) (hp : p = t * 2 ^ f.m +
      if roundsUp rm neg exact (q % 2 == 1) (side ((2 * q + 1) * 2 ^ t)) then q + 1 else q) :
    Rounds f rm neg side (if pastFinite f ≤ p then overflowTo f rm neg else signed f neg p)
      (if pastFinite f ≤ p then { ovf := true, nx := true } else { nx := !exact, uf := !exact && decide (p < 2 ^ f.m) }) := by
  have hunits := units_place f t q (Nat.le_of_lt hq) ht
  have hunits' := units_place f t (q + 1) hq (by omega)
  rcases Nat.lt_or_ge (t * 2 ^ f.m + q) (pastFinite f) with hin | hout
  · have htwo := hf.two_mul_le_pastFinite
    have hpos := Nat.two_pow_pos f.m
    have hodd : (t * 2 ^ f.m + q) % 2 = q % 2 := by
      obtain ⟨m, hm⟩ := Nat.exists_eq_add_of_le' hf.fraction
      rw [hm, Nat.pow_succ', Nat.mul_left_comm, Nat.mul_add_mod]
    have hmiddle : q * 2 ^ t + (q + 1) * 2 ^ t = (2 * q + 1) * 2 ^ t := by grind
    have hover : side (2 * units f (pastFinite f)) = .lt := by
      refine hfall.lt_of_le (Nat.mul_le_mul_left 2 ?_) hhigh
      rw [← hunits']
      exact units_le_units f (by omega)
    rw [rounds_iff]
    refine ⟨t * 2 ^ f.m + q, hin, by rwa [hunits], .inr (by rwa [Nat.add_assoc, hunits']), ?_⟩
    simp only [hunits, Nat.add_assoc, hunits', hmiddle, ← hexact, hover, hodd, ← apply_ite (t * 2 ^ f.m + ·), ← hp]
    rcases Nat.lt_or_ge p (pastFinite f) with hlt | hge
    · have hne : (p == pastFinite f) = false := by simpa using Nat.ne_of_lt hlt
      rw [if_neg (by omega), if_neg (by omega), hne]
      exact ⟨rfl, rfl⟩
    · have hup : roundsUp rm neg exact (q % 2 == 1) (side ((2 * q + 1) * 2 ^ t)) = true := by
        refine Decidable.byContradiction fun h => ?_
        rw [if_neg h] at hp
        omega
      have hpast : p = pastFinite f := by rw [if_pos hup] at hp; omega
      have hinexact : exact = false := exact_false_of_roundsUp hup fun he => by
        refine Decidable.byContradiction fun h => ?_
        have heq : side (2 * (q * 2 ^ t)) = .eq := by rw [he] at hexact; exact eq_of_beq hexact.symm
        have hgt := hfall (2 * (q * 2 ^ t)) ((2 * q + 1) * 2 ^ t) (by
          rw [← Nat.mul_assoc]
          exact Nat.mul_lt_mul_of_pos_right (Nat.lt_succ_self _) (Nat.two_pow_pos t)) h
        rw [heq] at hgt
        cases hgt
      have hnormal : ¬ p < 2 ^ f.m := by omega
      rw [if_pos hge, if_pos hge, overflowTo_eq hf rm neg _, if_pos (roundsUp_far hup), hinexact, hpast]
      refine ⟨rfl, ?_⟩
      rw [decide_eq_false (hpast ▸ hnormal), beq_self_eq_true]
      rfl
  · have hpast : side (2 * units f (pastFinite f)) ≠ .lt := by
      refine hfall.ne_lt_of_le (Nat.mul_le_mul_left 2 ?_) hlow
      rw [← hunits]
      exact units_le_units f hout
    have hple : pastFinite f ≤ p := by rw [hp]; split <;> omega
    rw [if_pos hple, if_pos hple]
    exact rounds_beyond hf rm neg hfall hpast

/-! ### The rounding of the model (05 R125) -/

theorem mul_eq_zero_iff_of_pos {a c : Nat} (hc : 0 < c) : a * c = 0 ↔ a = 0 := by
  rw [Nat.mul_eq_zero, or_iff_left (Nat.ne_of_gt hc)]

theorem roundMag_mul (rm : RMode) (neg : Bool) (n d c : Nat) (hc : 0 < c) :
    roundMag rm neg (n * c) (d * c) = roundMag rm neg n d := by
  have hq : n * c / (d * c) = n / d := Nat.mul_div_mul_right n d hc
  have hr : n * c % (d * c) = n % d * c := Nat.mul_mod_mul_right c n d
  have hlt : (d * c < 2 * (n % d * c)) = (d < 2 * (n % d)) := by
    rw [← Nat.mul_assoc, Nat.mul_lt_mul_right hc]
  have heq : (2 * (n % d * c) == d * c) = (2 * (n % d) == d) := by
    rw [← Nat.mul_assoc]
    exact Bool.eq_iff_iff.mpr (by rw [beq_iff_eq, beq_iff_eq, Nat.mul_left_inj (Nat.ne_of_gt hc)])
  have hz : (n % d * c != 0) = (n % d != 0) :=
    Bool.eq_iff_iff.mpr (by rw [bne_iff_ne, bne_iff_ne, Ne, Ne, mul_eq_zero_iff_of_pos hc])
  simp only [roundMag, hq, hr, hlt, heq, hz]

/-- The rounding to an integer depends on the fraction alone. -/
theorem roundMag_eq_of_cross (rm : RMode) (neg : Bool) {n d n' d' : Nat} (hd : 0 < d) (hd' : 0 < d') (h : n * d' = n' * d) :
    roundMag rm neg n d = roundMag rm neg n' d' := by
  rw [← roundMag_mul rm neg n d d' hd', ← roundMag_mul rm neg n' d' d hd, h, Nat.mul_comm d d']

/-- The rounding to an integer, by the sides of the integer below and of the middle. -/
theorem roundMag_eq_roundsUp (rm : RMode) (neg : Bool) (n d : Nat) :
    roundMag rm neg n d = (if roundsUp rm neg (sideOf n d (2 * (n / d)) == .eq) (n / d % 2 == 1) (sideOf n d (2 * (n / d) + 1))
      then n / d + 1 else n / d, !(sideOf n d (2 * (n / d)) == .eq)) := by
  have hn : n / d * d + n % d = n := Nat.div_add_mod' n d
  have hbelow : (sideOf n d (2 * (n / d)) == .eq) = (n % d == 0) := by
    refine Bool.eq_iff_iff.mpr ?_
    rw [beq_iff_eq, beq_iff_eq, sideOf, Nat.compare_eq_eq, Nat.mul_assoc]
    omega
  have hgt : (sideOf n d (2 * (n / d) + 1) == .gt) = decide (d < 2 * (n % d)) := by
    refine Bool.eq_iff_iff.mpr ?_
    rw [beq_iff_eq, decide_eq_true_iff, sideOf, Nat.compare_eq_gt, Nat.add_mul, Nat.one_mul, Nat.mul_assoc]
    omega
  have heq : (sideOf n d (2 * (n / d) + 1) == .eq) = (2 * (n % d) == d) := by
    refine Bool.eq_iff_iff.mpr ?_
    rw [beq_iff_eq, beq_iff_eq, sideOf, Nat.compare_eq_eq, Nat.add_mul, Nat.one_mul, Nat.mul_assoc]
    omega
  cases rm <;> simp only [roundMag, roundsUp, hbelow, hgt, heq] <;> rfl

/-- The pattern and the flags that `roundBin` makes of a rounded magnitude `q` in steps of 2^(e − M), inexact or not. -/
def packed (f : BinFmt) (rm : RMode) (neg : Bool) (e : Int) (q : Nat) (inx : Bool) : Nat × FlagSet :=
  let (q, e) := if q = 2 ^ (f.m + 1) then (2 ^ f.m, e + 1) else (q, e)
  let ef : Int := if q < 2 ^ f.m then 0 else e + f.bias
  if (f.topE : Int) < ef then (overflowTo f rm neg, { ovf := true, nx := true })
  else (signBit f neg + ef.toNat * 2 ^ f.m + q % 2 ^ f.m, { nx := inx, uf := inx && ef == 0 })

theorem roundBin_eq_packed (f : BinFmt) (rm : RMode) (neg : Bool) (n d : Nat) (hn : n ≠ 0) :
    roundBin f rm neg n d =
      let e := max (floorLog2 n d) (1 - (f.bias : Int))
      let r := roundMag rm neg (n * (pow2 (e - f.m)).2) (d * (pow2 (e - f.m)).1)
      packed f rm neg e r.1 r.2 := if_neg hn

/-- A pattern by its exponent field `e` and its fraction: whether it lies past the finite ones, and whether it is subnormal. -/
theorem pattern_iff {f : BinFmt} (hf : IsIeee f) (e frac : Nat) (hfrac : frac < 2 ^ f.m) :
    (pastFinite f ≤ e * 2 ^ f.m + frac ↔ f.topE < e) ∧ (e * 2 ^ f.m + frac < 2 ^ f.m ↔ e = 0) := by
  rw [hf.pastFinite_eq]
  constructor
  · rcases Nat.lt_or_ge f.topE e with h | h
    · have : (f.topE + 1) * 2 ^ f.m ≤ e * 2 ^ f.m := Nat.mul_le_mul_right (2 ^ f.m) h
      simp only [h, iff_true]
      omega
    · have := Nat.mul_le_mul_right (2 ^ f.m) h
      rw [Nat.add_mul, Nat.one_mul]
      omega
  · rcases Nat.eq_zero_or_pos e with rfl | h
    · simpa using hfrac
    · have := Nat.mul_le_mul_right (2 ^ f.m) h
      omega

/-- A magnitude `q` in the step of place `t` has an exponent field and a fraction, and `packed` puts them together. -/
theorem packed_fields (f : BinFmt) (rm : RMode) (neg : Bool) (t q : Nat) (inx : Bool) (hq : q ≤ 2 ^ (f.m + 1))
    (ht : t = 0 ∨ 2 ^ f.m ≤ q) : ∃ e frac, t * 2 ^ f.m + q = e * 2 ^ f.m + frac ∧ frac < 2 ^ f.m ∧
      packed f rm neg (t + (1 - (f.bias : Int))) q inx =
        if f.topE < e then (overflowTo f rm neg, { ovf := true, nx := true })
        else (signed f neg (e * 2 ^ f.m + frac), { nx := inx, uf := inx && decide (e = 0) }) := by
  have hpos := Nat.two_pow_pos f.m
  have hs := Nat.pow_succ' (n := f.m) (m := 2)
  have hsigned : ∀ e frac, signBit f neg + e * 2 ^ f.m + frac = signed f neg (e * 2 ^ f.m + frac) := fun e frac =>
    Nat.add_assoc _ _ _
  rcases Nat.lt_or_ge q (2 ^ f.m) with hlow | hnormal
  · obtain rfl : t = 0 := by omega
    refine ⟨0, q, rfl, hlow, ?_⟩
    simp only [packed, if_neg (show ¬ q = 2 ^ (f.m + 1) by omega), if_pos hlow, Nat.mod_eq_of_lt hlow, ← hsigned]
    rw [if_neg (by omega), if_neg (by omega)]
    rfl
  · have hfields : ∀ e : Nat, e ≠ 0 → ((e : Int).toNat = e ∧ ((e : Int) == 0) = decide (e = 0)) := fun e he =>
      ⟨Int.toNat_natCast e, by simp [he]⟩
    rcases Nat.eq_or_lt_of_le hq with htop | hin
    · refine ⟨t + 2, 0, by rw [htop, hs]; grind, hpos, ?_⟩
      have he : (t : Int) + (1 - f.bias) + 1 + f.bias = (t + 2 : Nat) := by push_cast; grind
      obtain ⟨h1, h2⟩ := hfields (t + 2) (by omega)
      simp only [packed, if_pos htop, Nat.lt_irrefl, if_false, he, Nat.mod_self, ← hsigned, h1, h2, Int.ofNat_lt]
    · refine ⟨t + 1, q - 2 ^ f.m, by rw [Nat.add_mul, Nat.one_mul]; omega, by omega, ?_⟩
      have he : (t : Int) + (1 - f.bias) + f.bias = (t + 1 : Nat) := by push_cast; grind
      have hmod : q % 2 ^ f.m = q - 2 ^ f.m := by rw [Nat.mod_eq_sub_mod hnormal, Nat.mod_eq_of_lt (by omega)]
      obtain ⟨h1, h2⟩ := hfields (t + 1) (by omega)
      simp only [packed, if_neg (Nat.ne_of_lt hin), if_neg (Nat.not_lt.mpr hnormal), he,
        hmod, ← hsigned, h1, h2, Int.ofNat_lt]

theorem packed_place {f : BinFmt} (hf : IsIeee f) (rm : RMode) (neg : Bool) (t q : Nat) (inx : Bool) (hq : q ≤ 2 ^ (f.m + 1))
    (ht : t = 0 ∨ 2 ^ f.m ≤ q) : packed f rm neg (t + (1 - (f.bias : Int))) q inx =
      if pastFinite f ≤ t * 2 ^ f.m + q then (overflowTo f rm neg, { ovf := true, nx := true })
      else (signed f neg (t * 2 ^ f.m + q), { nx := inx, uf := inx && decide (t * 2 ^ f.m + q < 2 ^ f.m) }) := by
  obtain ⟨e, frac, hfields, hfrac, hpacked⟩ := packed_fields f rm neg t q inx hq ht
  obtain ⟨hpast, hsub⟩ := pattern_iff hf e frac hfrac
  rw [hpacked, hfields]
  simp only [hpast, hsub]

/-- A magnitude n / d > 0 lies in the place of its exponent, or in the lowest one. -/
theorem place_of_floorLog2 {f : BinFmt} (hf : IsIeee f) (n d t : Nat) (hn : 0 < n) (hd : 0 < d)
    (ht : (t : Int) = max (floorLog2 n d) (1 - (f.bias : Int)) - (1 - f.bias)) :
    n * 2 ^ unitLog f < 2 ^ (f.m + 1) * (2 ^ t * d) ∧ (t = 0 ∨ 2 ^ f.m * (2 ^ t * d) ≤ n * 2 ^ unitLog f) := by
  have hbias := hf.bias
  have hlog : (unitLog f : Int) = f.bias + f.m - 1 := by unfold unitLog; omega
  simp only [← Nat.mul_assoc, ← Nat.pow_add]
  refine ⟨lt_of_floorLog2_lt n d _ _ hd (by push_cast; omega), ?_⟩
  by_cases h : floorLog2 n d ≤ 1 - (f.bias : Int)
  · exact .inl (by omega)
  · exact .inr (le_of_le_floorLog2 n d _ _ hn (by push_cast; omega))

theorem roundBin_eq_place {f : BinFmt} (hf : IsIeee f) (rm : RMode) (neg : Bool) (n d t : Nat) (hn : 0 < n) (hd : 0 < d)
    (ht : (t : Int) = max (floorLog2 n d) (1 - (f.bias : Int)) - (1 - f.bias)) :
    roundBin f rm neg n d =
      let r := roundMag rm neg (n * 2 ^ unitLog f) (2 ^ t * d)
      packed f rm neg (t + (1 - (f.bias : Int))) r.1 r.2 := by
  have hbias := hf.bias
  obtain ⟨hp1, -⟩ := pow2_pos (t + (1 - (f.bias : Int)) - f.m)
  have hcross := pow2_cross (t + (1 - (f.bias : Int)) - f.m) (unitLog f) t (by unfold unitLog; omega)
  rw [roundBin_eq_packed f rm neg n d (Nat.ne_of_gt hn),
    show max (floorLog2 n d) (1 - (f.bias : Int)) = t + (1 - (f.bias : Int)) by omega]
  dsimp only
  rw [roundMag_eq_of_cross rm neg (Nat.mul_pos hd hp1) (Nat.mul_pos (Nat.two_pow_pos t) hd)]
  calc _ = n * d * ((pow2 (t + (1 - (f.bias : Int)) - f.m)).2 * 2 ^ t) := by grind
    _ = _ := by rw [← hcross]; grind

/-- `roundBin` rounds n / d as 05 R125 says. -/
theorem roundBin_rounds {f : BinFmt} (hf : IsIeee f) (rm : RMode) (neg : Bool) (n d : Nat) (hd : 0 < d) :
    Rounds f rm neg (sideOf (n * 2 ^ unitLog f) d) (roundBin f rm neg n d).1 (roundBin f rm neg n d).2 := by
  have hpos := Nat.two_pow_pos f.m
  have hfall := falling_sideOf (n * 2 ^ unitLog f) d hd
  rcases Nat.eq_zero_or_pos n with rfl | hn
  · have hat : ∀ k, 0 < k → sideOf (0 * 2 ^ unitLog f) d k = .lt := fun k hk => by
      rw [sideOf, Nat.zero_mul, Nat.compare_eq_lt]
      exact Nat.mul_pos hk hd
    have hzero : sideOf (0 * 2 ^ unitLog f) d (2 * (0 * 2 ^ 0)) = .eq := by simp [sideOf]
    have hdown : roundsUp rm neg true (0 % 2 == 1) .lt = false := by cases rm <;> simp [roundsUp]
    have key := rounds_place hf rm neg hfall 0 0 (Nat.two_pow_pos _) (.inl rfl) (by rw [hzero]; decide) (hat _ (by decide)) true
      (by rw [hzero]; rfl) 0 (by rw [hat _ (by decide), hdown]; simp)
    have hpast : ¬ pastFinite f ≤ 0 := by have := hf.two_mul_le_pastFinite; omega
    rw [if_neg hpast, if_neg hpast] at key
    exact key
  · obtain ⟨t, ht⟩ : ∃ t : Nat, (t : Int) = max (floorLog2 n d) (1 - (f.bias : Int)) - (1 - f.bias) :=
      ⟨_, Int.toNat_of_nonneg (by omega)⟩
    obtain ⟨hbelow, habove⟩ := place_of_floorLog2 hf n d t hn hd ht
    rw [roundBin_eq_place hf rm neg n d t hn hd ht]
    generalize hN : n * 2 ^ unitLog f = N at *
    have hD : 0 < 2 ^ t * d := Nat.mul_pos (Nat.two_pow_pos t) hd
    have hq : N / (2 ^ t * d) < 2 ^ (f.m + 1) := (Nat.div_lt_iff_lt_mul hD).mpr hbelow
    have htq : t = 0 ∨ 2 ^ f.m ≤ N / (2 ^ t * d) := habove.imp_right (Nat.le_div_iff_mul_le hD).mpr
    have hlow : sideOf N (2 ^ t * d) (2 * (N / (2 ^ t * d))) ≠ .lt := by
      rw [sideOf, Ne, Nat.compare_eq_lt, Nat.not_lt, Nat.mul_assoc]
      exact Nat.mul_le_mul_left 2 (Nat.div_mul_le_self _ _)
    have hhigh : sideOf N (2 ^ t * d) (2 * (N / (2 ^ t * d) + 1)) = .lt := by
      rw [sideOf, Nat.compare_eq_lt, Nat.mul_assoc]
      exact Nat.mul_lt_mul_of_pos_left (Nat.lt_mul_of_div_lt (Nat.lt_succ_self _) hD) Nat.two_pos
    have hscale : ∀ k, sideOf N d (k * 2 ^ t) = sideOf N (2 ^ t * d) k := fun k => (sideOf_mul N d (2 ^ t) k).symm
    have key := rounds_place hf rm neg hfall t (N / (2 ^ t * d)) hq htq (by rwa [← Nat.mul_assoc, hscale])
      (by rwa [← Nat.mul_assoc, hscale]) (sideOf N (2 ^ t * d) (2 * (N / (2 ^ t * d))) == .eq)
      (by rw [← Nat.mul_assoc, hscale]) _ rfl
    rw [hscale] at key
    dsimp only
    rw [roundMag_eq_roundsUp, packed_place hf rm neg t _ _ (by split <;> omega) (by split <;> omega)]
    simpa only [apply_ite Prod.fst, apply_ite Prod.snd] using key

/-! ### Patterns: sign, magnitude, and the exact value (05 R113) -/

theorem magOf_eq_fields (f : BinFmt) (x : Nat) : magOf f x = x / 2 ^ f.m % 2 ^ f.eb * 2 ^ f.m + x % 2 ^ f.m := by
  rw [magOf, Nat.pow_add, Nat.mod_mul]
  grind

theorem IsIeee.exponent_le {f : BinFmt} (hf : IsIeee f) (x : Nat) : x / 2 ^ f.m % 2 ^ f.eb ≤ f.topE + 1 := by
  have := hf.topE
  have := Nat.mod_lt (x / 2 ^ f.m) (Nat.two_pow_pos f.eb)
  omega

theorem isNaN_iff {f : BinFmt} (hf : IsIeee f) (x : Nat) :
    isNaN f x = true ↔ f.topE < x / 2 ^ f.m % 2 ^ f.eb ∧ x % 2 ^ f.m ≠ 0 := by
  have hfrac := Nat.mod_lt x (Nat.two_pow_pos f.m)
  obtain ⟨hpast, -⟩ := pattern_iff hf (x / 2 ^ f.m % 2 ^ f.eb) (x % 2 ^ f.m) hfrac
  rw [isNaN, decide_eq_true_iff, magOf_eq_fields, ← hpast]
  constructor
  · intro h
    refine ⟨Nat.le_of_lt h, fun h0 => ?_⟩
    have he : x / 2 ^ f.m % 2 ^ f.eb = f.topE + 1 := Nat.le_antisymm (hf.exponent_le x) (hpast.mp (Nat.le_of_lt h))
    rw [h0, he, hf.pastFinite_eq] at h
    omega
  · rintro ⟨h, h0⟩
    have he : x / 2 ^ f.m % 2 ^ f.eb = f.topE + 1 := Nat.le_antisymm (hf.exponent_le x) (hpast.mp h)
    rw [he, hf.pastFinite_eq]
    omega

theorem isInf_iff {f : BinFmt} (hf : IsIeee f) (x : Nat) :
    isInf f x = true ↔ f.topE < x / 2 ^ f.m % 2 ^ f.eb ∧ x % 2 ^ f.m = 0 := by
  have hfrac := Nat.mod_lt x (Nat.two_pow_pos f.m)
  obtain ⟨hpast, -⟩ := pattern_iff hf (x / 2 ^ f.m % 2 ^ f.eb) (x % 2 ^ f.m) hfrac
  rw [isInf, beq_iff_eq, magOf_eq_fields, ← hpast]
  constructor
  · intro h
    have he : x / 2 ^ f.m % 2 ^ f.eb = f.topE + 1 := Nat.le_antisymm (hf.exponent_le x) (hpast.mp (Nat.le_of_eq h.symm))
    rw [he, hf.pastFinite_eq] at h
    exact ⟨by rw [he, hf.pastFinite_eq]; omega, by omega⟩
  · rintro ⟨h, h0⟩
    have he : x / 2 ^ f.m % 2 ^ f.eb = f.topE + 1 := Nat.le_antisymm (hf.exponent_le x) (hpast.mp h)
    rw [he, h0, hf.pastFinite_eq, Nat.add_zero]

/-- A pattern of the top exponent decodes to Inf or a NaN. -/
theorem decodeBin_top {f : BinFmt} (hf : IsIeee f) (x : Nat) (h : f.topE < x / 2 ^ f.m % 2 ^ f.eb) :
    decodeBin f x = if x % 2 ^ f.m = 0 then .inf (negOf f x) else .nan := by
  have htop := hf.topE
  have he : (x / 2 ^ f.m % 2 ^ f.eb == 2 ^ f.eb - 1) = true := by
    have := hf.exponent_le x
    rw [beq_iff_eq]
    omega
  unfold decodeBin
  simp only [hf.ieee, he, Bool.and_self, if_true]
  rfl

theorem decodeBin_isNaN {f : BinFmt} (hf : IsIeee f) {x : Nat} (h : isNaN f x = true) : decodeBin f x = .nan := by
  obtain ⟨htop, h0⟩ := (isNaN_iff hf x).mp h
  rw [decodeBin_top hf x htop, if_neg h0]

theorem decodeBin_isInf {f : BinFmt} (hf : IsIeee f) {x : Nat} (h : isInf f x = true) :
    decodeBin f x = .inf (negOf f x) := by
  obtain ⟨htop, h0⟩ := (isInf_iff hf x).mp h
  rw [decodeBin_top hf x htop, if_pos h0]

/-- A finite pattern decodes to its sign and its fraction at the step of its exponent. -/
theorem decodeBin_below_top {f : BinFmt} (hf : IsIeee f) (x e : Nat) (he : x / 2 ^ f.m % 2 ^ f.eb = e) (h : e ≤ f.topE) :
    decodeBin f x =
      if e = 0 then
        .fin (negOf f x) (x % 2 ^ f.m * (pow2 (1 - (f.bias : Int) - f.m)).1) (pow2 (1 - (f.bias : Int) - f.m)).2
      else
        .fin (negOf f x) ((2 ^ f.m + x % 2 ^ f.m) * (pow2 ((e : Int) - f.bias - f.m)).1)
          (pow2 ((e : Int) - f.bias - f.m)).2 := by
  have htop := hf.topE
  have htopF := hf.topF
  have hfrac := Nat.mod_lt x (Nat.two_pow_pos f.m)
  have h1 : (e == 2 ^ f.eb - 1) = false := by rw [beq_eq_false_iff_ne]; omega
  have h2 : decide (f.topE < e) = false := decide_eq_false (Nat.not_lt.mpr h)
  have h3 : decide (f.topF < x % 2 ^ f.m) = false := decide_eq_false (by omega)
  simp only [decodeBin, he, h1, h2, h3, Bool.and_false, Bool.or_self, Bool.false_eq_true, if_false]
  rfl

/-- A finite pattern decodes to its sign and a fraction n / d of its units. -/
theorem decodeBin_finite {f : BinFmt} (hf : IsIeee f) {x : Nat} (hnan : isNaN f x = false) (hinf : isInf f x = false) :
    ∃ n d, 0 < d ∧ n * 2 ^ unitLog f = units f (magOf f x) * d ∧ decodeBin f x = .fin (negOf f x) n d := by
  have hbias := hf.bias
  have hs := Nat.pow_succ' (n := f.m) (m := 2)
  have hfrac := Nat.mod_lt x (Nat.two_pow_pos f.m)
  have hle : x / 2 ^ f.m % 2 ^ f.eb ≤ f.topE := by
    refine Decidable.byContradiction fun h => ?_
    by_cases h0 : x % 2 ^ f.m = 0
    · rw [(isInf_iff hf x).mpr ⟨Nat.not_le.mp h, h0⟩] at hinf; cases hinf
    · rw [(isNaN_iff hf x).mpr ⟨Nat.not_le.mp h, h0⟩] at hnan; cases hnan
  obtain ⟨e, he⟩ : ∃ e, x / 2 ^ f.m % 2 ^ f.eb = e := ⟨_, rfl⟩
  rw [magOf_eq_fields, decodeBin_below_top hf x e he (he ▸ hle), he]
  have hlog : (unitLog f : Int) = f.bias + f.m - 1 := by unfold unitLog; omega
  rcases e with - | t
  · have hcross := pow2_cross (1 - (f.bias : Int) - f.m) (unitLog f) 0 (by omega)
    refine ⟨_, _, (pow2_pos _).2, ?_, if_pos rfl⟩
    rw [units_place f 0 _ (by omega) (.inl rfl), Nat.mul_assoc, hcross]
    grind
  · have hcross := pow2_cross (((t + 1 : Nat) : Int) - f.bias - f.m) (unitLog f) t (by omega)
    refine ⟨_, _, (pow2_pos _).2, ?_, if_neg (Nat.succ_ne_zero t)⟩
    rw [show (t + 1) * 2 ^ f.m + x % 2 ^ f.m = t * 2 ^ f.m + (2 ^ f.m + x % 2 ^ f.m) by grind,
      units_place f t _ (by omega) (.inr (by omega)), Nat.mul_assoc, hcross]
    grind

/-- What a pattern is, and what it decodes to. -/
theorem decodeBin_cases {f : BinFmt} (hf : IsIeee f) (x : Nat) :
    (isNaN f x = true ∧ decodeBin f x = .nan) ∨
    (isNaN f x = false ∧ isInf f x = true ∧ decodeBin f x = .inf (negOf f x)) ∨
    (isNaN f x = false ∧ isInf f x = false ∧
      ∃ n d, 0 < d ∧ n * 2 ^ unitLog f = units f (magOf f x) * d ∧ decodeBin f x = .fin (negOf f x) n d) := by
  cases hnan : isNaN f x
  case true => exact .inl ⟨rfl, decodeBin_isNaN hf hnan⟩
  case false =>
    cases hinf : isInf f x
    case true => exact .inr (.inl ⟨rfl, rfl, decodeBin_isInf hf hinf⟩)
    case false => exact .inr (.inr ⟨rfl, rfl, decodeBin_finite hf hnan hinf⟩)

/-! ### Signs put on and taken off -/

theorem IsIeee.pastFinite_lt {f : BinFmt} (hf : IsIeee f) : pastFinite f < 2 ^ (f.m + f.eb) := by
  rw [hf.pastFinite_eq, Nat.pow_add, Nat.mul_comm]
  exact Nat.mul_lt_mul_of_pos_left (by have := hf.topE; omega) (Nat.two_pow_pos f.m)

theorem magOf_signed (f : BinFmt) (neg : Bool) {p : Nat} (hp : p < 2 ^ (f.m + f.eb)) : magOf f (signed f neg p) = p := by
  cases neg <;> simp [magOf, signed, Nat.mod_eq_of_lt hp]

theorem negOf_signed (f : BinFmt) (neg : Bool) {p : Nat} (hp : p < 2 ^ (f.m + f.eb)) : negOf f (signed f neg p) = neg := by
  cases neg
  · simp [negOf, signed, Nat.div_eq_of_lt hp]
  · simp [negOf, signed, Nat.add_div_left _ (Nat.two_pow_pos (f.m + f.eb)), Nat.div_eq_of_lt hp]

theorem signed_negOf_magOf (f : BinFmt) {x : Nat} (hx : x < 2 ^ (f.m + f.eb + 1)) : signed f (negOf f x) (magOf f x) = x := by
  have hdiv : x / 2 ^ (f.m + f.eb) < 2 := (Nat.div_lt_iff_lt_mul (Nat.two_pow_pos _)).mpr (by rw [← Nat.pow_succ']; exact hx)
  have hx' := Nat.div_add_mod' x (2 ^ (f.m + f.eb))
  unfold signed negOf magOf
  rcases Nat.lt_or_ge (x / 2 ^ (f.m + f.eb)) 1 with h0 | h1
  · rw [Nat.lt_one_iff.mp h0] at hx' ⊢
    simpa using hx'
  · rw [show x / 2 ^ (f.m + f.eb) = 1 by omega] at hx' ⊢
    simpa using hx'

/-! ### FTZ (05 R127) -/

theorem isSubnormal_eq (f : BinFmt) (x : Nat) : isSubnormal f x = decide (0 < magOf f x ∧ magOf f x < 2 ^ f.m) := by
  have hfrac := Nat.mod_lt x (Nat.two_pow_pos f.m)
  rw [magOf_eq_fields, isSubnormal]
  refine Bool.eq_iff_iff.mpr ?_
  rw [Bool.and_eq_true, beq_iff_eq, bne_iff_ne, decide_eq_true_iff]
  rcases Nat.eq_zero_or_pos (x / 2 ^ f.m % 2 ^ f.eb) with h | h
  · rw [h]
    omega
  · have := Nat.mul_le_mul_right (2 ^ f.m) h
    omega

theorem flushOperand_eq_readAs (f : BinFmt) (z : Bool) {x : Nat} (hx : x < 2 ^ (f.m + f.eb + 1)) :
    flushOperand f z x = readAs f z x := by
  have hself := signed_negOf_magOf f hx
  rw [flushOperand, readAs, isSubnormal_eq]
  cases z
  case false => rfl
  case true =>
    rcases Nat.eq_zero_or_pos (magOf f x) with h0 | hpos
    · rw [h0] at hself
      simp [h0, hself]
    · simp only [hpos, true_and]
      rfl

theorem readAs_lt (f : BinFmt) (z : Bool) {x : Nat} (hx : x < 2 ^ (f.m + f.eb + 1)) : readAs f z x < 2 ^ (f.m + f.eb + 1) := by
  have hpos := Nat.two_pow_pos (f.m + f.eb)
  rw [Nat.pow_succ'] at hx ⊢
  unfold readAs signed
  split
  · split <;> omega
  · exact hx

/-- A rounding gives a sign and a magnitude. -/
theorem rounds_signed {f : BinFmt} {rm : RMode} {neg : Bool} {side : Nat → Ordering} {r : Nat} {fl : FlagSet}
    (h : Rounds f rm neg side r fl) : ∃ q, q ≤ pastFinite f ∧ r = signed f neg q := by
  obtain ⟨p, hp, -, -, hr, -⟩ := (rounds_iff f rm neg side r fl).mp h
  exact ⟨_, by split <;> omega, hr⟩

/-- A rounding whose result is flushed. -/
theorem flushResult_roundsFlushed {f : BinFmt} (hf : IsIeee f) {rm : RMode} (z : Bool) {neg : Bool} {side : Nat → Ordering}
    {y : Nat × FlagSet} (h : Rounds f rm neg side y.1 y.2) :
    RoundsFlushed f rm z neg side (flushResult f z y).1 (flushResult f z y).2 := by
  obtain ⟨q, hq, hy⟩ := rounds_signed h
  have hsign : bit y.1 (f.m + f.eb) = neg := by rw [hy]; exact negOf_signed f neg (Nat.lt_of_le_of_lt hq hf.pastFinite_lt)
  refine ⟨y.1, y.2, h, ?_⟩
  rw [flushResult, isSubnormal_eq, hsign]
  by_cases hz : z = true ∧ 0 < magOf f y.1 ∧ magOf f y.1 < 2 ^ f.m
  · rw [if_pos hz, if_pos (by simpa using hz)]
    exact ⟨rfl, rfl⟩
  · rw [if_neg hz, if_neg (by simpa using hz)]
    exact ⟨rfl, rfl⟩

theorem roundBin_roundsFlushed {f : BinFmt} (hf : IsIeee f) (rm : RMode) (z neg : Bool) {n d n' d' : Nat} (hd : 0 < d)
    (hd' : 0 < d') (h : n * 2 ^ unitLog f * d' = n' * d) :
    RoundsFlushed f rm z neg (sideOf n' d') (flushResult f z (roundBin f rm neg n d)).1
      (flushResult f z (roundBin f rm neg n d)).2 := by
  rw [← sideOf_eq_of_cross hd hd' h]
  exact flushResult_roundsFlushed hf z (roundBin_rounds hf rm neg n d hd)

/-! ### Major 0x14 (07 R185, R186) -/

/-- What an instruction of major 0x14 computes in a thread: its function of the operand. -/
theorem f32Op_at (g : RMode → Bool → Nat → Nat × FlagSet) (s : State) (v : RegVal) (th : Fin 32) :
    (f32Op g s [v]).1.at th = BitVec.ofNat 32 (g (rounding s) (flushing s) (v.at th).toNat).1 := by
  unfold f32Op fpOp
  rw [perThreadF_at]
  rfl

theorem f32Op_flags (g : RMode → Bool → Nat → Nat × FlagSet) (s : State) (v : RegVal) :
    (f32Op g s [v]).2.word = raisedBy s (fun th => (g (rounding s) (flushing s) (v.at th).toNat).2) := rfl

theorem floatUnaryGives_of {mk : Reg → Bool → Sel → Instr} {E : RMode → Bool → Nat → Nat → FlagSet → Prop}
    (g : RMode → Bool → Nat → Nat × FlagSet)
    (hexec : ∀ d nw a s, exec (mk d nw a) s = .next (vecOp (mk d nw a) d nw [a] (f32Op g) s))
    (hE : ∀ rm z x, x < 2 ^ 32 → E rm z x (g rm z x).1 (g rm z x).2) : FloatUnaryGives mk E := by
  intro d nw a s h
  refine ⟨fun th => g (rounding s) (flushing s) (operand s [a] 0 th).toNat, fun th _ => hE _ _ _ (operand s [a] 0 th).isLt,
    _, hexec d nw a s, ?_⟩
  have key := vecOp_effect (mk d nw a) d nw [a] (f32Op g) s h
  obtain ⟨r, hi⟩ := issued_eq (vecNeed (mk d nw a) d [a]) s
  obtain ⟨v, hv⟩ : ∃ v, selVals s [] [a] = [v] := ⟨_, rfl⟩
  have hoperand : ∀ th, operand s [a] 0 th = v.at th := fun th => by rw [operand, hv]; rfl
  have hmode : rounding (issued (vecNeed (mk d nw a) d [a]) s) = rounding s ∧
      flushing (issued (vecNeed (mk d nw a) d [a]) s) = flushing s := by rw [hi]; exact ⟨rfl, rfl⟩
  have hraised : ∀ f, raisedBy (issued (vecNeed (mk d nw a) d [a]) s) f = raisedBy s f := by rw [hi]; exact fun _ => rfl
  simp only [hv, f32Op_at, f32Op_flags, hmode, hraised] at key
  simp only [hoperand]
  exact key

/-! ### Zero operands -/

/-- Zero is the one magnitude without units. -/
theorem units_eq_zero_iff (f : BinFmt) (p : Nat) : units f p = 0 ↔ p = 0 := by
  have h0 : units f 0 = 0 := by simp [units]
  constructor
  · intro h
    refine Decidable.byContradiction fun hp => ?_
    have := units_lt_units f (Nat.pos_of_ne_zero hp)
    omega
  · rintro rfl
    exact h0

/-- Of a finite operand the numerator is zero where the magnitude is. -/
theorem num_eq_zero_iff {f : BinFmt} {x n d : Nat} (hd : 0 < d) (h : n * 2 ^ unitLog f = units f (magOf f x) * d) :
    n = 0 ↔ magOf f x = 0 := by
  rw [← units_eq_zero_iff f (magOf f x)]
  have hpos := Nat.two_pow_pos (unitLog f)
  constructor
  · rintro rfl
    have : units f (magOf f x) * d = 0 := by rw [← h, Nat.zero_mul]
    exact (Nat.mul_eq_zero.mp this).resolve_right (Nat.ne_of_gt hd)
  · intro h0
    rw [h0, Nat.zero_mul] at h
    exact (Nat.mul_eq_zero.mp h).resolve_right (Nat.ne_of_gt hpos)

/-! ### Sign operations and the class (07 R186) -/

theorem add_sign_mod_eq_xor (x : Nat) : (x + 2 ^ 31) % 2 ^ 32 = x % 2 ^ 32 ^^^ 2 ^ 31 := by
  apply Nat.eq_of_testBit_eq
  intro i
  rw [Nat.testBit_mod_two_pow, Nat.testBit_xor, Nat.testBit_mod_two_pow, Nat.testBit_two_pow, Nat.add_comm]
  rcases Nat.lt_trichotomy i 31 with h | rfl | h
  · rw [Nat.testBit_two_pow_add_gt h, decide_eq_false (Nat.ne_of_gt h), Bool.xor_false]
  · rw [Nat.testBit_two_pow_add_eq]
    simp
  · rw [decide_eq_false (show ¬ i < 32 by omega), decide_eq_false (Nat.ne_of_lt h)]
    rfl

/-- The class of a pattern by its fields. -/
theorem classOf_eq_fields (x : Nat) (hx : x < 2 ^ 32) : classOf (BitVec.ofNat 32 x) =
    if x / 2 ^ 23 % 2 ^ 8 = 255 then (if x % 2 ^ 23 = 0 then (if negOf fF32 x then 0 else 7) else 8)
    else if x / 2 ^ 23 % 2 ^ 8 = 0 then
      (if x % 2 ^ 23 = 0 then (if negOf fF32 x then 3 else 4) else (if negOf fF32 x then 2 else 5))
    else (if negOf fF32 x then 1 else 6) := by
  have hexp : ∀ v : BitVec 8, (BitVec.ofNat 32 x).extractLsb' 23 8 = v ↔ x / 2 ^ 23 % 2 ^ 8 = v.toNat := fun v => by
    rw [← BitVec.toNat_inj, extractLsb'_toNat_low, BitVec.toNat_ofNat, Nat.mod_eq_of_lt hx]
  have hfrac : (BitVec.ofNat 32 x).extractLsb' 0 23 = 0 ↔ x % 2 ^ 23 = 0 := by
    rw [← BitVec.toNat_inj, extractLsb'_toNat_low, BitVec.toNat_ofNat, Nat.mod_eq_of_lt hx, Nat.pow_zero, Nat.div_one]
    rfl
  have hneg : (BitVec.ofNat 32 x).getLsbD 31 = negOf fF32 x := by
    rw [BitVec.getLsbD_ofNat, Nat.testBit_eq_decide_div_mod_eq]
    rfl
  simp only [classOf, hexp, hfrac, hneg]
  rfl

/-- The one bit that `fclass` sets is that of the class. -/
theorem fpClass_eq_classOf (x : Nat) (hx : x < 2 ^ 32) : fpClass x = 2 ^ classOf (BitVec.ofNat 32 x) := by
  have hf := fF32_isIeee
  have hfrac := Nat.mod_lt x (Nat.two_pow_pos 23)
  have hmag : magOf fF32 x = x / 2 ^ 23 % 2 ^ 8 * 2 ^ 23 + x % 2 ^ 23 := magOf_eq_fields fF32 x
  have hsign : bit x 31 = negOf fF32 x := rfl
  have hle : x / 2 ^ 23 % 2 ^ 8 ≤ 255 := hf.exponent_le x
  rw [classOf_eq_fields x hx, fpClass, hsign]
  by_cases htop : x / 2 ^ 23 % 2 ^ 8 = 255
  · have hdec : decodeBin fF32 x = if x % 2 ^ 23 = 0 then .inf (negOf fF32 x) else .nan :=
      decodeBin_top hf x (show 254 < x / 2 ^ 23 % 2 ^ 8 by omega)
    by_cases h0 : x % 2 ^ 23 = 0
    · rw [hdec, if_pos h0, if_pos htop, if_pos h0]
      cases negOf fF32 x <;> rfl
    · rw [hdec, if_neg h0, if_pos htop, if_neg h0]
  · have hnan : isNaN fF32 x = false := Bool.eq_false_iff.mpr fun h => by
      have : 254 < x / 2 ^ 23 % 2 ^ 8 := ((isNaN_iff hf x).mp h).1
      omega
    have hinf : isInf fF32 x = false := Bool.eq_false_iff.mpr fun h => by
      have : 254 < x / 2 ^ 23 % 2 ^ 8 := ((isInf_iff hf x).mp h).1
      omega
    obtain ⟨n, d, hd, hunits, hdec⟩ := decodeBin_finite hf hnan hinf
    have hzero := num_eq_zero_iff hd hunits
    have hsub : isSubnormal fF32 x = decide (0 < magOf fF32 x ∧ magOf fF32 x < 2 ^ 23) := isSubnormal_eq fF32 x
    rw [hdec, if_neg htop]
    simp only [hzero, hsub, hmag, decide_eq_true_eq]
    by_cases he : x / 2 ^ 23 % 2 ^ 8 = 0
    · by_cases h0 : x % 2 ^ 23 = 0
      · rw [if_pos (by omega), if_pos he, if_pos h0]
        cases negOf fF32 x <;> rfl
      · rw [if_neg (by omega), if_pos (by omega), if_pos he, if_neg h0]
        cases negOf fF32 x <;> rfl
    · rw [if_neg (by omega), if_neg (by omega), if_neg he]
      cases negOf fF32 x <;> rfl

/-! ### Reciprocal and fraction (07 R185) -/

theorem fpRcp_inverts (rm : RMode) (z : Bool) (x : Nat) (hx : x < 2 ^ 32) :
    Inverts rm z x (fpRcp rm z x).1 (fpRcp rm z x).2 := by
  have hf := fF32_isIeee
  unfold Inverts fpRcp
  rw [flushOperand_eq_readAs fF32 z hx]
  generalize readAs fF32 z x = y
  dsimp only
  obtain ⟨hnan, hdec⟩ | ⟨hnan, hinf, hdec⟩ | ⟨hnan, hinf, n, d, hd, hunits, hdec⟩ := decodeBin_cases hf y
  · rw [hnan, hdec]
    exact ⟨rfl, rfl⟩
  · rw [hnan, hinf, hdec]
    exact ⟨rfl, rfl⟩
  have hzero := num_eq_zero_iff hd hunits
  simp only [hnan, hinf, hdec, Bool.false_eq_true, if_false]
  by_cases h0 : n = 0
  · rw [if_pos (hzero.mp h0), if_pos h0]
    exact ⟨rfl, rfl⟩
  · rw [if_neg (mt hzero.mpr h0), if_neg h0]
    have hu : 0 < units fF32 (magOf fF32 y) := Nat.pos_of_ne_zero (mt (units_eq_zero_iff _ _).mp (mt hzero.mpr h0))
    refine roundBin_roundsFlushed hf rm z _ (Nat.pos_of_ne_zero h0) hu ?_
    calc d * 2 ^ unitLog fF32 * units fF32 (magOf fF32 y) = n * 2 ^ unitLog fF32 * 2 ^ unitLog fF32 := by rw [hunits]; grind
      _ = 2 ^ 298 * n := by
        rw [Nat.mul_assoc, ← Nat.pow_add, Nat.mul_comm n, show unitLog fF32 + unitLog fF32 = 298 from rfl]

/-- What lies above the floor, in units: of −n / d it is what n / d lacks to the next integer. -/
theorem fraction_units (neg : Bool) (n d u c : Nat) (hd : 0 < d) (hc : 0 < c) (h : n * c = u * d) :
    (if neg && n % d != 0 then d - n % d else n % d) * c = ((if neg then -(u : Int) else u) % (c : Int)).toNat * d := by
  have hmod : n % d * c = u % c * d := by
    rw [← Nat.mul_mod_mul_right, h, Nat.mul_comm d c, Nat.mul_mod_mul_right]
  have hzero : n % d = 0 ↔ u % c = 0 := by
    have hiff : n % d * c = 0 ↔ u % c * d = 0 := by rw [hmod]
    rwa [mul_eq_zero_iff_of_pos hc, mul_eq_zero_iff_of_pos hd] at hiff
  cases neg
  case false =>
    simp only [Bool.false_and, Bool.false_eq_true, if_false]
    rw [hmod]
    norm_cast
  case true =>
    have hdvd : (c : Int) ∣ u ↔ n % d = 0 := by rw [Int.natCast_dvd_natCast, Nat.dvd_iff_mod_eq_zero, hzero]
    have hlt := Nat.mod_lt u hc
    rw [if_pos rfl, Int.neg_emod]
    by_cases h0 : n % d = 0
    · simp [hdvd, h0]
    · have hne : (n % d != 0) = true := by simpa using h0
      have hrest : ((c : Int).natAbs - (u : Int) % c).toNat = c - u % c := by omega
      rw [hne, Bool.and_self, if_pos rfl, if_neg (mt hdvd.mp h0), hrest, Nat.sub_mul, Nat.sub_mul, hmod, Nat.mul_comm d c]

theorem fpFract_takesFraction (rm : RMode) (z : Bool) (x : Nat) (hx : x < 2 ^ 32) :
    TakesFraction rm z x (fpFract rm z x).1 (fpFract rm z x).2 := by
  have hf := fF32_isIeee
  unfold TakesFraction fpFract
  rw [flushOperand_eq_readAs fF32 z hx]
  generalize readAs fF32 z x = y
  dsimp only
  obtain ⟨hnan, hdec⟩ | ⟨hnan, hinf, hdec⟩ | ⟨hnan, hinf, n, d, hd, hunits, hdec⟩ := decodeBin_cases hf y
  · rw [hnan, hdec]
    exact ⟨rfl, rfl⟩
  · rw [hnan, hinf, hdec]
    exact ⟨rfl, rfl⟩
  have hfraction := fraction_units (negOf fF32 y) n d _ _ hd (Nat.two_pow_pos (unitLog fF32)) hunits
  simp only [hnan, hinf, hdec, Bool.false_eq_true, if_false]
  generalize (if negOf fF32 y && n % d != 0 then d - n % d else n % d) = num at hfraction ⊢
  have hvalue : valueOf fF32 y % 2 ^ 149 =
    (if negOf fF32 y then -(units fF32 (magOf fF32 y) : Int) else units fF32 (magOf fF32 y)) %
      ((2 ^ unitLog fF32 : Nat) : Int) := rfl
  have hrounds := roundBin_roundsFlushed hf rm z false hd Nat.one_pos ((Nat.mul_one _).trans hfraction)
  rw [← hvalue] at hrounds
  refine ⟨_, _, hrounds, ?_⟩
  generalize flushResult fF32 z (roundBin fF32 rm false num d) = r
  by_cases hbig : 0x3F7FFFFF < r.1
  · rw [if_pos hbig, decide_eq_true hbig, Bool.or_true]
    exact ⟨(Nat.min_eq_right (Nat.le_of_lt hbig)).symm, rfl⟩
  · rw [if_neg hbig, decide_eq_false hbig, Bool.or_false]
    exact ⟨(Nat.min_eq_left (Nat.not_lt.mp hbig)).symm, rfl⟩

/-! ### Rounding to an integral value (07 R185) -/

theorem roundMag_integral (rm : RMode) (neg : Bool) (n d : Nat) (hd : 0 < d) : Integral rm neg n d (roundMag rm neg n d).1 := by
  have hlt := Nat.mod_lt n hd
  have hn : n / d * d + n % d = n := Nat.div_add_mod' n d
  have hnext : (n / d + 1) * d = n / d * d + d := by grind
  have hmiddle : (2 * (n / d) + 1) * d = 2 * (n / d * d) + d := by grind
  refine ⟨n / d, by omega, by omega, ?_⟩
  rw [hmiddle]
  have hexact : (n / d * d = n) = (n % d = 0) := propext (by omega)
  have hbelow : (2 * n < 2 * (n / d * d) + d) = (2 * (n % d) < d) := propext (by omega)
  have htie : (2 * n = 2 * (n / d * d) + d) = (2 * (n % d) = d) := propext (by omega)
  simp only [roundMag, hexact, hbelow, htie]
  by_cases h0 : n % d = 0
  · have hd0 : (0 == d) = false := by simpa using Nat.ne_of_lt hd
    cases rm <;> simp [h0, hd0]
  · cases rm
    case ne =>
      simp only [if_neg h0, Bool.or_eq_true, Bool.and_eq_true, decide_eq_true_eq, beq_iff_eq]
      split <;> split <;> omega
    case z => simp [h0]
    case dn => cases neg <;> simp [h0]
    case up => cases neg <;> simp [h0]

/-- An integer that a format's fraction can hold is a value of the format. -/
theorem exists_units_eq_integer {f : BinFmt} (hf : IsIeee f) (hwide : unitLog f < f.topE) (j : Nat) (hj : j ≤ 2 ^ f.m) :
    ∃ p, p < pastFinite f ∧ units f p = j * 2 ^ unitLog f := by
  rcases Nat.eq_zero_or_pos j with rfl | hpos
  · refine ⟨0, by have := hf.two_mul_le_pastFinite; have := Nat.two_pow_pos f.m; omega, ?_⟩
    rw [Nat.zero_mul, units_eq_zero_iff]
  · have hlow := Nat.log2_self_le (Nat.ne_of_gt hpos)
    have hhigh := Nat.lt_log2_self (n := j)
    have hlog : Nat.log2 j ≤ f.m := (Nat.pow_le_pow_iff_right (by decide)).mp (Nat.le_trans hlow hj)
    have hL : f.m ≤ unitLog f := by have := hf.bias; unfold unitLog; omega
    obtain ⟨k, hk⟩ := Nat.exists_eq_add_of_le hlog
    obtain ⟨t, ht⟩ : ∃ t, unitLog f = k + t := ⟨unitLog f - k, by omega⟩
    have hq1 : 2 ^ f.m ≤ j * 2 ^ k := by rw [hk, Nat.pow_add]; exact Nat.mul_le_mul_right _ hlow
    have hq2 : j * 2 ^ k < 2 ^ (f.m + 1) := by
      rw [show f.m + 1 = Nat.log2 j + 1 + k by omega, Nat.pow_add]
      exact Nat.mul_lt_mul_of_pos_right hhigh (Nat.two_pow_pos k)
    refine ⟨t * 2 ^ f.m + j * 2 ^ k, ?_, ?_⟩
    · rw [hf.pastFinite_eq]
      have := Nat.mul_le_mul_right (2 ^ f.m) (show t + 2 ≤ f.topE + 1 by omega)
      rw [Nat.pow_succ'] at hq2
      rw [Nat.add_mul t 2] at this
      omega
    · rw [units_place f t _ (Nat.le_of_lt hq2) (.inr hq1), ht, Nat.pow_add, Nat.mul_assoc]

/-- A value of a format rounded to an integer is a value of the format. -/
theorem exists_units_eq_integral {f : BinFmt} (hf : IsIeee f) (hwide : unitLog f < f.topE) {rm : RMode} {neg : Bool} {p j : Nat}
    (hp : p < pastFinite f) (h : Integral rm neg (units f p) (2 ^ unitLog f) j) :
    ∃ p', p' < pastFinite f ∧ units f p' = j * 2 ^ unitLog f := by
  obtain ⟨i, hlow, hhigh, hj⟩ := h
  by_cases hexact : i * 2 ^ unitLog f = units f p
  · rw [if_pos hexact] at hj
    exact ⟨p, hp, by rw [hj, hexact]⟩
  · have hji : j ≤ i + 1 := by
      rw [if_neg hexact] at hj
      cases rm
      case z => exact hj ▸ Nat.le_succ i
      all_goals
        simp only at hj
        split at hj <;> omega
    refine exists_units_eq_integer hf hwide j (Nat.le_trans hji ?_)
    obtain ⟨t, q, rfl, hq, ht⟩ := exists_place f p
    rw [units_place f t q (Nat.le_of_lt hq) ht] at hlow hhigh hexact
    have hpos := Nat.two_pow_pos (unitLog f)
    have hstep : t < unitLog f := by
      refine Decidable.byContradiction fun hge => ?_
      obtain ⟨c, hc⟩ := Nat.exists_eq_add_of_le (Nat.not_lt.mp hge)
      have hq2 : q * 2 ^ t = q * 2 ^ c * 2 ^ unitLog f := by rw [hc, Nat.pow_add]; grind
      rw [hq2] at hlow hhigh hexact
      have h1 := Nat.le_of_mul_le_mul_right hlow hpos
      have h2 := Nat.lt_of_mul_lt_mul_right hhigh
      exact hexact (by rw [show i = q * 2 ^ c by omega])
    refine Nat.lt_of_mul_lt_mul_right (a := 2 ^ unitLog f) (Nat.lt_of_le_of_lt hlow ?_)
    calc q * 2 ^ t < 2 ^ (f.m + 1) * 2 ^ t := Nat.mul_lt_mul_of_pos_right hq (Nat.two_pow_pos t)
      _ = 2 ^ f.m * 2 ^ (t + 1) := by grind
      _ ≤ 2 ^ f.m * 2 ^ unitLog f := Nat.mul_le_mul_left _ (Nat.pow_le_pow_right Nat.two_pos hstep)

/-- The rounding of a value of the format is that value. -/
theorem rounds_exact {f : BinFmt} {rm : RMode} {neg : Bool} {side : Nat → Ordering} {r : Nat} {fl : FlagSet}
    (hfall : Falling side) (h : Rounds f rm neg side r fl) {p : Nat} (hp : p < pastFinite f)
    (hexact : side (2 * units f p) = .eq) : r = signed f neg p := by
  obtain ⟨p', -, hlow, hhigh, hr, -⟩ := (rounds_iff f rm neg side r fl).mp h
  have heq : p' = p := by
    rcases Nat.lt_trichotomy p' p with hlt | heq | hgt
    · have habove := hhigh.resolve_left (by omega)
      have := units_le_units f (show p' + 1 ≤ p from hlt)
      rw [hfall.lt_of_le (Nat.mul_le_mul_left 2 this) habove] at hexact
      cases hexact
    · exact heq
    · rw [hfall _ _ (Nat.mul_lt_mul_of_pos_left (units_lt_units f hgt) Nat.two_pos) hlow] at hexact
      cases hexact
  subst heq
  have hmiddle : side (units f p' + units f (p' + 1)) = .lt := by
    refine Decidable.byContradiction fun hne => ?_
    have : units f p' < units f (p' + 1) := units_lt_succ f p'
    rw [hfall _ _ (show 2 * units f p' < units f p' + units f (p' + 1) by omega) hne] at hexact
    cases hexact
  have hdown : roundsUp rm neg true (p' % 2 == 1) .lt = false := by cases rm <;> simp [roundsUp]
  rw [hexact, hmiddle] at hr
  exact hr.trans (by rw [show (Ordering.eq == .eq) = true from rfl, hdown]; rfl)

theorem fpRound_makesIntegral (rm : RMode) (z : Bool) (x : Nat) (hx : x < 2 ^ 32) :
    MakesIntegral rm z x (fpRound rm z x).1 (fpRound rm z x).2 := by
  have hf := fF32_isIeee
  unfold MakesIntegral fpRound
  rw [flushOperand_eq_readAs fF32 z hx]
  generalize readAs fF32 z x = y
  dsimp only
  obtain ⟨hnan, hdec⟩ | ⟨hnan, hinf, hdec⟩ | ⟨hnan, hinf, n, d, hd, hunits, hdec⟩ := decodeBin_cases hf y
  · rw [hnan, hdec]
    exact ⟨rfl, rfl⟩
  · rw [hnan, hinf, hdec]
    exact ⟨rfl, rfl⟩
  simp only [hnan, hinf, hdec, Bool.false_eq_true, if_false]
  have hfinite : magOf fF32 y < pastFinite fF32 := by
    simp only [isNaN, isInf, decide_eq_false_iff_not, beq_eq_false_iff_ne] at hnan hinf
    omega
  have hintegral : Integral rm (negOf fF32 y) (units fF32 (magOf fF32 y)) (2 ^ unitLog fF32)
      (roundMag rm (negOf fF32 y) n d).1 := by
    rw [roundMag_eq_of_cross rm _ hd (Nat.two_pow_pos _) hunits]
    exact roundMag_integral rm _ _ _ (Nat.two_pow_pos _)
  obtain ⟨p, hp, hpunits⟩ := exists_units_eq_integral hf (by decide) hfinite hintegral
  refine ⟨_, p, hintegral, hp, hpunits, ?_, trivial⟩
  refine rounds_exact (falling_sideOf _ 1 Nat.one_pos) (roundBin_rounds hf .ne _ _ 1 Nat.one_pos) hp ?_
  rw [sideOf, hpunits, Nat.mul_one, Nat.compare_eq_eq]

/-! ### The square root (07 R185) -/

/-- The bits of a root from 2^k down. -/
theorem isqrtFrom_spec (n k r : Nat) (hlow : r * r ≤ n) (hhigh : n < (r + 2 ^ (k + 1)) * (r + 2 ^ (k + 1))) :
    isqrtFrom n k r * isqrtFrom n k r ≤ n ∧ n < (isqrtFrom n k r + 1) * (isqrtFrom n k r + 1) := by
  induction k generalizing r with
  | zero =>
    unfold isqrtFrom
    split
    · exact ⟨‹_›, hhigh⟩
    · exact ⟨hlow, Nat.not_le.mp ‹_›⟩
  | succ k ih =>
    unfold isqrtFrom
    split
    · refine ih _ ‹_› ?_
      rwa [Nat.add_assoc, ← Nat.two_mul, ← Nat.pow_succ']
    · exact ih _ hlow (Nat.not_le.mp ‹_›)

theorem isqrt_spec (n : Nat) (hn : n < 2 ^ 256) : isqrt n * isqrt n ≤ n ∧ n < (isqrt n + 1) * (isqrt n + 1) :=
  isqrtFrom_spec n 127 0 (Nat.zero_le n) (by rwa [Nat.zero_add, ← Nat.pow_add])

theorem coprime_odd_two (q : Nat) : Nat.Coprime (2 * q + 1) 2 := by
  rw [Nat.Coprime, Nat.gcd_comm, Nat.gcd_rec, Nat.mul_add_mod]
  rfl

/-- Half-way between two roots of 24 bits lies no root of a number of 24 bits: its square has too many bits. -/
theorem no_middle_root (m q a b : Nat) (hm : 0 < m) (hm' : m < 2 ^ 24) (hq : 2 ^ 23 ≤ q) :
    m * 2 ^ a ≠ (2 * q + 1) * (2 * q + 1) * 2 ^ b := by
  intro h
  have hodd : Nat.Coprime (2 * q + 1) (2 ^ a) := (coprime_odd_two q).pow_right a
  have hdvd : (2 * q + 1) * (2 * q + 1) ∣ m :=
    (hodd.mul_left hodd).dvd_of_dvd_mul_right ⟨_, h⟩
  have := Nat.le_of_dvd hm hdvd
  have := Nat.mul_le_mul_right (2 * q + 1) (show 2 ≤ 2 * q + 1 by omega)
  omega

/-- The exponent of the root of n / d, for a pattern's value n / d. -/
theorem floorLog2_range (n d u : Nat) (hn : 0 < n) (hd : 0 < d) (hunits : n * 2 ^ 149 = u * d) (hu : u < 2 ^ 277) :
    -149 ≤ floorLog2 n d ∧ floorLog2 n d ≤ 127 := by
  have hu0 : 0 < u := Nat.pos_of_ne_zero fun h0 => by
    rw [h0, Nat.zero_mul] at hunits
    exact (Nat.ne_of_gt hn) ((Nat.mul_eq_zero.mp hunits).resolve_right (Nat.ne_of_gt (Nat.two_pow_pos 149)))
  constructor
  · refine Decidable.byContradiction fun h => ?_
    have := lt_of_floorLog2_lt n d 149 0 hd (by omega)
    rw [hunits, Nat.pow_zero] at this
    exact absurd (Nat.lt_of_mul_lt_mul_right this) (by omega)
  · refine Decidable.byContradiction fun h => ?_
    have := le_of_le_floorLog2 n d 149 277 hn (by omega)
    rw [hunits] at this
    exact absurd (Nat.le_of_mul_le_mul_right this hd) (Nat.not_le.mpr hu)

/-- The number num / den under the root of `rootF32`: the operand of `u` units in steps that give its root, of place
`t`, 24 bits before the point. -/
structure Radicand (u t num den : Nat) : Prop where
  pos : 0 < den
  low : 2 ^ 46 * den ≤ num
  high : num < 2 ^ 48 * den
  cross : u * 2 ^ 149 * den = num * (2 ^ t * 2 ^ t)

theorem radicand_of_place (n d u t : Nat) (e : Int) (hn : 0 < n) (hd : 0 < d) (hunits : n * 2 ^ 149 = u * d)
    (he : e = floorLog2 n d / 2) (ht : (t : Int) = e + 126) :
    Radicand u t (n * (pow2 (2 * (e - 23))).2) (d * (pow2 (2 * (e - 23))).1) := by
  have hlow := le_of_le_floorLog2 n d (149 + 149) (46 + (t + t)) hn (by omega)
  have hhigh := lt_of_floorLog2_lt n d (149 + 149) (48 + (t + t)) hd (by omega)
  have hcross := pow2_cross (2 * (e - 23)) (149 + 149) (t + t) (by omega)
  obtain ⟨hp1, hp2⟩ := pow2_pos (2 * (e - 23))
  obtain ⟨A, hA⟩ : ∃ A, 2 ^ 149 = A := ⟨_, rfl⟩
  obtain ⟨T, hT⟩ : ∃ T, 2 ^ t = T := ⟨_, rfl⟩
  have hA0 : 0 < A * A := by rw [← hA]; exact Nat.mul_pos (Nat.two_pow_pos 149) (Nat.two_pow_pos 149)
  simp only [Nat.pow_add, hA, hT] at hlow hhigh hcross hunits
  generalize (pow2 (2 * (e - 23))).1 = p1 at *
  generalize (pow2 (2 * (e - 23))).2 = p2 at *
  refine ⟨Nat.mul_pos hd hp1, Nat.le_of_mul_le_mul_right ?_ hA0, Nat.lt_of_mul_lt_mul_right (a := A * A) ?_, ?_⟩
  · calc 2 ^ 46 * (d * p1) * (A * A) = p2 * (2 ^ 46 * (T * T) * d) := by
          rw [show 2 ^ 46 * (d * p1) * (A * A) = 2 ^ 46 * d * (p1 * (A * A)) by grind, hcross]; grind
      _ ≤ p2 * (n * (A * A)) := Nat.mul_le_mul_left _ hlow
      _ = n * p2 * (A * A) := by grind
  · calc n * p2 * (A * A) = p2 * (n * (A * A)) := by grind
      _ < p2 * (2 ^ 48 * (T * T) * d) := Nat.mul_lt_mul_of_pos_left hhigh hp2
      _ = 2 ^ 48 * (d * p1) * (A * A) := by
          rw [show 2 ^ 48 * (d * p1) * (A * A) = 2 ^ 48 * d * (p1 * (A * A)) by grind, hcross]; grind
  · rw [hA, hT]
    calc u * A * (d * p1) = u * d * (A * p1) := by grind
      _ = n * (p1 * (A * A)) := by rw [← hunits]; grind
      _ = n * p2 * (T * T) := by rw [hcross]; grind

/-- The root of the radicand, rounded down, has 24 bits. -/
theorem Radicand.root {u t num den : Nat} (h : Radicand u t num den) :
    2 ^ 23 ≤ isqrt (num / den) ∧ isqrt (num / den) < 2 ^ 24 ∧ isqrt (num / den) * isqrt (num / den) * den ≤ num ∧
      num < (isqrt (num / den) + 1) * (isqrt (num / den) + 1) * den := by
  have hlow : 2 ^ 46 ≤ num / den := (Nat.le_div_iff_mul_le h.pos).mpr h.low
  have hhigh : num / den < 2 ^ 48 := (Nat.div_lt_iff_lt_mul h.pos).mpr h.high
  obtain ⟨h1, h2⟩ := isqrt_spec (num / den) (Nat.lt_trans hhigh (by decide))
  refine ⟨?_, ?_, (Nat.le_div_iff_mul_le h.pos).mp h1, (Nat.div_lt_iff_lt_mul h.pos).mp h2⟩
  · refine Decidable.byContradiction fun hlt => ?_
    have := Nat.mul_self_le_mul_self (show isqrt (num / den) + 1 ≤ 2 ^ 23 from Nat.not_le.mp hlt)
    omega
  · refine Decidable.byContradiction fun hge => ?_
    have := Nat.mul_self_le_mul_self (Nat.not_lt.mp hge)
    omega

/-- The side of a point of place `t` on which the root lies, in terms of the radicand. -/
theorem Radicand.side {u t num den : Nat} (h : Radicand u t num den) (k : Nat) :
    compare (4 * u * 2 ^ 149) (k * 2 ^ t * (k * 2 ^ t)) = compare (4 * num) (k * k * den) := by
  have hT : 0 < 2 ^ t * 2 ^ t := Nat.mul_pos (Nat.two_pow_pos t) (Nat.two_pow_pos t)
  rw [← compare_mul_right _ _ den h.pos, ← compare_mul_right (4 * num) _ _ hT]
  congr 1
  · rw [Nat.mul_assoc 4, Nat.mul_assoc 4, h.cross, Nat.mul_assoc 4]
  · grind

/-- The pattern that `rootF32` makes of a root of 24 bits, or 2^24, and its exponent. -/
def rootPacked (e : Int) (q : Nat) (inx : Bool) : Nat × FlagSet :=
  let (q, e) := if q = 2 ^ 24 then (2 ^ 23, e + 1) else (q, e)
  ((e + 127).toNat * 2 ^ 23 + q % 2 ^ 23, { nx := inx })

theorem rootPacked_place (t q : Nat) (e : Int) (inx : Bool) (ht : (t : Int) = e + 126) (hq : 2 ^ 23 ≤ q)
    (hq' : q ≤ 2 ^ 24) :
    rootPacked e q inx = (t * 2 ^ 23 + q, { nx := inx }) := by
  unfold rootPacked
  by_cases h : q = 2 ^ 24
  · rw [if_pos h]
    refine Prod.ext ?_ rfl
    show (e + 1 + 127).toNat * 2 ^ 23 + 2 ^ 23 % 2 ^ 23 = t * 2 ^ 23 + q
    omega
  · rw [if_neg h]
    refine Prod.ext ?_ rfl
    show (e + 127).toNat * 2 ^ 23 + q % 2 ^ 23 = t * 2 ^ 23 + q
    omega

/-- `rootF32` rounds the root of the radicand; no root lies on a middle. -/
theorem rootF32_eq_packed (rm : RMode) (n d : Nat) {e : Int} {num den q : Nat} (he : floorLog2 n d / 2 = e)
    (hnum : n * (pow2 (2 * (e - 23))).2 = num) (hden : d * (pow2 (2 * (e - 23))).1 = den) (hq : isqrt (num / den) = q)
    (hmiddle : compare (4 * num) ((2 * q + 1) * (2 * q + 1) * den) ≠ .eq) :
    rootF32 rm n d = rootPacked e (if roundsUp rm false (q * q * den == num) (q % 2 == 1)
      (compare (4 * num) ((2 * q + 1) * (2 * q + 1) * den)) then q + 1 else q) (!(q * q * den == num)) := by
  -- `delta`, since an equation of `rootF32` would evaluate powers of two in unary
  delta rootF32 rootPacked
  dsimp only
  rw [he, hnum, hden, hq]
  cases rm
  case ne =>
    have hhalf : decide ((2 * q + 1) * (2 * q + 1) * den < 4 * num) =
        (compare (4 * num) ((2 * q + 1) * (2 * q + 1) * den) == .gt) := by
      refine Bool.eq_iff_iff.mpr ?_
      rw [decide_eq_true_iff, beq_iff_eq, Nat.compare_eq_gt]
    have heq : (compare (4 * num) ((2 * q + 1) * (2 * q + 1) * den) == .eq) = false := by simpa using hmiddle
    simp only [roundsUp, hhalf, heq, Bool.false_and, Bool.or_false]
  all_goals simp only [roundsUp, Bool.false_and, Bool.not_false, Bool.true_and, Bool.false_eq_true, if_false]

/-- The exact root of a pattern's value lies on no middle of two patterns. -/
theorem Radicand.middle_ne {u t num den q m s : Nat} (h : Radicand u t num den) (hu : u = m * 2 ^ s) (hm : 0 < m)
    (hm' : m < 2 ^ 24) (hq : 2 ^ 23 ≤ q) : compare (4 * num) ((2 * q + 1) * (2 * q + 1) * den) ≠ .eq := by
  rw [← h.side (2 * q + 1), Ne, Nat.compare_eq_eq]
  intro heq
  refine no_middle_root m q (s + 149 + 2) (t + t) hm hm' hq ?_
  calc m * 2 ^ (s + 149 + 2) = 4 * u * 2 ^ 149 := by rw [hu]; simp only [Nat.pow_add]; grind
    _ = (2 * q + 1) * (2 * q + 1) * 2 ^ (t + t) := by rw [heq, Nat.pow_add]; grind

/-- The root of u / 2^149, as `rootF32` rounds it, is the root that 07 R185 says, and a normal number. -/
theorem rootF32_rounds (rm : RMode) (n d u m s : Nat) (hn : 0 < n) (hd : 0 < d) (hunits : n * 2 ^ 149 = u * d)
    (hu : u < 2 ^ 277) (hm : m < 2 ^ 24) (hplace : u = m * 2 ^ s) :
    Rounds fF32 rm false (fun k => compare (4 * u * 2 ^ 149) (k * k)) (rootF32 rm n d).1 (rootF32 rm n d).2 ∧
      2 ^ 23 ≤ magOf fF32 (rootF32 rm n d).1 := by
  obtain ⟨hmin, hmax⟩ := floorLog2_range n d u hn hd hunits hu
  obtain ⟨e, he⟩ : ∃ e, floorLog2 n d / 2 = e := ⟨_, rfl⟩
  obtain ⟨t, ht⟩ : ∃ t : Nat, (t : Int) = e + 126 := ⟨_, Int.toNat_of_nonneg (by omega)⟩
  have hrad := radicand_of_place n d u t e hn hd hunits he.symm ht
  obtain ⟨num, hnum⟩ : ∃ num, n * (pow2 (2 * (e - 23))).2 = num := ⟨_, rfl⟩
  obtain ⟨den, hden⟩ : ∃ den, d * (pow2 (2 * (e - 23))).1 = den := ⟨_, rfl⟩
  rw [hnum, hden] at hrad
  obtain ⟨hq23, hq24, hlow, hhigh⟩ := hrad.root
  obtain ⟨q, hq⟩ : ∃ q, isqrt (num / den) = q := ⟨_, rfl⟩
  rw [hq] at hq23 hq24 hlow hhigh
  have hm0 : 0 < m := Nat.pos_of_ne_zero fun h0 => by
    rw [hplace, h0, Nat.zero_mul, Nat.zero_mul] at hunits
    exact (Nat.ne_of_gt hn) ((Nat.mul_eq_zero.mp hunits).resolve_right (Nat.ne_of_gt (Nat.two_pow_pos 149)))
  have hmiddle := hrad.middle_ne hplace hm0 hm hq23
  obtain ⟨p, hp⟩ : ∃ p, p = t * 2 ^ 23 + if roundsUp rm false (q * q * den == num) (q % 2 == 1)
    (compare (4 * num) ((2 * q + 1) * (2 * q + 1) * den)) then q + 1 else q := ⟨_, rfl⟩
  have hroot : rootF32 rm n d = (p, { nx := !(q * q * den == num) }) := by
    rw [rootF32_eq_packed rm n d he hnum hden hq hmiddle,
      rootPacked_place t _ e _ ht (by split <;> omega) (by split <;> omega), hp]
  have hp23 : 2 ^ 23 ≤ p ∧ p < 255 * 2 ^ 23 := by rw [hp]; split <;> omega
  have hside : ∀ k c, compare (4 * u * 2 ^ 149) (c * (k * 2 ^ t) * (c * (k * 2 ^ t))) =
      compare (4 * num) (c * k * (c * k) * den) := fun k c => by rw [← Nat.mul_assoc c, hrad.side]
  have hsquare : ∀ k, 2 * k * (2 * k) * den = 4 * (k * k * den) := fun k => by grind
  have hexact : (q * q * den == num) = (compare (4 * u * 2 ^ 149) (2 * (q * 2 ^ t) * (2 * (q * 2 ^ t))) == .eq) := by
    refine Bool.eq_iff_iff.mpr ?_
    rw [hside, beq_iff_eq, beq_iff_eq, Nat.compare_eq_eq]
    rw [hsquare]
    constructor <;> intro h <;> omega
  have key := rounds_place fF32_isIeee rm false (falling_square (4 * u * 2 ^ 149)) t q hq24 (.inr hq23)
    (by simp only [hside, ne_eq, Nat.compare_eq_lt, Nat.not_lt, hsquare]; omega)
    (by simp only [hside, Nat.compare_eq_lt, hsquare]; omega)
    _ hexact p (by simp only [hrad.side]; exact hp)
  have hfinite : ¬ pastFinite fF32 ≤ p := Nat.not_le.mpr hp23.2
  have hnormal : ¬ p < 2 ^ fF32.m := Nat.not_lt.mpr hp23.1
  rw [if_neg hfinite, if_neg hfinite, decide_eq_false hnormal, Bool.and_false] at key
  rw [hroot]
  refine ⟨?_, ?_⟩
  · rw [show signed fF32 false p = p from Nat.zero_add p] at key
    exact key
  · rw [magOf, Nat.mod_eq_of_lt (Nat.lt_trans hp23.2 (by decide))]
    exact hp23.1

/-- A rounding to a normal number is not flushed. -/
theorem roundsFlushed_of_normal {f : BinFmt} {rm : RMode} (z : Bool) {neg : Bool} {side : Nat → Ordering} {r : Nat}
    {fl : FlagSet} (h : Rounds f rm neg side r fl) (hnormal : 2 ^ f.m ≤ magOf f r) : RoundsFlushed f rm z neg side r fl :=
  ⟨r, fl, h, by rw [if_neg (fun hz => absurd hz.2.2 (Nat.not_lt.mpr hnormal))]; exact ⟨rfl, rfl⟩⟩

/-- The units of an FP32 magnitude: 24 bits at the step of its exponent, below the units of Inf's place. -/
theorem units_fF32 {p : Nat} (hp : p < pastFinite fF32) :
    units fF32 p < 2 ^ 277 ∧ ∃ m s, m < 2 ^ 24 ∧ units fF32 p = m * 2 ^ s := by
  constructor
  · have hpast : units fF32 (pastFinite fF32) = 2 ^ 23 * 2 ^ 254 :=
      units_place fF32 254 (2 ^ 23) (by decide) (.inr (Nat.le_refl _))
    rw [show 277 = 23 + 254 from rfl, Nat.pow_add 2 23 254, ← hpast]
    exact units_lt_units fF32 hp
  · obtain ⟨t, q, rfl, hq, ht⟩ := exists_place fF32 p
    exact ⟨q, t, hq, units_place fF32 t q (Nat.le_of_lt hq) ht⟩

theorem fpSqrt_takesRoot (rm : RMode) (z : Bool) (x : Nat) (hx : x < 2 ^ 32) :
    TakesRoot rm z x (fpSqrt rm z x).1 (fpSqrt rm z x).2 := by
  have hf := fF32_isIeee
  have hlt := readAs_lt fF32 z (x := x) hx
  unfold TakesRoot fpSqrt
  rw [flushOperand_eq_readAs fF32 z hx]
  generalize readAs fF32 z x = y at hlt ⊢
  dsimp only
  obtain ⟨hnan, hdec⟩ | ⟨hnan, hinf, hdec⟩ | ⟨hnan, hinf, n, d, hd, hunits, hdec⟩ := decodeBin_cases hf y
  · rw [hnan, hdec]
    exact ⟨rfl, rfl⟩
  · have hmag : magOf fF32 y ≠ 0 := by
      rw [isInf, beq_iff_eq] at hinf
      rw [hinf]
      decide
    simp only [hnan, hinf, hdec, Bool.false_eq_true, if_false, if_neg hmag, if_true]
    cases negOf fF32 y <;> exact ⟨rfl, rfl⟩
  simp only [hnan, hinf, hdec, Bool.false_eq_true, if_false]
  have hzero := num_eq_zero_iff hd hunits
  by_cases h0 : n = 0
  · have hmag := hzero.mp h0
    have hy : signed fF32 (negOf fF32 y) 0 = y := by rw [← hmag]; exact signed_negOf_magOf fF32 hlt
    rw [if_pos hmag, if_pos h0]
    exact ⟨hy, rfl⟩
  · rw [if_neg (mt hzero.mpr h0), if_neg h0]
    cases negOf fF32 y
    case true => exact ⟨rfl, rfl⟩
    case false =>
      have hfinite : magOf fF32 y < pastFinite fF32 := by
        simp only [isNaN, isInf, decide_eq_false_iff_not, beq_eq_false_iff_ne] at hnan hinf
        omega
      obtain ⟨hu, m, s, hm, hplace⟩ := units_fF32 hfinite
      obtain ⟨hrounds, hnormal⟩ := rootF32_rounds rm n d _ m s (Nat.pos_of_ne_zero h0) hd hunits hu hm hplace
      exact roundsFlushed_of_normal z hrounds hnormal

/-- Settles O9: each row's function of the model has the value that the operand's exact one rounds to. -/
theorem floatUnary : Obligations.FloatUnary := by
  refine ⟨floatUnaryGives_of _ (fun _ _ _ _ => rfl) (fun rm z x hx => ⟨?_, rfl⟩),
    floatUnaryGives_of _ (fun _ _ _ _ => rfl) (fun _ _ _ _ => ⟨rfl, rfl⟩),
    floatUnaryGives_of _ (fun _ _ _ _ => rfl) (fun _ _ x hx => ⟨fpClass_eq_classOf x hx, rfl⟩),
    floatUnaryGives_of fpRcp (fun _ _ _ _ => rfl) fpRcp_inverts,
    floatUnaryGives_of fpSqrt (fun _ _ _ _ => rfl) fpSqrt_takesRoot,
    floatUnaryGives_of _ (fun _ _ _ _ => rfl) (fun _ => fpRound_makesIntegral .ne),
    floatUnaryGives_of _ (fun _ _ _ _ => rfl) (fun _ => fpRound_makesIntegral .z),
    floatUnaryGives_of _ (fun _ _ _ _ => rfl) (fun _ => fpRound_makesIntegral .dn),
    floatUnaryGives_of _ (fun _ _ _ _ => rfl) (fun _ => fpRound_makesIntegral .up),
    floatUnaryGives_of fpFract (fun _ _ _ _ => rfl) fpFract_takesFraction⟩
  rw [add_sign_mod_eq_xor, Nat.mod_eq_of_lt hx]

end Sys2Proof.Compute
